-- ==== Sys2Proof/Word.lean ====
section
/-!
DEFINITION. The word types of the Zilsel instruction set and their plainest arithmetic.
Registers and memory are little-endian (spec 00, R4, R5). -/
namespace Sys2Proof

/-- A stem register, a leaf scalar or a scalar hose entry: 64 bits (spec 01, R21). -/
abbrev Word := BitVec 64
/-- A vector register or a vector hose entry: 32 lanes of 32 bits (spec 01, R21, R22). -/
abbrev Vec := BitVec 1024
/-- A lane mask, EM or LIVE: bit l is lane l (spec 01, R21, R27). -/
abbrev LaneMask := BitVec 32
/-- A virtual address, stem PC or leaf PC: 56 bits (spec 01, R15). -/
abbrev VAddr := BitVec 56

/-- Bits [lo + w - 1 : lo] of x (spec 00, R10). -/
def bitsOf (x lo w : Nat) : Nat := (x >>> lo) % 2 ^ w

/-- Bit i of x, as a truth value. -/
def bitOf (x i : Nat) : Bool := x.testBit i

/-- SignExt(x, ·) of a w-bit value, as an exact integer (spec 00, R10). -/
def signOf (w x : Nat) : Int :=
  if x % 2 ^ w < 2 ^ (w - 1) then (x % 2 ^ w : Nat) else ((x % 2 ^ w : Nat) : Int) - (2 ^ w : Nat)

/-- The low w bits of an exact integer, as two's complement (spec 05, R87). -/
def wrapTo (w : Nat) (x : Int) : Nat := (x % (2 ^ w : Nat)).toNat

/-- The low 64 bits of an exact integer. -/
def wordOf (x : Int) : Word := BitVec.ofNat 64 (wrapTo 64 x)

/-- The numbers from a up, n of them. -/
def upFrom : Nat → Nat → List Nat
  | _, 0 => []
  | a, n + 1 => a :: upFrom (a + 1) n

/-- The numbers below n, ascending. -/
def below (n : Nat) : List Nat := upFrom 0 n

end Sys2Proof
end

