-- ==== Sys2Proof/Syntax.lean ====
section
/-!
DEFINITION. The syntax of everything the machine can do: one constructor per row of the opcode table. Stem words carry
the fields of spec 02 (Tables 2.1, 2.9), leaf words the uniform fields of spec 03 (Table 3.1), and event steps the data
that the step acts on. -/
namespace Sys2Proof

/-- The fields of a leaf word but for its opcode (spec 03, R55, Table 3.1). -/
structure LeafWord where
  vd : BitVec 8
  va : BitVec 8
  vb : BitVec 8
  vc : BitVec 8
  k : BitVec 4
  rnd : BitVec 3
  la : BitVec 4
  ty : BitVec 5
  md : BitVec 6
  imm : BitVec 32
  deriving DecidableEq, Repr

/-- The state in which a die hub, or the host, holds a line (spec 26, Table 26.1). -/
inductive LineSt where
  | m | o | e | s | i
  deriving DecidableEq, Repr

/-- What a check finds in stored data (spec 24, R399, Table 24.1). -/
inductive Check where
  | clean | correctable | uncorrectable
  deriving DecidableEq, Repr

/-- A part of the module that can be lost (spec 24, R405). -/
inductive Part where
  /-- SRAM bank `bank` of a core, by global core index. -/
  | sramBank (core bank : Nat)
  /-- A riser of a die's canopy. -/
  | riser (die riser : Nat)
  /-- A die's canopy tier. -/
  | canopy (die : Nat)
  deriving DecidableEq, Repr

/-- Where a soft error strikes (spec 24, R399, R401). -/
inductive ErrSite where
  /-- A memory sector, by physical address. -/
  | memory (pa : Nat)
  /-- A byte of a core's bench. -/
  | bench (core off : Nat)
  /-- A Tendril tile of a cluster. -/
  | tendril (cl tile off : Nat)
  /-- A lane of a vector register of a drill's context. -/
  | vreg (slot reg lane : Nat)
  /-- A datapath between a read and a write of vector register `reg`: no check covers it. -/
  | datapath (slot reg lane : Nat)
  /-- A Hokux or CXL link, which retries. -/
  | link (port : Nat)
  deriving DecidableEq, Repr

/-- A firmware image as the boot ROM meets it (spec 29, R459; 31, R462). -/
structure Image where
  /-- Whether its signature verifies. -/
  verifies : Bool
  /-- Its security version. -/
  version : BitVec 16
  /-- The fused minimum of the device. -/
  minimum : BitVec 16
  /-- The first other stage whose work fails, if any (1, 3, 4, 5 or 6). -/
  failing : Option Nat
  deriving DecidableEq, Repr

/-- Power of a 64 KiB SRAM bank (spec 31, R465). -/
inductive BankPower where
  | on | retention | gated
  deriving DecidableEq, Repr

/-- Replay mode of a job (spec 24, R406). -/
inductive ReplayMode where
  | free | record | replay
  deriving DecidableEq, Repr

/-- One step of the part: a stem word, a leaf word, or an event. -/
inductive Instr where
  /-- ADD: Writes ga + gb, wrapping to 64 bits, to gd (R113). -/
  | add (d a b : BitVec 6)
  /-- SUB: Writes ga − gb, wrapping to 64 bits, to gd (R113). -/
  | sub (d a b : BitVec 6)
  /-- MUL: Writes the low 64 bits of ga × gb to gd (R113). -/
  | mul (d a b : BitVec 6)
  /-- MULH: Writes the high 64 bits of the signed 128-bit product to gd (R113). -/
  | mulh (d a b : BitVec 6)
  /-- MULHN: Writes the high 64 bits of the unsigned 128-bit product to gd (R113). -/
  | mulhn (d a b : BitVec 6)
  /-- DIV: Writes the signed truncated quotient to gd, with the border results of Table 6.2 and no trap (R114). -/
  | div (d a b : BitVec 6)
  /-- DIVN: Writes the unsigned quotient to gd, with the border results of Table 6.2 and no trap (R114). -/
  | divn (d a b : BitVec 6)
  /-- REM: Writes the signed remainder to gd, with the border results of Table 6.2 (R114). -/
  | rem (d a b : BitVec 6)
  /-- REMN: Writes the unsigned remainder to gd, with the border results of Table 6.2 (R114). -/
  | remn (d a b : BitVec 6)
  /-- AND: Writes the bitwise AND of ga and gb to gd (R113). -/
  | and (d a b : BitVec 6)
  /-- OR: Writes the bitwise OR of ga and gb to gd (R113). -/
  | or (d a b : BitVec 6)
  /-- XOR: Writes the bitwise XOR of ga and gb to gd (R113). -/
  | xor (d a b : BitVec 6)
  /-- SHL: Shifts ga left by gb[5:0], shifting in zeros, and writes the result to gd (R113). -/
  | shl (d a b : BitVec 6)
  /-- SHR: Shifts ga right logically by gb[5:0] and writes the result to gd (R113). -/
  | shr (d a b : BitVec 6)
  /-- SHA: Shifts ga right arithmetically by gb[5:0] and writes the result to gd (R113). -/
  | sha (d a b : BitVec 6)
  /-- MIN: Writes the signed minimum of ga and gb to gd (R113). -/
  | min (d a b : BitVec 6)
  /-- MAX: Writes the signed maximum of ga and gb to gd (R113). -/
  | max (d a b : BitVec 6)
  /-- MINN: Writes the unsigned minimum of ga and gb to gd (R113). -/
  | minn (d a b : BitVec 6)
  /-- MAXN: Writes the unsigned maximum of ga and gb to gd (R113). -/
  | maxn (d a b : BitVec 6)
  /-- SLT: Writes 1 to gd if ga < gb signed, else 0 (R113). -/
  | slt (d a b : BitVec 6)
  /-- SLTN: Writes 1 to gd if ga < gb unsigned, else 0 (R113). -/
  | sltn (d a b : BitVec 6)
  /-- SEQ: Writes 1 to gd if ga = gb, else 0 (R113). -/
  | seq (d a b : BitVec 6)
  /-- CLZ: Writes the count of leading zero bits of ga to gd (R113). -/
  | clz (d a : BitVec 6)
  /-- CTZ: Writes the count of trailing zero bits of ga to gd (R113). -/
  | ctz (d a : BitVec 6)
  /-- POPC: Writes the count of one bits of ga to gd (R113). -/
  | popc (d a : BitVec 6)
  /-- ADDSH: Writes ga + (gb << shift) to gd, with a shift from 0 to 7 (R113). -/
  | addsh (d a b : BitVec 6) (s : BitVec 3)
  /-- ADDI: Writes ga plus the sign-extended imm12 to gd (R115). -/
  | addi (d a : BitVec 6) (i : BitVec 12)
  /-- ANDI: Writes ga AND the sign-extended imm12 to gd (R115). -/
  | andi (d a : BitVec 6) (i : BitVec 12)
  /-- ORI: Writes ga OR the zero-extended imm12 to gd (R115). -/
  | ori (d a : BitVec 6) (i : BitVec 12)
  /-- XORI: Writes ga XOR the zero-extended imm12 to gd (R115). -/
  | xori (d a : BitVec 6) (i : BitVec 12)
  /-- SHLI: Shifts ga left by an immediate count and writes the result to gd (R115). -/
  | shli (d a c : BitVec 6)
  /-- SHRI: Shifts ga right logically by an immediate count and writes the result to gd (R115). -/
  | shri (d a c : BitVec 6)
  /-- SHAI: Shifts ga right arithmetically by an immediate count and writes the result to gd (R115). -/
  | shai (d a c : BitVec 6)
  /-- SLTI: Writes 1 to gd if ga is below the sign-extended immediate, signed (R115). -/
  | slti (d a : BitVec 6) (i : BitVec 12)
  /-- SLTNI: Writes 1 to gd if ga is below the sign-extended immediate, unsigned (R115). -/
  | sltni (d a : BitVec 6) (i : BitVec 12)
  /-- MULI: Writes the low 64 bits of ga times the sign-extended immediate to gd (R115). -/
  | muli (d a : BitVec 6) (i : BitVec 12)
  /-- LDHI: Writes the sign-extended imm18 shifted left by 12 to gd (R44). -/
  | ldhi (d : BitVec 6) (i : BitVec 18)
  /-- PCADD: Writes PC plus the sign-extended imm18 shifted left by 12 to gd (R44). -/
  | pcadd (d : BitVec 6) (i : BitVec 18)
  /-- BEQ: Branches by off12 words when ga = gb (R116). -/
  | beq (a b : BitVec 6) (o : BitVec 12)
  /-- BNE: Branches by off12 words when ga ≠ gb (R116). -/
  | bne (a b : BitVec 6) (o : BitVec 12)
  /-- BLT: Branches by off12 words when ga < gb, signed (R116). -/
  | blt (a b : BitVec 6) (o : BitVec 12)
  /-- BGE: Branches by off12 words when ga ≥ gb, signed (R116). -/
  | bge (a b : BitVec 6) (o : BitVec 12)
  /-- BLTN: Branches by off12 words when ga < gb, unsigned (R116). -/
  | bltn (a b : BitVec 6) (o : BitVec 12)
  /-- BGEN: Branches by off12 words when ga ≥ gb, unsigned (R116). -/
  | bgen (a b : BitVec 6) (o : BitVec 12)
  /-- JMP: Jumps by off24 words (R117). -/
  | jmp (o : BitVec 24)
  /-- CALL: Jumps by off24 words and writes PC + 4 to g47 (R117). -/
  | call (o : BitVec 24)
  /-- JR: Jumps to ga plus four times the sign-extended imm12 (R118). -/
  | jr (a : BitVec 6) (i : BitVec 12)
  /-- CALLR: Jumps to ga plus four times imm12 and writes the link address to gd (R118). -/
  | callr (d a : BitVec 6) (i : BitVec 12)
  /-- LD_I8: Loads a byte and sign-extends it into gd (R120). -/
  | ldI8 (d a : BitVec 6) (l : BitVec 4) (y : BitVec 1) (o : BitVec 5)
  /-- LD_I16: Loads 2 bytes and sign-extends them into gd (R120). -/
  | ldI16 (d a : BitVec 6) (l : BitVec 4) (y : BitVec 1) (o : BitVec 5)
  /-- LD_I32: Loads 4 bytes and sign-extends them into gd (R120). -/
  | ldI32 (d a : BitVec 6) (l : BitVec 4) (y : BitVec 1) (o : BitVec 5)
  /-- LD_I64: Loads 8 bytes into gd (R120). -/
  | ldI64 (d a : BitVec 6) (l : BitVec 4) (y : BitVec 1) (o : BitVec 5)
  /-- LDN_N8: Loads a byte and zero-extends it into gd (R120). -/
  | ldnN8 (d a : BitVec 6) (l : BitVec 4) (y : BitVec 1) (o : BitVec 5)
  /-- LDN_N16: Loads 2 bytes and zero-extends them into gd (R120). -/
  | ldnN16 (d a : BitVec 6) (l : BitVec 4) (y : BitVec 1) (o : BitVec 5)
  /-- LDN_N32: Loads 4 bytes and zero-extends them into gd (R120). -/
  | ldnN32 (d a : BitVec 6) (l : BitVec 4) (y : BitVec 1) (o : BitVec 5)
  /-- ST_I8: Stores the low byte of gs (R120). -/
  | stI8 (s a : BitVec 6) (y : BitVec 1) (o : BitVec 5)
  /-- ST_I16: Stores the low 2 bytes of gs (R120). -/
  | stI16 (s a : BitVec 6) (y : BitVec 1) (o : BitVec 5)
  /-- ST_I32: Stores the low 4 bytes of gs (R120). -/
  | stI32 (s a : BitVec 6) (y : BitVec 1) (o : BitVec 5)
  /-- ST_I64: Stores the 8 bytes of gs (R120). -/
  | stI64 (s a : BitVec 6) (y : BitVec 1) (o : BitVec 5)
  /-- LDA_N32: Performs a scoped acquire load of 4 bytes, zero-extended, raising DT at die scope or wider (R277). -/
  | ldaN32 (d a : BitVec 6) (l : BitVec 4) (c : BitVec 3) (o : BitVec 5)
  /-- LDA_I64: Performs a scoped acquire load of 8 bytes, raising DT at die scope or wider (R277). -/
  | ldaI64 (d a : BitVec 6) (l : BitVec 4) (c : BitVec 3) (o : BitVec 5)
  /-- STL_I32: Performs a scoped release store of 4 bytes after the prior set is performed (R277). -/
  | stlI32 (s a : BitVec 6) (c : BitVec 3) (o : BitVec 5)
  /-- STL_I64: Performs a scoped release store of 8 bytes after the prior set is performed (R277). -/
  | stlI64 (s a : BitVec 6) (c : BitVec 3) (o : BitVec 5)
  /-- LDC_N32: Performs a stale load of 4 bytes that may make a cloche entry (R296). -/
  | ldcN32 (d a : BitVec 6) (l : BitVec 4) (o : BitVec 5)
  /-- LDC_I64: Performs a stale load of 8 bytes that may make a cloche entry (R296). -/
  | ldcI64 (d a : BitVec 6) (l : BitVec 4) (o : BitVec 5)
  /-- LDB_N32: Loads 4 bytes from the bench space, zero-extended (R124). -/
  | ldbN32 (d a : BitVec 6) (l : BitVec 4) (o : BitVec 5)
  /-- LDB_I64: Loads 8 bytes from the bench space (R124). -/
  | ldbI64 (d a : BitVec 6) (l : BitVec 4) (o : BitVec 5)
  /-- STB_I32: Stores 4 bytes to the bench space (R124). -/
  | stbI32 (s a : BitVec 6) (o : BitVec 5)
  /-- STB_I64: Stores 8 bytes to the bench space (R124). -/
  | stbI64 (s a : BitVec 6) (o : BitVec 5)
  /-- AMO_ADD: Atomically adds gb to memory at the scope's point of coherence and returns the old value (R235). -/
  | amoAdd (d a b : BitVec 6) (c : BitVec 3) (z : BitVec 1)
  /-- AMO_AND: Atomically ANDs gb into memory and returns the old value (R235). -/
  | amoAnd (d a b : BitVec 6) (c : BitVec 3) (z : BitVec 1)
  /-- AMO_OR: Atomically ORs gb into memory and returns the old value (R235). -/
  | amoOr (d a b : BitVec 6) (c : BitVec 3) (z : BitVec 1)
  /-- AMO_XOR: Atomically XORs gb into memory and returns the old value (R235). -/
  | amoXor (d a b : BitVec 6) (c : BitVec 3) (z : BitVec 1)
  /-- AMO_MIN: Atomically stores the signed minimum and returns the old value (R235). -/
  | amoMin (d a b : BitVec 6) (c : BitVec 3) (z : BitVec 1)
  /-- AMO_MAX: Atomically stores the signed maximum and returns the old value (R235). -/
  | amoMax (d a b : BitVec 6) (c : BitVec 3) (z : BitVec 1)
  /-- AMO_MINN: Atomically stores the unsigned minimum and returns the old value (R235). -/
  | amoMinn (d a b : BitVec 6) (c : BitVec 3) (z : BitVec 1)
  /-- AMO_MAXN: Atomically stores the unsigned maximum and returns the old value (R235). -/
  | amoMaxn (d a b : BitVec 6) (c : BitVec 3) (z : BitVec 1)
  /-- AMO_SWAP: Atomically swaps gb with memory and returns the old value (R235). -/
  | amoSwap (d a b : BitVec 6) (c : BitVec 3) (z : BitVec 1)
  /-- CAS: Atomically writes gb if memory equals gd and always returns the old value in gd (R235). -/
  | cas (d a b : BitVec 6) (c : BitVec 3) (z : BitVec 1)
  /-- FENCE: Performs a full, acquire or release fence at the named scope (R279). -/
  | fence (c : BitVec 3) (k : BitVec 2)
  /-- CHK: Waits for the drill's cloche entries to resolve, branches if any is struck, and frees them (R291). -/
  | chk (o : BitVec 24)
  /-- CLDROP: Frees the drill's cloche entries for one line, or all of them (R292). -/
  | cldrop (a : BitVec 6)
  /-- LRUN: Checks the leaf entry address and enqueues a leaf routine with copies of g0–g15 and FMODE's control fields (R125). -/
  | lrun (g : BitVec 6) (i : BitVec 18)
  /-- LWAIT: Stalls the stem until the leaf queue is empty and no routine runs (R126). -/
  | lwait
  /-- HCNT: Writes the number of entries in a hose to gd, without popping it (R128). -/
  | hcnt (d : BitVec 6) (h : BitVec 5)
  /-- HTRY: Writes a hose's status word to gd, without popping it (R129). -/
  | htry (d : BitVec 6) (h : BitVec 5)
  /-- TDIST: Presents an access and writes the Tendril slot of the tile, or −1, to gd (R258). -/
  | tdist (d a : BitVec 6) (l : BitVec 4) (o : BitVec 5)
  /-- TSTAKE: Makes a moving touch of a tile and stakes it in its landing slot, writing a status (R259). -/
  | tstake (d a : BitVec 6) (o : BitVec 5)
  /-- TUNSTAKE: Ends the stake of a tile, touches it, and writes a status (R259). -/
  | tunstake (d a : BitVec 6) (o : BitVec 5)
  /-- TTOUCH: Makes a moving touch of a tile without reading or writing data (R258). -/
  | ttouch (a : BitVec 6) (o : BitVec 5)
  /-- BRESIZE: Changes the issuing core's lend to the Tendril and writes a status (R260). -/
  | bresize (d a : BitVec 6)
  /-- XLIN: Starts a copy-engine command that copies a linear range (R328). -/
  | xlin (d a b : BitVec 6)
  /-- XSTR: Starts a strided copy described by a 32-byte descriptor (R328). -/
  | xstr (d a b : BitVec 6)
  /-- XMC: Starts a copy that reads once and writes to the benches of the masked cores (R328). -/
  | xmc (d a b : BitVec 6)
  /-- XZERO: Starts a copy-engine command that zeroes a range (R328). -/
  | xzero (d a : BitVec 6)
  /-- XWAIT: Stalls the stem until a class's outstanding counter is at most n (R336). -/
  | xwait (c : BitVec 2) (n : BitVec 8)
  /-- XYIELD: Parks the drill until a class's counter is at most n, then continues at the target (R336). -/
  | xyield (a : BitVec 6) (c : BitVec 2) (n : BitVec 8)
  /-- BARI: Initialises a barrier word from a template and returns its old value (R227). -/
  | bari (d a b : BitVec 6)
  /-- BARA: Adds drill arrivals to a barrier word and judges phase completion (R227). -/
  | bara (d a b : BitVec 6)
  /-- BARW: Parks the drill until a barrier word's phase completes, or returns at once (R227). -/
  | barw (d a b : BitVec 6)
  /-- BART: Reads a barrier word without parking (R227). -/
  | bart (d a b : BitVec 6)
  /-- LAUNCH: Reads and checks a launch record, creates the launch and writes its handle (R210). -/
  | launch (d a : BitVec 6)
  /-- CANCEL: Marks a work object cancelled and kills its live drills (R211). -/
  | cancel (a : BitVec 6) (l : BitVec 3)
  /-- CNTRD: Reads the completion counter of a work object, with acquire effect when it reads 0 (R212). -/
  | cntrd (d a : BitVec 6) (l : BitVec 3)
  /-- PHOPEN: Reads a phase header, waits for a free phase line and creates the phase (R213). -/
  | phopen (d a : BitVec 6)
  /-- PHWAIT: Stalls the stem until a phase completes, with acquire effect (R214). -/
  | phwait (a : BitVec 6)
  /-- TRAYPUT: Inserts a key and value into the die's seed tray, as a release at die scope (R215). -/
  | trayput (a b : BitVec 6)
  /-- TRAYTAKE: Removes an entry of low rank from the seed tray and writes it to gd (R215). -/
  | traytake (d : BitVec 6)
  /-- SYSR: Reads a system register into gd (R130). -/
  | sysr (d : BitVec 6) (i : BitVec 12)
  /-- SYSW: Writes ga to a system register, with the special cases of each register (R130). -/
  | sysw (a : BitVec 6) (i : BitVec 12)
  /-- TRAP: Takes the software trap to the supervisor vector, carrying a code (R132). -/
  | trap (i : BitVec 18)
  /-- ERET: Returns from a trap, restoring privilege and resuming both streams, or unbinds the drill (R383). -/
  | eret
  /-- YIELD: Holds the stem until every other ready drill of the core has issued or ceased to be ready (R134). -/
  | yield
  /-- EXIT: Stops the stem stream so the drill retires after its routines end (R135). -/
  | exit
  /-- SHOOT: Removes translations of a range from the caches in scope and strikes the named cloche entries (R312). -/
  | shoot (a b : BitVec 6) (c : BitVec 3)
  /-- CLSAVE: Writes the drill's unresolved and struck cloche entries to a bench save block and frees them (R396). -/
  | clsave (a : BitVec 6)
  /-- CLREST: Restores cloche entries from a save block, all as struck (R397). -/
  | clrest (a : BitVec 6)
  /-- VADD: Adds lane elements, wrapping or saturating under FMODE.SAT (R142). -/
  | vadd (w : LeafWord)
  /-- VSUB: Subtracts lane elements, wrapping or saturating (R142). -/
  | vsub (w : LeafWord)
  /-- VMUL: Multiplies lane elements, wrapping or saturating (R142). -/
  | vmul (w : LeafWord)
  /-- VMULH: Writes the high half of each lane's exact product (R142). -/
  | vmulh (w : LeafWord)
  /-- VMAD: Writes a × b + c per lane, formed exactly (R142). -/
  | vmad (w : LeafWord)
  /-- VAND: Bitwise AND per lane (R142). -/
  | vand (w : LeafWord)
  /-- VOR: Bitwise OR per lane (R142). -/
  | vor (w : LeafWord)
  /-- VXOR: Bitwise XOR per lane (R142). -/
  | vxor (w : LeafWord)
  /-- VNOT: Bitwise complement per lane (R142). -/
  | vnot (w : LeafWord)
  /-- VSHL: Shifts each lane left (R142). -/
  | vshl (w : LeafWord)
  /-- VSHR: Shifts each lane right logically (R142). -/
  | vshr (w : LeafWord)
  /-- VSHA: Shifts each lane right arithmetically (R142). -/
  | vsha (w : LeafWord)
  /-- VMIN: Integer minimum per lane (R142). -/
  | vmin (w : LeafWord)
  /-- VMAX: Integer maximum per lane (R142). -/
  | vmax (w : LeafWord)
  /-- VABS: Absolute value per lane (R142). -/
  | vabs (w : LeafWord)
  /-- VNEG: Negation per lane (R142). -/
  | vneg (w : LeafWord)
  /-- VCLZ: Counts leading zero bits per lane (R142). -/
  | vclz (w : LeafWord)
  /-- VPOPC: Counts one bits per lane (R142). -/
  | vpopc (w : LeafWord)
  /-- VSEL: Selects va or vb per lane by a mask register (R143). -/
  | vsel (w : LeafWord)
  /-- VFADD: Floating-point add per lane, rounded once (R144). -/
  | vfadd (w : LeafWord)
  /-- VFSUB: Floating-point subtract per lane, rounded once (R144). -/
  | vfsub (w : LeafWord)
  /-- VFMUL: Floating-point multiply per lane, rounded once (R144). -/
  | vfmul (w : LeafWord)
  /-- VFMA: Fused a × b + c per lane (R144). -/
  | vfma (w : LeafWord)
  /-- VFMS: Fused a × b − c per lane (R144). -/
  | vfms (w : LeafWord)
  /-- VFNMA: Fused c − a × b per lane (R144). -/
  | vfnma (w : LeafWord)
  /-- VFDIV: Correctly rounded division per lane (R144). -/
  | vfdiv (w : LeafWord)
  /-- VFSQRT: Correctly rounded square root per lane (R144). -/
  | vfsqrt (w : LeafWord)
  /-- VFRCP: Correctly rounded reciprocal per lane (R144). -/
  | vfrcp (w : LeafWord)
  /-- VFRSQ: Correctly rounded reciprocal square root per lane (R144). -/
  | vfrsq (w : LeafWord)
  /-- VFEXP2: Correctly rounded 2^a per lane (R144). -/
  | vfexp2 (w : LeafWord)
  /-- VFLOG2: Correctly rounded log2 a per lane (R144). -/
  | vflog2 (w : LeafWord)
  /-- VFMIN: Floating-point minimum per lane (R146). -/
  | vfmin (w : LeafWord)
  /-- VFMAX: Floating-point maximum per lane (R146). -/
  | vfmax (w : LeafWord)
  /-- VFABS: Clears the sign bit per lane (R147). -/
  | vfabs (w : LeafWord)
  /-- VFNEG: Inverts the sign bit per lane (R147). -/
  | vfneg (w : LeafWord)
  /-- VFCLASS: Writes a one-hot class word per lane (R148). -/
  | vfclass (w : LeafWord)
  /-- VCMP: Compares lanes under a condition and writes a mask register (R149). -/
  | vcmp (w : LeafWord)
  /-- VCVT: Converts lane elements between formats (R152). -/
  | vcvt (w : LeafWord)
  /-- VREQB: Requantises one Q8 block per lane to a new scale (R154). -/
  | vreqb (w : LeafWord)
  /-- VQBLK: Quantises one FP32 block per lane to Q8 with a chosen scale (R154). -/
  | vqblk (w : LeafWord)
  /-- VDQB: Dequantises one Q8 block per lane to FP32 (R154). -/
  | vdqb (w : LeafWord)
  /-- SADD: Adds two leaf scalars (R155). -/
  | sadd (w : LeafWord)
  /-- SADDI: Adds a sign-extended immediate to a leaf scalar (R155). -/
  | saddi (w : LeafWord)
  /-- SSUB: Subtracts two leaf scalars (R155). -/
  | ssub (w : LeafWord)
  /-- SMUL: Multiplies two leaf scalars (R155). -/
  | smul (w : LeafWord)
  /-- SSHL: Shifts a leaf scalar left (R155). -/
  | sshl (w : LeafWord)
  /-- SMOV: Copies a leaf scalar (R155). -/
  | smov (w : LeafWord)
  /-- VMOV: Copies active lanes of a vector register (R156). -/
  | vmov (w : LeafWord)
  /-- VMOVI: Writes an immediate-derived value to every active lane (R156). -/
  | vmovi (w : LeafWord)
  /-- VLANE: Writes each active lane's number to that lane (R156). -/
  | vlane (w : LeafWord)
  /-- VBCS: Broadcasts a scalar to every active lane (R156). -/
  | vbcs (w : LeafWord)
  /-- VEXS: Extracts one lane's element into a scalar (R156). -/
  | vexs (w : LeafWord)
  /-- KAND: ANDs two mask registers (R150). -/
  | kand (w : LeafWord)
  /-- KOR: ORs two mask registers (R150). -/
  | kor (w : LeafWord)
  /-- KXOR: XORs two mask registers (R150). -/
  | kxor (w : LeafWord)
  /-- KNOT: Complements a mask register (R150). -/
  | knot (w : LeafWord)
  /-- KMOV: Copies a mask register (R150). -/
  | kmov (w : LeafWord)
  /-- KPOPC: Writes the one-bit count of a mask register to a scalar (R150). -/
  | kpopc (w : LeafWord)
  /-- LMASK: Sets EM to a mask register ANDed with the split's live lanes (R151). -/
  | lmask (w : LeafWord)
  /-- LGETM: Copies EM to a mask register (R151). -/
  | lgetm (w : LeafWord)
  /-- VSHUF: Gathers each lane's value from an indexed source lane (R171). -/
  | vshuf (w : LeafWord)
  /-- VSHFUP: Shifts lane values up by a distance (R171). -/
  | vshfup (w : LeafWord)
  /-- VSHFDN: Shifts lane values down by a distance (R171). -/
  | vshfdn (w : LeafWord)
  /-- VBCL: Broadcasts one lane's value to every active lane (R171). -/
  | vbcl (w : LeafWord)
  /-- VVOTE: Writes an all, any or uniform vote over active lanes to a scalar (R172). -/
  | vvote (w : LeafWord)
  /-- VBALLOT: Writes a mask of active lanes whose element is set (R172). -/
  | vballot (w : LeafWord)
  /-- VSCAN: Writes an inclusive scan over active lanes in ascending order (R173). -/
  | vscan (w : LeafWord)
  /-- VRED: Reduces active lanes in ascending order into a scalar (R173). -/
  | vred (w : LeafWord)
  /-- VLD: Loads one element per active lane from memory (R158). -/
  | vld (w : LeafWord)
  /-- VST: Stores one element per active lane to memory (R158). -/
  | vst (w : LeafWord)
  /-- VLDB: Loads one element per active lane from the bench space (R164). -/
  | vldb (w : LeafWord)
  /-- VSTB: Stores one element per active lane to the bench space (R164). -/
  | vstb (w : LeafWord)
  /-- VLDF: Loads a fragment register group from a swizzled bench panel (R166). -/
  | vldf (w : LeafWord)
  /-- VSTF: Stores a fragment register group to a bench panel and sets the swizzle tags (R166). -/
  | vstf (w : LeafWord)
  /-- VLDA: Performs a scoped acquire load per active lane (R278). -/
  | vlda (w : LeafWord)
  /-- VSTL: Performs a scoped release store per active lane (R278). -/
  | vstl (w : LeafWord)
  /-- VLDC: Performs a stale load per line of the active lanes, making cloche entries (R297). -/
  | vldc (w : LeafWord)
  /-- VAMO: Performs an atomic operation per active lane in ascending lane order for overlaps (R237). -/
  | vamo (w : LeafWord)
  /-- VCAS: Performs a compare-and-swap per active lane (R237). -/
  | vcas (w : LeafWord)
  /-- XIDX: Starts a gather of one block per active lane into bench rows, by index or by key (R330). -/
  | xidx (w : LeafWord)
  /-- LBR: Branches the lanes of its mask, dividing the split where needed (R179). -/
  | lbr (w : LeafWord)
  /-- SBR: Branches the whole split on a scalar comparison (R186). -/
  | sbr (w : LeafWord)
  /-- LJMP: Moves the running split to a target (R186). -/
  | ljmp (w : LeafWord)
  /-- LCALL: Pushes a return address on the split's stack and jumps (R186). -/
  | lcall (w : LeafWord)
  /-- LRET: Pops the split's return stack and jumps there (R186). -/
  | lret (w : LeafWord)
  /-- LJOIN: Merges waiting splits and waits for the splits still awaited (R185). -/
  | ljoin (w : LeafWord)
  /-- LYIELD: Advances the PC and passes the leaf stream at a switch point (R186). -/
  | lyield (w : LeafWord)
  /-- LEND: Ends the running split and releases the leaf stream (R186). -/
  | lend (w : LeafWord)
  /-- LEXIT: Retires the lanes of its effective mask (R186). -/
  | lexit (w : LeafWord)
  /-- MSSA: Issues a block-scaled ternary×INT8 matrix operation on a tile pair (R351). -/
  | mssa (w : LeafWord)
  /-- MDOT: Issues a fused dot-product matrix operation on a tile (R352). -/
  | mdot (w : LeafWord)
  /-- MZERO: Issues an operation that zeroes a tile in its order (R353). -/
  | mzero (w : LeafWord)
  /-- MLOAD: Issues an operation that loads a tile from bench or memory (R354). -/
  | mload (w : LeafWord)
  /-- MDRAIN: Issues an operation that drains a tile, converting, adding on store or requantising (R355). -/
  | mdrain (w : LeafWord)
  /-- EINIT: Initialises an espalier with a type and row count (R366). -/
  | einit (w : LeafWord)
  /-- EAPP: Appends a Householder reflector to an espalier, recompacting first when full (R368). -/
  | eapp (w : LeafWord)
  /-- ELEFT: Applies Q or Qᵀ on the left to a bench panel (R370). -/
  | eleft (w : LeafWord)
  /-- ERIGHT: Applies Q or Qᵀ on the right to a bench panel (R370). -/
  | eright (w : LeafWord)
  /-- ECAP: Sets an espalier's capacity (R367). -/
  | ecap (w : LeafWord)
  /-- ESTAT: Waits for an espalier's operations and writes its status word to a scalar (R372). -/
  | estat (w : LeafWord)
  /-- ESAVE: Writes an espalier's save area to the bench (R374). -/
  | esave (w : LeafWord)
  /-- EREST: Checks a save area and restores an espalier from it (R375). -/
  | erest (w : LeafWord)
  /-- ROUTINE_START: When the leaf stream is idle, the head queue entry starts as a leaf routine with s registers set from its copy (R18). -/
  | routineStart (slot : Nat)
  /-- LRUN_QUEUE_SLOT_FREE: A stalled LRUN enters the queue when a slot frees and takes its copies then (R18). -/
  | lrunQueueSlotFree (slot : Nat)
  /-- LWAIT_RELEASE: A stalled LWAIT completes when the queue is empty and no routine runs (R126). -/
  | lwaitRelease (slot : Nat)
  /-- PARKED_WORD_RETEST: A word parked on hoses is tested again when a hose it names gains or loses an entry, and issues when its condition holds (R220). -/
  | parkedWordRetest (slot : Nat) (leaf : Bool)
  /-- ASYNC_TRAP_HOLD_EXPIRY: An asynchronous trap held by an open lookahead window is taken after 64 issued instructions (R34). -/
  | asyncTrapHoldExpiry (slot : Nat)
  /-- DRILL_RETIRE: A drill whose stem has exited and whose routines have drained retires when every counter reads zero, and its bed counter falls (R36). -/
  | drillRetire (slot : Nat)
  /-- BIND_RECORD_VALID: The Gardener sets V in a bind record and the core creates or restores the drill, or the hub posts a bind error (R203). -/
  | bindRecordValid (slot : Nat) (w0 w1 w2 w3 : Word)
  /-- LAUNCH_DEPENDENCE_RELEASE: A launch is released for dispatch when every listed launch is complete, or cancelled if one completed cancelled (R198). -/
  | launchDependenceRelease (obj : Nat)
  /-- PHASE_ARRIVAL: A launch's arrival reaches its phase destination and counts it down, setting the error bit where due (R200). -/
  | phaseArrival (obj dest : Nat) (err : Bool)
  /-- PHASE_LINE_RAISE: A destination at zero raises its phase line once no request tagged with the phase remains, completing the phase when all are raised (R201). -/
  | phaseLineRaise (obj dest : Nat)
  /-- PHWAIT_RELEASE: A stalled PHWAIT completes when its phase completes, faulting if in error (R214). -/
  | phwaitRelease (slot : Nat)
  /-- TRAYPUT_RESUME: A TRAYPUT stalled on a full quota inserts its entry once an entry is taken (R215). -/
  | trayputResume (slot : Nat)
  /-- CONGESTION_SAMPLE: Every 64 cycles a controller samples its fullest channel queue and reports a congestion level on VC3 (R429). -/
  | congestionSample (die : Nat)
  /-- CONGESTION_LEVEL_APPLY: A core applies the highest reported level, held at least 256 cycles, to limit issuing drills (R205). -/
  | congestionLevelApply (core : Nat)
  /-- THROTTLE_POINTER_ADVANCE: The throttle pointer advances by one context every 1,024 cycles (R205). -/
  | throttlePointerAdvance (core : Nat)
  /-- SIGNALLER_UNMAPPED_EVENT: The hub raises, and repeats every 100 µs, a signaller-unmapped event for a stuck semaphore wait (R209). -/
  | signallerUnmappedEvent (die q : Nat)
  /-- MAILBOX_WRITE: The host writes a mailbox line, and the Gardener acts on a changed SEQ (R456). -/
  | mailboxWrite (die pair : Nat) (data : Vec)
  /-- QUEUE_NOP: A queue NOP command completes at once (R457). -/
  | queueNop (die q : Nat)
  /-- QUEUE_LAUNCH: A queue LAUNCH command creates a launch in the job's root phase (R457). -/
  | queueLaunch (die q : Nat)
  /-- QUEUE_WAIT: A queue WAIT command completes when the semaphore VALUE reaches the target (R457). -/
  | queueWait (die q : Nat)
  /-- QUEUE_SIGNAL: A queue SIGNAL command waits for earlier launches, then raises the semaphore VALUE as a system release (R457). -/
  | queueSignal (die q : Nat)
  /-- QUEUE_XFER: A queue XFER command copies over the external ports to another device (R457). -/
  | queueXfer (die q : Nat)
  /-- BARW_WAKE: A completion or error of a barrier word wakes every parked waiter within 64 cycles (R228). -/
  | barwWake (slot : Nat)
  /-- TENDRIL_STEP: Every 4 cycles front arbitration admits up to four accesses and applies their moves in rank order (R248). -/
  | tendrilStep (cl : Nat)
  /-- TILE_LAND: A tile in motion lands at the end of its landing step and its write-chase buffer is applied (R253). -/
  | tileLand (cl tile : Nat)
  /-- TILE_FILL_RETURN: Memory returns sectors of a missed tile, filling it under pending stores (R254). -/
  | tileFillReturn (cl tile line : Nat)
  /-- TILE_WRITEBACK_ACK: Memory acknowledges the write-back of a tile that left the base, freeing its buffer (R255). -/
  | tileWritebackAck (cl tile : Nat)
  /-- HUB_STORE_STAMP: A store reaching the die hub is stamped by Stamp() with the drill's DT (R268). -/
  | hubStoreStamp (id : Nat)
  /-- STAMP_RESPONSE: The stamp response updates the copy's stamps and the drill's PSTAMP (R268). -/
  | stampResponse (id w wts : Nat)
  /-- HUB_FILL: A hub serves a fill of a shared-class line, extending rts and returning data and wts (R267). -/
  | hubFill (cl line slot dt lease : Nat)
  /-- HUB_RENEWAL: A hub serves a renewal, extending rts and returning data only if wts differs (R267). -/
  | hubRenewal (cl line slot dt lease wts : Nat)
  /-- LEASE_RESPONSE: A fill or renewal response reaches the cluster copy, merging under pending bytes (R267). -/
  | leaseResponse (cl line slot wts rts : Nat) (data : Option Vec) (psn : BitVec 4)
  /-- PAGE_RECLASSIFY: A miss from another cluster on a private page makes the owner's hub write back, shoot down and mark the page shared (R271). -/
  | pageReclassify (pte : Nat)
  /-- REGION_MERGE: Two sibling halves merge after 4,096 hub operations without conflict (R272). -/
  | regionMerge (die base size : Nat)
  /-- DT_DRIFT: DT of a bound drill rises by 1 every 1,024 cycles (R266). -/
  | dtDrift (slot : Nat)
  /-- STAMP_REBASE: Firmware unbinds the die's drills and resets every stamp of the die to 1 (R467). -/
  | stampRebase (die : Nat)
  /-- CLOCHE_VERIFY: The hub serves a verify request, confirming or striking the entry and updating the copy (R288). -/
  | clocheVerify (core ent line wts dt lease : Nat)
  /-- CLOCHE_VERDICT: A verdict reaches the core, freeing a confirmed entry or marking it struck, or is discarded (R288). -/
  | clocheVerdict (core ent line wts : Nat) (struck : Bool)
  /-- CHK_RESOLVE: A stalled CHK completes when none of its entries is unresolved (R291). -/
  | chkResolve (slot : Nat)
  /-- TRANSLATION_WALK: The walker engine completes a native or host walk and fills the caches or reports a fault (R304). -/
  | translationWalk (die job page : Nat) (store : Bool)
  /-- POOL_PAGE_ADD: The Gardener adds a zeroed page to the first-touch pool, completing a parked pool load (R311). -/
  | poolPageAdd (die size pa : Nat)
  /-- BENCH_MAP_WRITE: The Gardener writes a bench map entry, clearing its present and dirty bits (R313). -/
  | benchMapWrite (core idx off len : Nat) (va : VAddr) (job : Nat)
  /-- BENCH_MAP_WRITEBACK: Dirty mapped bench tiles are written back when the entry is cleared or the job ends (R314). -/
  | benchMapWriteback (core idx : Nat)
  /-- MIGRATION_MOVE: The migration engine locks, copies and switches a page, or aborts (R315). -/
  | migrationMove (die job : Nat) (va : VAddr) (frame : Nat)
  /-- SHOOT_REMOTE: Another die's hub removes translations for a device or system shootdown and acknowledges (R421). -/
  | shootRemote (die id : Nat)
  /-- COPY_RETIRE: A copy command retires in issue order and its counter falls by 1 (R320). -/
  | copyRetire (slot cls : Nat)
  /-- XWAIT_RELEASE: A stalled XWAIT completes when its counter is at most n (R336). -/
  | xwaitRelease (slot : Nat)
  /-- XYIELD_WAKE: A parked XYIELD wakes within 64 cycles of its counter falling to n and continues at its target (R336). -/
  | xyieldWake (slot : Nat)
  /-- MATRIX_ACCEPT: A stalled matrix or espalier word is accepted when the queue and counter allow (R342). -/
  | matrixAccept (slot : Nat)
  /-- MATRIX_RETIRE: A matrix or espalier operation retires in acceptance order, merging flags and decrementing oc.matrix (R345). -/
  | matrixRetire (core : Nat)
  /-- MATRIX_ERROR_TRAP: A failed operation that names no barrier word raises an imprecise matrix-error trap (R347). -/
  | matrixErrorTrap (slot : Nat)
  /-- PREEMPT_COMMAND: The Gardener commands pre-emption; the trap is taken when no holding condition remains (R390). -/
  | preemptCommand (slot deadline : Nat)
  /-- PREEMPTION_TRAP: The pre-emption trap is taken, writing trap registers and vectoring to TVEC (R381). -/
  | preemptionTrap (slot : Nat)
  /-- UNBIND: ERET with UNB waits for the counters, stores DT, spills bed channels and frees the slot (R393). -/
  | unbind (slot : Nat)
  /-- FIRMWARE_RESUME: Firmware resumes a drill after a firmware call or double fault (R387). -/
  | firmwareResume (slot : Nat) (scr : Option Word)
  /-- SRAM_SCRUB: The scrubber visits each 64-bit SRAM word every 2^28 cycles, correcting and writing back (R400). -/
  | sramScrub (core addr : Nat)
  /-- OWNER_ZEROING: A core zeroes resources passing to another job before the bind record takes effect (R402). -/
  | ownerZeroing (core job : Nat)
  /-- JOB_END: At job end private tiles are written back and zeroed and stakes end (R403). -/
  | jobEnd (job : Nat)
  /-- SNAPSHOT: Firmware pre-empts a job and the hub copies its save areas to a snapshot region (R404). -/
  | snapshot (job region : Nat)
  /-- PART_LOSS: Loss of an SRAM bank, riser or canopy tier kills the affected drills and cancels their beds (R405). -/
  | partLoss (part : Part)
  /-- RDS: The home serves a read-for-sharing request (R413). -/
  | rds (line agent : Nat)
  /-- RDX: The home serves a read-for-ownership request (R413). -/
  | rdx (line agent : Nat)
  /-- UPG: The home serves an upgrade to M, as RdX if the copy is gone (R413). -/
  | upg (line agent : Nat)
  /-- WB: The home takes a write-back of an M or O line (R413). -/
  | wb (line agent : Nat) (data : Vec) (psn : BitVec 4)
  /-- EVICT: The home clears the holder bit for a clean eviction (R413). -/
  | evict (line agent : Nat)
  /-- FWDS: A holder receives FwdS and sends data to the requester, downgrading (R413). -/
  | fwds (line holder req : Nat)
  /-- FWDX: A holder receives FwdX, sends data and goes to I (R413). -/
  | fwdx (line holder req : Nat)
  /-- INV: A holder receives Inv, goes to I and acknowledges (R413). -/
  | inv (line holder req : Nat)
  /-- COHERENCE_DATA: A hub receives line data and re-stamps the region to HS_d + 1 (R415). -/
  | coherenceData (line die : Nat) (st : LineSt) (data : Vec) (psn : BitVec 4)
  /-- COHERENCE_ACK: The home receives an acknowledgement or gone answer and completes the request (R413). -/
  | coherenceAck (line agent : Nat) (gone : Bool)
  /-- HOME_ATOMIC: A device or system atomic executes at the home hub in M (R418). -/
  | homeAtomic (id : Nat)
  /-- ATOMIC_RESPONSE: An atomic response reaches the issuing die and raises DT, LSTAMP and PSTAMP (R417). -/
  | atomicResponse (id : Nat) (old : Word) (psn : Bool)
  /-- DIE_FAILURE: Surviving hubs freeze, log and invalidate lines homed on a failed die (R422). -/
  | dieFailure (die : Nat)
  /-- DEVICE_PHASE_ARRIVAL: An arrival from another device is counted at its destination (R425). -/
  | devicePhaseArrival (obj dest : Nat) (err : Bool)
  /-- BANK_REFRESH: A bank is refreshed at its retention window, after at most 8 postponements (R430). -/
  | bankRefresh (die chan bank : Nat)
  /-- ROW_CLOSE: An open row closes after 64 idle cycles (R428). -/
  | rowClose (die chan bank : Nat)
  /-- DRAM_SCRUB: The scrubber visits each line daily, demoting rows with correctable errors (R432). -/
  | dramScrub (die chan bank row : Nat) (line : Nat) (verdict : Check)
  /-- HBM_RETRAIN: A rate change retrains a stack after at most 1 ms of deferral (R435). -/
  | hbmRetrain (die stack : Nat)
  /-- RISER_TEST: The background tester quiesces and tests a riser, yielding to demand within 96 cycles (R436). -/
  | riserTest (die riser : Nat) (fails : Bool)
  /-- MESH_PROMOTE: A queue head that loses 32 eligible cycles is promoted (R442). -/
  | meshPromote (die stop port vc : Nat)
  /-- HOST_MEMRD_S: A host MemRd with MetaValue S is served as RdS (R447). -/
  | hostMemrdS (line : Nat)
  /-- HOST_MEMRD_A: A host MemRd with MetaValue A is served as RdX (R447). -/
  | hostMemrdA (line : Nat)
  /-- HOST_MEMRD_I: A host MemRd with MetaValue I returns data from memory after any write-back (R447). -/
  | hostMemrdI (line : Nat)
  /-- HOST_MEMWR: A host MemWr writes back or writes a full line (R447). -/
  | hostMemwr (line : Nat) (data : Vec)
  /-- BIRSP: The home receives the host's BIRsp and completes the waiting request (R448). -/
  | birsp (line : Nat)
  /-- BISNP_TIMEOUT: A BISnp with no BIRsp after 10 ms takes the host copy as I and poisons a dirty line (R448). -/
  | bisnpTimeout (line : Nat)
  /-- HOST_CACHE_COMPLETION: The host completes a device RdShared or RdOwn, letting the directory action proceed (R449). -/
  | hostCacheCompletion (line : Nat) (data : Vec)
  /-- SNPINV: The home serves a host SnpInv, invalidating die holders (R450). -/
  | snpinv (line : Nat)
  /-- SNPDATA: The home serves a host SnpData, moving holders to S and returning data (R450). -/
  | snpdata (line : Nat)
  /-- SNPCUR: The home serves a host SnpCur, returning data with no state change (R450). -/
  | snpcur (line : Nat)
  /-- POOL_COMPLETION: A pool device's completion returns to the home, delivering data or performing a store (R452). -/
  | poolCompletion (id : Nat) (data : Vec) (psn : Bool)
  /-- POOL_FAILURE: A pool access with error status or 10 ms timeout sets FAIL and posts pool-failed (R454). -/
  | poolFailure (win : Nat)
  /-- PORT_LINK_DOWN: A CXL port link down past retry poisons accesses and host copies through it (R455). -/
  | portLinkDown (port : Nat)
  /-- POWER_GOOD: At power-good die 0's Gardener runs the boot stages (R462). -/
  | powerGood (image : Image)
  /-- RECOVERY_IMAGE: In recovery the boot ROM accepts an image through DOE and restarts at stage 2 (R463). -/
  | recoveryImage (image : Image)
  /-- SPDM_REQUEST: The device answers SPDM over DOE with signed measurements (R460). -/
  | spdmRequest (port : Nat) (nonce : Word)
  /-- THERMAL_LEVEL_CHANGE: A die changes its throttle level and clock from its hottest sensor (R466). -/
  | thermalLevelChange (die temp : Nat)
  /-- SRAM_BANK_POWER: Firmware puts an idle bank at retention or power-gates it, and it is woken before use (R465). -/
  | sramBankPower (core bank : Nat) (power : BankPower)
  /-- HBMRATE_WRITE: A write of HBMRATE sets a rate and starts retraining (R468). -/
  | hbmrateWrite (value : BitVec 32)
  /-- PWIN_WRITE: A pool window write takes effect for accesses reaching the home afterwards (R469). -/
  | pwinWrite (win word : Nat) (value : Word)
  /-- DEBUG_READ: A write of DBGCTL.GO starts one debugger sector read (R469). -/
  | debugRead (value : BitVec 32)
  /-- DEBUG_READ_DONE: The debugger read completes, setting DONE, or UNPW with all ones (R398). -/
  | debugReadDone
  /-- MGMT_REGISTER_WRITE: A write to a management register without behaviour of its own (R468). -/
  | mgmtRegisterWrite (off : Nat) (value : Word) (fw : Bool)
  /-- ILLEGAL_INSTRUCTION: A fetched stem or leaf word with an unassigned opcode, a nonzero reserved field or a reserved code takes the illegal-instruction trap, with no effect (R52). -/
  | illegalInstruction (slot : Nat) (leaf : Bool) (word : BitVec 96)
  /-- INSTRUCTION_FETCH_FAULT: A fetch reached by advancing past the end of a section, or that fails translation or reads a poisoned sector, takes the instruction-fetch fault at the address fetched (R17). -/
  | instructionFetchFault (slot : Nat) (leaf : Bool) (addr : VAddr) (sector : Option Nat)
  /-- QUEUE_SLOT_MAP: Firmware maps a queue into one of the hub's 64 queue slots, or unmaps it, starting or stopping execution of its commands (R208). -/
  | queueSlotMap (die pair : Nat) (mapped : Bool)
  /-- GARDENER_CANCEL: The Gardener cancels a drill's bed through the die hub, for example after a double fault or an unserved engine port (R211). -/
  | gardenerCancel (slot : Nat)
  /-- REPLAY_MODE_SET: Firmware places a job in record mode or replay mode with a log ring in memory, or returns it to free running (R406). -/
  | replayModeSet (job : Nat) (mode : ReplayMode) (base size : Nat)
  /-- REPLAY_LOG_SPACE_FREED: Firmware frees space in a full replay log ring, and the cores of the job resume issuing (R406). -/
  | replayLogSpaceFreed (job count : Nat)
  /-- TRANSLATION_CACHE_DROP: A core or die translation cache drops an entry of its own accord (R308). -/
  | translationCacheDrop (core : Nat) (dieLevel : Bool) (job page : Nat)
  /-- MESH_GRANT: Each cycle an output port of a mesh router grants one eligible queue head, updating its weighted round-robin count and channel pointers (R441). -/
  | meshGrant (die stop port : Nat)
  /-- HOKUX_PORT_DOWN: An external Hokux port exceeds its link retry limit and goes down, poisoning outstanding lines and making its devices unreachable (R399). -/
  | hokuxPortDown (port : Nat)
  /-- XFER_COMPLETE: The other device reports that it has performed an XFER's writes at its system scope, and the XFER command completes (R457). -/
  | xferComplete (die q : Nat) (ok : Bool)
  /-- INCOMING_XFER: Transfer data from another device arrives over the external Hokux ports and is written into this device's memory (R424). -/
  | incomingXfer (addr : Nat) (data : List (BitVec 8))
  /-- PHASE_LINE_SIDEBAND: A phase line raised on another device reaches this device through the Hokux sideband of the wired-AND tree (R425). -/
  | phaseLineSideband (obj dest : Nat)
  /-- SOFT_ERROR: A soft error strikes data held in SRAM, DRAM, a link or a datapath, to be corrected or turned into poison when detected (R399). -/
  | softError (target : ErrSite) (verdict : Check)
  deriving DecidableEq, Repr

end Sys2Proof
end

