-- ==== Sys2Proof/WellFormed.lean ====
section
/-!
DEFINITION. Which instructions are well formed: no reserved code, no reserved field set, no odd pair, no group past v239
(spec 02, R39, R49 to R52; spec 03, R58 to R74). -/
namespace Sys2Proof

/-! ## Types (spec 03, Table 3.2) -/

/-- Width in bits of an element of a type code; 0 where the code names no element width. -/
def typeBits (ty : Nat) : Nat :=
  if ty = 1 ∨ ty = 2 then 8 else if ty = 3 ∨ ty = 4 ∨ ty = 9 ∨ ty = 10 then 16
  else if ty = 5 ∨ ty = 6 ∨ ty = 11 ∨ ty = 15 then 32 else if ty = 7 ∨ ty = 8 ∨ ty = 12 ∨ ty = 16 then 64 else 0

/-- Class I. -/
def isIntTy (ty : Nat) : Bool := decide (1 ≤ ty ∧ ty ≤ 8)
/-- Signed integer types. -/
def isSignedTy (ty : Nat) : Bool := decide (ty = 1 ∨ ty = 3 ∨ ty = 5 ∨ ty = 7)
/-- Class F. -/
def isFloatTy (ty : Nat) : Bool := decide (9 ≤ ty ∧ ty ≤ 12)
/-- Class B. -/
def isRawTy (ty : Nat) : Bool := decide (ty = 15 ∨ ty = 16)

/-! ## Field roles (spec 03, Tables 3.3 and 3.9) -/

/-- What a register field of a leaf word names. -/
inductive Role where
  /-- Reserved: must be 0. -/
  | res
  /-- A vector of the word's type (a pair for 64 bits). -/
  | vec
  /-- A 32-bit vector, any field value. -/
  | vec32
  /-- A 32-bit vector that may not be a hose. -/
  | vecReg
  /-- A vector of the word's type that may not be a hose. -/
  | vecSrc
  /-- A vector of the source type of a conversion, of the given width. -/
  | vecOf (bits : Nat)
  /-- A vector of the word's type, or a scalar under its flag. -/
  | vecOrScalar
  /-- A 32-bit index vector, or a scalar under its flag. -/
  | idxOrScalar
  /-- A scalar field. -/
  | scalar
  /-- A scalar field that the flag sb must mark. -/
  | scalarSb
  /-- The first register of a scalar pair. -/
  | scalarPair
  /-- A mask register in [3:0]. -/
  | mask
  /-- An accumulator tile in [3:0]; an even one. -/
  | tile
  | tilePair
  /-- The first register of a group. -/
  | group (n : Nat)
  /-- The first register of a group of pairs. -/
  | groupEven (n : Nat)
  deriving DecidableEq, Repr

/-- The roles and field rules of one leaf opcode (spec 03, Table 3.9). -/
structure Shape where
  vd : Role := .res
  va : Role := .res
  vb : Role := .res
  vc : Role := .res
  types : List Nat := [0]
  useK : Bool := false
  useRnd : Bool := false
  useLa : Bool := false
  /-- md[5:2] bits that the word uses. -/
  mdMask : Nat := 0
  /-- imm32 bits that the word uses. -/
  immMask : Nat := 0
  /-- Rules of the word's own description. -/
  extra : Bool := true
  deriving DecidableEq, Repr

/-- Whether a field value suits its role. `flag` is sa or sb. -/
def roleOk (r : Role) (bits : Nat) (flag : Bool) (x : Nat) : Bool :=
  match r with
  | .res => decide (x = 0) && !flag
  | .vec => !flag && (decide (bits < 64) || decide (x < 240 ∧ x % 2 = 0))
  | .vec32 => !flag
  | .vecReg => !flag && decide (x < 240)
  | .vecSrc => !flag && decide (x < 240) && (decide (bits < 64) || decide (x % 2 = 0))
  | .vecOf b => !flag && (decide (b < 64) || decide (x < 240 ∧ x % 2 = 0))
  | .vecOrScalar => if flag then decide (x < 32) else (decide (bits < 64) || decide (x < 240 ∧ x % 2 = 0))
  | .idxOrScalar => if flag then decide (x < 32) else true
  | .scalar => !flag && decide (x < 32)
  | .scalarSb => flag && decide (x < 32)
  | .scalarPair => !flag && decide (x < 15)
  | .mask => !flag && decide (x < 16)
  | .tile => !flag && decide (x < 16)
  | .tilePair => !flag && decide (x < 16 ∧ x % 2 = 0)
  | .group n => !flag && decide (x + n ≤ 240)
  | .groupEven n => !flag && decide (x + n ≤ 240 ∧ x % 2 = 0)

/-- Whether a destination field of this role names a hose. -/
def roleHose (r : Role) (x : Nat) : Bool :=
  match r with
  | .vec | .vec32 => decide (240 ≤ x)
  | .scalar => decide (16 ≤ x)
  | _ => false

/-- Elements of a block from its code (spec 03, R72). -/
def blockLen (c : Nat) : Nat := 32 <<< c

/-- Fragment layouts: type accepted and group size (spec 08, Table 8.3). -/
def layoutOk (code ty : Nat) : Bool :=
  if code = 1 ∨ code = 6 ∨ code = 7 then decide (ty = 1) else if code = 2 then decide (ty = 13)
  else if code = 4 ∨ code = 5 then decide (ty = 9 ∨ ty = 10) else if code = 8 ∨ code = 9 then decide (ty = 11)
  else if code = 10 ∨ code = 11 then decide (ty = 12) else false

/-- Registers of a fragment group (spec 08, Table 8.3, G). -/
def layoutRegs (code : Nat) : Nat := if code = 1 then 32 else if code < 8 then 16 else 8

/-- Registers of an MDOT operand group without .twin (spec 19, Table 19.1). -/
def dotRegs (ty : Nat) : Nat := if ty = 11 ∨ ty = 12 then 8 else 16

def tyI : List Nat := [1, 2, 3, 4, 5, 6, 7, 8]
def tyF : List Nat := [9, 10, 11, 12]
def tyB : List Nat := [15, 16]
def tyWide : List Nat := [5, 6, 7, 8, 11, 12, 15, 16]

/-- A lane-memory word with these types, bits of md and bits of imm32. -/
def memShape (types : List Nat) (la : Bool) (mdMask immMask : Nat) (extra : Bool) : Shape :=
  { vd := .vec, va := .scalar, vb := .idxOrScalar, types, useK := true, useLa := la, mdMask, immMask, extra }

/-- The shape of a leaf opcode for a word (spec 03, Table 3.9, with R68 to R72 and the word descriptions). -/
def leafShape (op : Nat) (w : LeafWord) : Option Shape :=
  let ty := w.ty.toNat
  let md := w.md.toNat
  let imm := w.imm.toNat
  let f64 := decide (ty = 12)
  let mode := md / 4
  let scopeOk := decide (mode % 8 < 6)
  let v2 : Shape := { vd := .vec, va := .vecOrScalar, vb := .vecOrScalar, useK := true }
  let v1 : Shape := { vd := .vec, va := .vecOrScalar, useK := true }
  if op = 0 then none
  else if op ≤ 0x004 then some { v2 with types := tyI }
  else if op = 0x005 then some { v2 with vc := .vec, types := tyI }
  else if op ≤ 0x008 then some { v2 with types := tyI ++ tyB }
  else if op = 0x009 then some { v1 with types := tyI ++ tyB }
  else if op ≤ 0x00E then some { v2 with types := tyI }
  else if op ≤ 0x012 then some { v1 with types := tyI }
  else if op = 0x013 then some { v2 with vc := .mask, types := tyI ++ tyF ++ tyB }
  else if op < 0x040 then none
  else if op ≤ 0x042 then some { v2 with types := tyF, useRnd := true }
  else if op ≤ 0x045 then some { v2 with vc := .vec, types := tyF, useRnd := true }
  else if op = 0x046 then some { v2 with types := tyF, useRnd := true, useLa := true }
  else if op ≤ 0x04B then some { v1 with types := tyF, useRnd := true, useLa := true }
  else if op ≤ 0x04D then some { v2 with types := tyF }
  else if op ≤ 0x050 then some { v1 with types := tyF }
  else if op = 0x080 then some { v2 with vd := .mask, types := tyI ++ tyF, mdMask := 0x3C, extra := decide (mode < 6) || (decide (mode < 8) && isFloatTy ty) }
  else if op = 0x088 then some { vd := .vec, va := .vecOf (typeBits (imm % 32)), types := tyI ++ tyF, useK := true, useRnd := true, immMask := 0x1F, extra := isIntTy (imm % 32) || isFloatTy (imm % 32) || decide (imm % 32 = 13) }
  else if op = 0x089 then some { vd := .group (blockLen (imm % 4) / 4), va := .group (blockLen (imm % 4) / 4), vb := .vecReg, vc := .vecReg, types := [14], useK := true, useRnd := true, immMask := 3, extra := decide (imm % 4 < 3) }
  else if op = 0x08A then some { vd := .group (blockLen (imm % 4) / 4), va := .group (blockLen (imm % 4)), vc := .vecReg, types := [14], useK := true, useRnd := true, immMask := 3, extra := decide (imm % 4 < 3) }
  else if op = 0x08B then some { vd := .group (blockLen (imm % 4)), va := .group (blockLen (imm % 4) / 4), vb := .vecReg, types := [14], useK := true, useRnd := true, immMask := 3, extra := decide (imm % 4 < 3) }
  else if op = 0x0C0 ∨ op = 0x0C2 ∨ op = 0x0C3 ∨ op = 0x0C4 then some { vd := .scalar, va := .scalar, vb := .scalar }
  else if op = 0x0C1 then some { vd := .scalar, va := .scalar, immMask := 0xFFFFFFFF }
  else if op = 0x0C5 then some { vd := .scalar, va := .scalar }
  else if op = 0x100 then some { vd := .vec, va := .vec, types := tyB, useK := true }
  else if op = 0x101 then some { vd := .vec, types := tyI ++ tyF ++ tyB, useK := true, immMask := 0xFFFFFFFF }
  else if op = 0x102 then some { vd := .vec32, useK := true }
  else if op = 0x103 then some { vd := .vec, va := .scalar, types := tyI ++ tyF ++ tyB, useK := true }
  else if op = 0x104 then some { vd := .scalar, va := .vec, types := tyI ++ tyF ++ tyB, immMask := 0x1F }
  else if 0x140 ≤ op ∧ op ≤ 0x142 then some { vd := .mask, va := .mask, vb := .mask }
  else if op = 0x143 ∨ op = 0x144 then some { vd := .mask, va := .mask }
  else if op = 0x145 then some { vd := .scalar, va := .mask }
  else if op = 0x146 then some { va := .mask }
  else if op = 0x147 then some { vd := .mask }
  else if op = 0x180 then some { vd := .vec, va := .vecSrc, vb := .idxOrScalar, types := tyB, useK := true }
  else if 0x181 ≤ op ∧ op ≤ 0x183 then some { vd := .vec, va := .vecSrc, types := tyB, useK := true, immMask := 0x1F }
  else if op = 0x184 then some { vd := .scalar, va := .vec, types := tyI ++ tyB, useK := true, mdMask := 0x0C, extra := decide (mode % 4 < 3) }
  else if op = 0x185 then some { vd := .mask, va := .vec, types := tyI ++ tyB, useK := true }
  else if op = 0x186 then some { vd := .vec, va := .vec, types := tyI ++ tyF, useK := true, useRnd := true, useLa := true, mdMask := 0x3C, extra := decide (mode < 3) || (decide (mode < 6) && isIntTy ty) }
  else if op = 0x187 then some { vd := .scalar, va := .vec, types := tyI ++ tyF, useK := true, useRnd := true, useLa := true, mdMask := 0x3C, extra := decide (mode < 3) || (decide (mode < 6) && isIntTy ty) }
  else if op = 0x200 ∨ op = 0x201 then some (memShape (tyI ++ tyF ++ tyB) (decide (op = 0x200)) 0x20 0x0FFFFFFF true)
  else if op = 0x202 ∨ op = 0x203 then some (memShape (tyI ++ tyF ++ tyB) (decide (op = 0x202)) 0 0x0FFFFFFF true)
  else if op = 0x204 ∨ op = 0x205 then some { vd := if f64 then .groupEven (layoutRegs (imm / 2 ^ 26)) else .group (layoutRegs (imm / 2 ^ 26)), va := .scalar, vb := .scalarSb, types := [1, 9, 10, 11, 12, 13], useLa := decide (op = 0x204), immMask := 0xFFFFFFFF, extra := layoutOk (imm / 2 ^ 26) ty }
  else if op = 0x206 ∨ op = 0x207 then some (memShape tyWide (decide (op = 0x206)) 0x1C 0x0FFFFFFF scopeOk)
  else if op = 0x208 then some (memShape tyWide true 0 0x0FFFFFFF true)
  else if op = 0x209 then some { memShape [5, 6, 7, 8] true 0x1C 0xFFFFFFFF (scopeOk && decide (imm / 2 ^ 28 ≤ 8)) with vc := .vec }
  else if op = 0x20A then some { memShape [5, 6, 7, 8] true 0x1C 0x0FFFFFFF scopeOk with vc := .vec }
  else if op = 0x20B then some { va := .scalar, vb := .vecReg, vc := .scalarPair, useK := true, immMask := 0x800F0000, extra := decide (7 ≤ imm / 2 ^ 16 % 16) }
  else if op = 0x280 then some { useK := true, immMask := 0xFFFFFFFF }
  else if op = 0x281 then some { va := .scalar, vb := .scalar, mdMask := 0x1C, immMask := 0xFFFFFFFF, extra := scopeOk }
  else if op = 0x282 ∨ op = 0x283 then some { immMask := 0xFFFFFFFF }
  else if 0x284 ≤ op ∧ op ≤ 0x287 then some {}
  else if op = 0x288 then some { useK := true }
  else if op = 0x300 then some { vd := .tilePair, va := .group 32, vb := .group (if bitOf imm 31 then 32 else 16), vc := .scalar, useRnd := true, immMask := 0x8000001F }
  else if op = 0x301 then
    let n := dotRegs ty
    let nb := if bitOf imm 31 then 2 * n else n
    some { vd := .tile, va := if f64 then .groupEven n else .group n, vb := if f64 then .groupEven nb else .group nb, vc := .scalar, types := [9, 10, 1, 11, 12], useRnd := true, immMask := if f64 then 0x8000003F else 0x8000001F }
  else if op = 0x302 then some { vd := .tile }
  else if op = 0x303 then some { vd := .tile, va := .scalar, types := [5, 11, 12], mdMask := 0x04, immMask := if f64 then 0x3F else 0x1F }
  else if op = 0x304 then some { vd := .tile, va := .scalar, vc := if bitOf md 4 then .scalar else .res, types := tyI ++ tyF ++ [14], useRnd := true, mdMask := 0x1C, immMask := if f64 then 0x3F else 0x1F, extra := (bitOf md 4 == decide (ty = 14)) && (!bitOf md 3 || decide (ty = 11 ∨ ty = 5 ∨ ty = 12)) }
  else if op = 0x340 then some { types := [11, 12], immMask := 0x7F03, extra := decide (1 ≤ imm / 256 ∧ imm / 256 ≤ 64) && !(f64 && bitOf imm 0) }
  else if op = 0x341 then some { va := if f64 then .groupEven 4 else .group 2, vb := .scalar, types := [11, 12], useRnd := true, immMask := 3, extra := !(f64 && bitOf imm 0) }
  else if op = 0x342 ∨ op = 0x343 then some { va := .scalar, types := [11, 12], useRnd := true, mdMask := 0x04, immMask := 3, extra := !(f64 && bitOf imm 0) }
  else if op = 0x344 then some { immMask := 0x3F03, extra := decide (1 ≤ imm / 256 ∧ imm / 256 ≤ 32) }
  else if op = 0x345 then some { vd := .scalar, immMask := 3 }
  else if op = 0x346 ∨ op = 0x347 then some { va := .scalar, immMask := 3 }
  else none

/-- Every bit of x lies in the mask. -/
def within (x mask : Nat) : Bool := decide (x &&& mask = x)

/-- Whether a leaf word of an opcode is legal (spec 03, R74, but for the issue-time checks of R71 and R363). -/
def wfLeaf (op : Nat) (w : LeafWord) : Bool :=
  match leafShape op w with
  | none => false
  | some h =>
    let bits := typeBits w.ty.toNat
    let md := w.md.toNat
    decide (w.ty.toNat ∈ h.types) && (h.useK || decide (w.k = 0))
      && (if h.useRnd then decide (w.rnd.toNat < 6) else decide (w.rnd = 0)) && (h.useLa || decide (w.la = 0))
      && within (md / 4 * 4) h.mdMask && within w.imm.toNat h.immMask
      && roleOk h.vd bits false w.vd.toNat && roleOk h.va bits (bitOf md 0) w.va.toNat
      && roleOk h.vb bits (bitOf md 1) w.vb.toNat && roleOk h.vc bits false w.vc.toNat
      && (decide (w.la = 0) || !roleHose h.vd w.vd.toNat) && h.extra

/-- A stem destination that names a hose carries no lookahead (spec 02, R39). -/
def hoseNoAhead (d : BitVec 6) (l : BitVec 4) : Bool := decide (d.toNat < 48) || decide (l = 0)

/-- Whether an instruction is well formed. -/
def Instr.wf (i : Instr) : Bool :=
  match i with
  | .add _ _ _ => true
  | .sub _ _ _ => true
  | .mul _ _ _ => true
  | .mulh _ _ _ => true
  | .mulhn _ _ _ => true
  | .div _ _ _ => true
  | .divn _ _ _ => true
  | .rem _ _ _ => true
  | .remn _ _ _ => true
  | .and _ _ _ => true
  | .or _ _ _ => true
  | .xor _ _ _ => true
  | .shl _ _ _ => true
  | .shr _ _ _ => true
  | .sha _ _ _ => true
  | .min _ _ _ => true
  | .max _ _ _ => true
  | .minn _ _ _ => true
  | .maxn _ _ _ => true
  | .slt _ _ _ => true
  | .sltn _ _ _ => true
  | .seq _ _ _ => true
  | .clz _ _ => true
  | .ctz _ _ => true
  | .popc _ _ => true
  | .addsh _ _ _ _ => true
  | .addi _ _ _ => true
  | .andi _ _ _ => true
  | .ori _ _ _ => true
  | .xori _ _ _ => true
  | .shli _ _ _ => true
  | .shri _ _ _ => true
  | .shai _ _ _ => true
  | .slti _ _ _ => true
  | .sltni _ _ _ => true
  | .muli _ _ _ => true
  | .ldhi _ _ => true
  | .pcadd _ _ => true
  | .beq _ _ _ => true
  | .bne _ _ _ => true
  | .blt _ _ _ => true
  | .bge _ _ _ => true
  | .bltn _ _ _ => true
  | .bgen _ _ _ => true
  | .jmp _ => true
  | .call _ => true
  | .jr _ _ => true
  | .callr _ _ _ => true
  | .ldI8 d _ l _ _ => hoseNoAhead d l
  | .ldI16 d _ l _ _ => hoseNoAhead d l
  | .ldI32 d _ l _ _ => hoseNoAhead d l
  | .ldI64 d _ l _ _ => hoseNoAhead d l
  | .ldnN8 d _ l _ _ => hoseNoAhead d l
  | .ldnN16 d _ l _ _ => hoseNoAhead d l
  | .ldnN32 d _ l _ _ => hoseNoAhead d l
  | .stI8 _ _ _ _ => true
  | .stI16 _ _ _ _ => true
  | .stI32 _ _ _ _ => true
  | .stI64 _ _ _ _ => true
  | .ldaN32 d _ l c _ => hoseNoAhead d l && decide (c.toNat < 6)
  | .ldaI64 d _ l c _ => hoseNoAhead d l && decide (c.toNat < 6)
  | .stlI32 _ _ c _ => decide (c.toNat < 6)
  | .stlI64 _ _ c _ => decide (c.toNat < 6)
  | .ldcN32 d _ l _ => hoseNoAhead d l
  | .ldcI64 d _ l _ => hoseNoAhead d l
  | .ldbN32 d _ l _ => hoseNoAhead d l
  | .ldbI64 d _ l _ => hoseNoAhead d l
  | .stbI32 _ _ _ => true
  | .stbI64 _ _ _ => true
  | .amoAdd _ _ _ c _ => decide (c.toNat < 6)
  | .amoAnd _ _ _ c _ => decide (c.toNat < 6)
  | .amoOr _ _ _ c _ => decide (c.toNat < 6)
  | .amoXor _ _ _ c _ => decide (c.toNat < 6)
  | .amoMin _ _ _ c _ => decide (c.toNat < 6)
  | .amoMax _ _ _ c _ => decide (c.toNat < 6)
  | .amoMinn _ _ _ c _ => decide (c.toNat < 6)
  | .amoMaxn _ _ _ c _ => decide (c.toNat < 6)
  | .amoSwap _ _ _ c _ => decide (c.toNat < 6)
  | .cas _ _ _ c _ => decide (c.toNat < 6)
  | .fence c k => decide (c.toNat < 6) && decide (k.toNat < 3)
  | .chk _ => true
  | .cldrop _ => true
  | .lrun _ _ => true
  | .lwait => true
  | .hcnt _ _ => true
  | .htry _ _ => true
  | .tdist d _ l _ => hoseNoAhead d l
  | .tstake _ _ _ => true
  | .tunstake _ _ _ => true
  | .ttouch _ _ => true
  | .bresize _ _ => true
  | .xlin _ _ _ => true
  | .xstr _ _ _ => true
  | .xmc _ _ _ => true
  | .xzero _ _ => true
  | .xwait _ _ => true
  | .xyield _ _ _ => true
  | .bari _ _ _ => true
  | .bara _ _ _ => true
  | .barw _ _ _ => true
  | .bart _ _ _ => true
  | .launch _ _ => true
  | .cancel _ l => decide (l.toNat < 5)
  | .cntrd _ _ l => decide (l.toNat < 5)
  | .phopen _ _ => true
  | .phwait _ => true
  | .trayput _ _ => true
  | .traytake _ => true
  | .sysr _ _ => true
  | .sysw _ _ => true
  | .trap _ => true
  | .eret => true
  | .yield => true
  | .exit => true
  | .shoot _ _ c => decide (c.toNat < 6)
  | .clsave _ => true
  | .clrest _ => true
  | .vadd w => wfLeaf 0x001 w
  | .vsub w => wfLeaf 0x002 w
  | .vmul w => wfLeaf 0x003 w
  | .vmulh w => wfLeaf 0x004 w
  | .vmad w => wfLeaf 0x005 w
  | .vand w => wfLeaf 0x006 w
  | .vor w => wfLeaf 0x007 w
  | .vxor w => wfLeaf 0x008 w
  | .vnot w => wfLeaf 0x009 w
  | .vshl w => wfLeaf 0x00A w
  | .vshr w => wfLeaf 0x00B w
  | .vsha w => wfLeaf 0x00C w
  | .vmin w => wfLeaf 0x00D w
  | .vmax w => wfLeaf 0x00E w
  | .vabs w => wfLeaf 0x00F w
  | .vneg w => wfLeaf 0x010 w
  | .vclz w => wfLeaf 0x011 w
  | .vpopc w => wfLeaf 0x012 w
  | .vsel w => wfLeaf 0x013 w
  | .vfadd w => wfLeaf 0x040 w
  | .vfsub w => wfLeaf 0x041 w
  | .vfmul w => wfLeaf 0x042 w
  | .vfma w => wfLeaf 0x043 w
  | .vfms w => wfLeaf 0x044 w
  | .vfnma w => wfLeaf 0x045 w
  | .vfdiv w => wfLeaf 0x046 w
  | .vfsqrt w => wfLeaf 0x047 w
  | .vfrcp w => wfLeaf 0x048 w
  | .vfrsq w => wfLeaf 0x049 w
  | .vfexp2 w => wfLeaf 0x04A w
  | .vflog2 w => wfLeaf 0x04B w
  | .vfmin w => wfLeaf 0x04C w
  | .vfmax w => wfLeaf 0x04D w
  | .vfabs w => wfLeaf 0x04E w
  | .vfneg w => wfLeaf 0x04F w
  | .vfclass w => wfLeaf 0x050 w
  | .vcmp w => wfLeaf 0x080 w
  | .vcvt w => wfLeaf 0x088 w
  | .vreqb w => wfLeaf 0x089 w
  | .vqblk w => wfLeaf 0x08A w
  | .vdqb w => wfLeaf 0x08B w
  | .sadd w => wfLeaf 0x0C0 w
  | .saddi w => wfLeaf 0x0C1 w
  | .ssub w => wfLeaf 0x0C2 w
  | .smul w => wfLeaf 0x0C3 w
  | .sshl w => wfLeaf 0x0C4 w
  | .smov w => wfLeaf 0x0C5 w
  | .vmov w => wfLeaf 0x100 w
  | .vmovi w => wfLeaf 0x101 w
  | .vlane w => wfLeaf 0x102 w
  | .vbcs w => wfLeaf 0x103 w
  | .vexs w => wfLeaf 0x104 w
  | .kand w => wfLeaf 0x140 w
  | .kor w => wfLeaf 0x141 w
  | .kxor w => wfLeaf 0x142 w
  | .knot w => wfLeaf 0x143 w
  | .kmov w => wfLeaf 0x144 w
  | .kpopc w => wfLeaf 0x145 w
  | .lmask w => wfLeaf 0x146 w
  | .lgetm w => wfLeaf 0x147 w
  | .vshuf w => wfLeaf 0x180 w
  | .vshfup w => wfLeaf 0x181 w
  | .vshfdn w => wfLeaf 0x182 w
  | .vbcl w => wfLeaf 0x183 w
  | .vvote w => wfLeaf 0x184 w
  | .vballot w => wfLeaf 0x185 w
  | .vscan w => wfLeaf 0x186 w
  | .vred w => wfLeaf 0x187 w
  | .vld w => wfLeaf 0x200 w
  | .vst w => wfLeaf 0x201 w
  | .vldb w => wfLeaf 0x202 w
  | .vstb w => wfLeaf 0x203 w
  | .vldf w => wfLeaf 0x204 w
  | .vstf w => wfLeaf 0x205 w
  | .vlda w => wfLeaf 0x206 w
  | .vstl w => wfLeaf 0x207 w
  | .vldc w => wfLeaf 0x208 w
  | .vamo w => wfLeaf 0x209 w
  | .vcas w => wfLeaf 0x20A w
  | .xidx w => wfLeaf 0x20B w
  | .lbr w => wfLeaf 0x280 w
  | .sbr w => wfLeaf 0x281 w
  | .ljmp w => wfLeaf 0x282 w
  | .lcall w => wfLeaf 0x283 w
  | .lret w => wfLeaf 0x284 w
  | .ljoin w => wfLeaf 0x285 w
  | .lyield w => wfLeaf 0x286 w
  | .lend w => wfLeaf 0x287 w
  | .lexit w => wfLeaf 0x288 w
  | .mssa w => wfLeaf 0x300 w
  | .mdot w => wfLeaf 0x301 w
  | .mzero w => wfLeaf 0x302 w
  | .mload w => wfLeaf 0x303 w
  | .mdrain w => wfLeaf 0x304 w
  | .einit w => wfLeaf 0x340 w
  | .eapp w => wfLeaf 0x341 w
  | .eleft w => wfLeaf 0x342 w
  | .eright w => wfLeaf 0x343 w
  | .ecap w => wfLeaf 0x344 w
  | .estat w => wfLeaf 0x345 w
  | .esave w => wfLeaf 0x346 w
  | .erest w => wfLeaf 0x347 w
  | .routineStart slot => decide (slot < 12288)
  | .lrunQueueSlotFree slot => decide (slot < 12288)
  | .lwaitRelease slot => decide (slot < 12288)
  | .parkedWordRetest slot _ => decide (slot < 12288)
  | .asyncTrapHoldExpiry slot => decide (slot < 12288)
  | .drillRetire slot => decide (slot < 12288)
  | .bindRecordValid slot _ _ _ _ => decide (slot < 12288)
  | .launchDependenceRelease _ => true
  | .phaseArrival _ _ _ => true
  | .phaseLineRaise _ _ => true
  | .phwaitRelease slot => decide (slot < 12288)
  | .trayputResume slot => decide (slot < 12288)
  | .congestionSample die => decide (die < 4)
  | .congestionLevelApply core => decide (core < 768)
  | .throttlePointerAdvance core => decide (core < 768)
  | .signallerUnmappedEvent die _ => decide (die < 4)
  | .mailboxWrite die _ _ => decide (die < 4)
  | .queueNop die _ => decide (die < 4)
  | .queueLaunch die _ => decide (die < 4)
  | .queueWait die _ => decide (die < 4)
  | .queueSignal die _ => decide (die < 4)
  | .queueXfer die _ => decide (die < 4)
  | .barwWake slot => decide (slot < 12288)
  | .tendrilStep cl => decide (cl < 16)
  | .tileLand cl _ => decide (cl < 16)
  | .tileFillReturn cl _ _ => decide (cl < 16)
  | .tileWritebackAck cl _ => decide (cl < 16)
  | .hubStoreStamp _ => true
  | .stampResponse _ _ _ => true
  | .hubFill cl _ slot _ _ => decide (cl < 16) && decide (slot < 12288)
  | .hubRenewal cl _ slot _ _ _ => decide (cl < 16) && decide (slot < 12288)
  | .leaseResponse cl _ slot _ _ _ _ => decide (cl < 16) && decide (slot < 12288)
  | .pageReclassify _ => true
  | .regionMerge die _ _ => decide (die < 4)
  | .dtDrift slot => decide (slot < 12288)
  | .stampRebase die => decide (die < 4)
  | .clocheVerify core _ _ _ _ _ => decide (core < 768)
  | .clocheVerdict core _ _ _ _ => decide (core < 768)
  | .chkResolve slot => decide (slot < 12288)
  | .translationWalk die _ _ _ => decide (die < 4)
  | .poolPageAdd die _ _ => decide (die < 4)
  | .benchMapWrite core idx _ _ _ _ => decide (core < 768) && decide (idx < 8)
  | .benchMapWriteback core idx => decide (core < 768) && decide (idx < 8)
  | .migrationMove die _ _ _ => decide (die < 4)
  | .shootRemote die _ => decide (die < 4)
  | .copyRetire slot cls => decide (slot < 12288) && decide (cls < 4)
  | .xwaitRelease slot => decide (slot < 12288)
  | .xyieldWake slot => decide (slot < 12288)
  | .matrixAccept slot => decide (slot < 12288)
  | .matrixRetire core => decide (core < 768)
  | .matrixErrorTrap slot => decide (slot < 12288)
  | .preemptCommand slot _ => decide (slot < 12288)
  | .preemptionTrap slot => decide (slot < 12288)
  | .unbind slot => decide (slot < 12288)
  | .firmwareResume slot _ => decide (slot < 12288)
  | .sramScrub core _ => decide (core < 768)
  | .ownerZeroing core _ => decide (core < 768)
  | .jobEnd _ => true
  | .snapshot _ _ => true
  | .partLoss _ => true
  | .rds _ agent => decide (agent < 5)
  | .rdx _ agent => decide (agent < 5)
  | .upg _ agent => decide (agent < 5)
  | .wb _ agent _ _ => decide (agent < 5)
  | .evict _ agent => decide (agent < 5)
  | .fwds _ holder _ => decide (holder < 5)
  | .fwdx _ holder _ => decide (holder < 5)
  | .inv _ holder _ => decide (holder < 5)
  | .coherenceData _ die _ _ _ => decide (die < 4)
  | .coherenceAck _ agent _ => decide (agent < 5)
  | .homeAtomic _ => true
  | .atomicResponse _ _ _ => true
  | .dieFailure die => decide (die < 4)
  | .devicePhaseArrival _ _ _ => true
  | .bankRefresh die _ bank => decide (die < 4) && decide (bank < 32)
  | .rowClose die _ bank => decide (die < 4) && decide (bank < 32)
  | .dramScrub die _ bank _ _ _ => decide (die < 4) && decide (bank < 32)
  | .hbmRetrain die _ => decide (die < 4)
  | .riserTest die _ _ => decide (die < 4)
  | .meshPromote die stop port vc => decide (die < 4) && decide (stop < 16) && decide (port < 5) && decide (vc < 4)
  | .hostMemrdS _ => true
  | .hostMemrdA _ => true
  | .hostMemrdI _ => true
  | .hostMemwr _ _ => true
  | .birsp _ => true
  | .bisnpTimeout _ => true
  | .hostCacheCompletion _ _ => true
  | .snpinv _ => true
  | .snpdata _ => true
  | .snpcur _ => true
  | .poolCompletion _ _ _ => true
  | .poolFailure win => decide (win < 16)
  | .portLinkDown port => decide (port < 4)
  | .powerGood _ => true
  | .recoveryImage _ => true
  | .spdmRequest port _ => decide (port < 4)
  | .thermalLevelChange die _ => decide (die < 4)
  | .sramBankPower core bank _ => decide (core < 768) && decide (bank < 32)
  | .hbmrateWrite _ => true
  | .pwinWrite win word _ => decide (win < 16) && decide (word < 2)
  | .debugRead _ => true
  | .debugReadDone => true
  | .mgmtRegisterWrite _ _ _ => true
  | .illegalInstruction slot _ _ => decide (slot < 12288)
  | .instructionFetchFault slot _ _ _ => decide (slot < 12288)
  | .queueSlotMap die _ _ => decide (die < 4)
  | .gardenerCancel slot => decide (slot < 12288)
  | .replayModeSet _ _ _ _ => true
  | .replayLogSpaceFreed _ _ => true
  | .translationCacheDrop core _ _ _ => decide (core < 768)
  | .meshGrant die stop port => decide (die < 4) && decide (stop < 16) && decide (port < 5)
  | .hokuxPortDown port => decide (port < 16)
  | .xferComplete die _ _ => decide (die < 4)
  | .incomingXfer _ _ => true
  | .phaseLineSideband _ _ => true
  | .softError _ _ => true

/-- The opcode and fields of a leaf word. -/
def Instr.leaf? (i : Instr) : Option (Nat × LeafWord) :=
  match i with
  | .vadd w => some (0x001, w)
  | .vsub w => some (0x002, w)
  | .vmul w => some (0x003, w)
  | .vmulh w => some (0x004, w)
  | .vmad w => some (0x005, w)
  | .vand w => some (0x006, w)
  | .vor w => some (0x007, w)
  | .vxor w => some (0x008, w)
  | .vnot w => some (0x009, w)
  | .vshl w => some (0x00A, w)
  | .vshr w => some (0x00B, w)
  | .vsha w => some (0x00C, w)
  | .vmin w => some (0x00D, w)
  | .vmax w => some (0x00E, w)
  | .vabs w => some (0x00F, w)
  | .vneg w => some (0x010, w)
  | .vclz w => some (0x011, w)
  | .vpopc w => some (0x012, w)
  | .vsel w => some (0x013, w)
  | .vfadd w => some (0x040, w)
  | .vfsub w => some (0x041, w)
  | .vfmul w => some (0x042, w)
  | .vfma w => some (0x043, w)
  | .vfms w => some (0x044, w)
  | .vfnma w => some (0x045, w)
  | .vfdiv w => some (0x046, w)
  | .vfsqrt w => some (0x047, w)
  | .vfrcp w => some (0x048, w)
  | .vfrsq w => some (0x049, w)
  | .vfexp2 w => some (0x04A, w)
  | .vflog2 w => some (0x04B, w)
  | .vfmin w => some (0x04C, w)
  | .vfmax w => some (0x04D, w)
  | .vfabs w => some (0x04E, w)
  | .vfneg w => some (0x04F, w)
  | .vfclass w => some (0x050, w)
  | .vcmp w => some (0x080, w)
  | .vcvt w => some (0x088, w)
  | .vreqb w => some (0x089, w)
  | .vqblk w => some (0x08A, w)
  | .vdqb w => some (0x08B, w)
  | .sadd w => some (0x0C0, w)
  | .saddi w => some (0x0C1, w)
  | .ssub w => some (0x0C2, w)
  | .smul w => some (0x0C3, w)
  | .sshl w => some (0x0C4, w)
  | .smov w => some (0x0C5, w)
  | .vmov w => some (0x100, w)
  | .vmovi w => some (0x101, w)
  | .vlane w => some (0x102, w)
  | .vbcs w => some (0x103, w)
  | .vexs w => some (0x104, w)
  | .kand w => some (0x140, w)
  | .kor w => some (0x141, w)
  | .kxor w => some (0x142, w)
  | .knot w => some (0x143, w)
  | .kmov w => some (0x144, w)
  | .kpopc w => some (0x145, w)
  | .lmask w => some (0x146, w)
  | .lgetm w => some (0x147, w)
  | .vshuf w => some (0x180, w)
  | .vshfup w => some (0x181, w)
  | .vshfdn w => some (0x182, w)
  | .vbcl w => some (0x183, w)
  | .vvote w => some (0x184, w)
  | .vballot w => some (0x185, w)
  | .vscan w => some (0x186, w)
  | .vred w => some (0x187, w)
  | .vld w => some (0x200, w)
  | .vst w => some (0x201, w)
  | .vldb w => some (0x202, w)
  | .vstb w => some (0x203, w)
  | .vldf w => some (0x204, w)
  | .vstf w => some (0x205, w)
  | .vlda w => some (0x206, w)
  | .vstl w => some (0x207, w)
  | .vldc w => some (0x208, w)
  | .vamo w => some (0x209, w)
  | .vcas w => some (0x20A, w)
  | .xidx w => some (0x20B, w)
  | .lbr w => some (0x280, w)
  | .sbr w => some (0x281, w)
  | .ljmp w => some (0x282, w)
  | .lcall w => some (0x283, w)
  | .lret w => some (0x284, w)
  | .ljoin w => some (0x285, w)
  | .lyield w => some (0x286, w)
  | .lend w => some (0x287, w)
  | .lexit w => some (0x288, w)
  | .mssa w => some (0x300, w)
  | .mdot w => some (0x301, w)
  | .mzero w => some (0x302, w)
  | .mload w => some (0x303, w)
  | .mdrain w => some (0x304, w)
  | .einit w => some (0x340, w)
  | .eapp w => some (0x341, w)
  | .eleft w => some (0x342, w)
  | .eright w => some (0x343, w)
  | .ecap w => some (0x344, w)
  | .estat w => some (0x345, w)
  | .esave w => some (0x346, w)
  | .erest w => some (0x347, w)
  | _ => none

end Sys2Proof
end

