-- ==== Sys2Proof/Decode.lean ====
section
/-!
DEFINITION. Decoding stem and leaf words, total on any bits and rejecting by name, and the encoder, both from the encoding
tables of spec 02 (Tables 2.1, 2.9) and spec 03 (Tables 3.1, 3.3, 3.9). -/
namespace Sys2Proof

/-- Why bits are no instruction (spec 02, R52; spec 03, R74). -/
inductive Reject where
  /-- The opcode is unassigned. -/
  | unassigned
  /-- A reserved field is set, or a coded field holds a reserved code. -/
  | reserved
  /-- Fewer bytes than a word. -/
  | short
  deriving DecidableEq, Repr

/-- Bits [lo + n - 1 : lo] of a word. -/
def fld {m : Nat} (w : BitVec m) (lo n : Nat) : BitVec n := w.extractLsb' lo n

/-- An instruction, if it is well formed. -/
def keep (i : Instr) : Except Reject Instr := if i.wf then .ok i else .error .reserved

/-- The stem instruction of a 32-bit word with this opcode (spec 02, R40, R51, R52). -/
def decodeStemOp (op : Nat) (w : BitVec 32) : Except Reject Instr :=
  match op with
  | 0x01 => if fld w 0 6 = 0 then keep (.add (fld w 18 6) (fld w 12 6) (fld w 6 6)) else .error .reserved
  | 0x02 => if fld w 0 6 = 0 then keep (.sub (fld w 18 6) (fld w 12 6) (fld w 6 6)) else .error .reserved
  | 0x03 => if fld w 0 6 = 0 then keep (.mul (fld w 18 6) (fld w 12 6) (fld w 6 6)) else .error .reserved
  | 0x04 => if fld w 0 6 = 0 then keep (.mulh (fld w 18 6) (fld w 12 6) (fld w 6 6)) else .error .reserved
  | 0x05 => if fld w 0 6 = 0 then keep (.mulhn (fld w 18 6) (fld w 12 6) (fld w 6 6)) else .error .reserved
  | 0x06 => if fld w 0 6 = 0 then keep (.div (fld w 18 6) (fld w 12 6) (fld w 6 6)) else .error .reserved
  | 0x07 => if fld w 0 6 = 0 then keep (.divn (fld w 18 6) (fld w 12 6) (fld w 6 6)) else .error .reserved
  | 0x08 => if fld w 0 6 = 0 then keep (.rem (fld w 18 6) (fld w 12 6) (fld w 6 6)) else .error .reserved
  | 0x09 => if fld w 0 6 = 0 then keep (.remn (fld w 18 6) (fld w 12 6) (fld w 6 6)) else .error .reserved
  | 0x0A => if fld w 0 6 = 0 then keep (.and (fld w 18 6) (fld w 12 6) (fld w 6 6)) else .error .reserved
  | 0x0B => if fld w 0 6 = 0 then keep (.or (fld w 18 6) (fld w 12 6) (fld w 6 6)) else .error .reserved
  | 0x0C => if fld w 0 6 = 0 then keep (.xor (fld w 18 6) (fld w 12 6) (fld w 6 6)) else .error .reserved
  | 0x0D => if fld w 0 6 = 0 then keep (.shl (fld w 18 6) (fld w 12 6) (fld w 6 6)) else .error .reserved
  | 0x0E => if fld w 0 6 = 0 then keep (.shr (fld w 18 6) (fld w 12 6) (fld w 6 6)) else .error .reserved
  | 0x0F => if fld w 0 6 = 0 then keep (.sha (fld w 18 6) (fld w 12 6) (fld w 6 6)) else .error .reserved
  | 0x10 => if fld w 0 6 = 0 then keep (.min (fld w 18 6) (fld w 12 6) (fld w 6 6)) else .error .reserved
  | 0x11 => if fld w 0 6 = 0 then keep (.max (fld w 18 6) (fld w 12 6) (fld w 6 6)) else .error .reserved
  | 0x12 => if fld w 0 6 = 0 then keep (.minn (fld w 18 6) (fld w 12 6) (fld w 6 6)) else .error .reserved
  | 0x13 => if fld w 0 6 = 0 then keep (.maxn (fld w 18 6) (fld w 12 6) (fld w 6 6)) else .error .reserved
  | 0x14 => if fld w 0 6 = 0 then keep (.slt (fld w 18 6) (fld w 12 6) (fld w 6 6)) else .error .reserved
  | 0x15 => if fld w 0 6 = 0 then keep (.sltn (fld w 18 6) (fld w 12 6) (fld w 6 6)) else .error .reserved
  | 0x16 => if fld w 0 6 = 0 then keep (.seq (fld w 18 6) (fld w 12 6) (fld w 6 6)) else .error .reserved
  | 0x17 => if fld w 0 12 = 0 then keep (.clz (fld w 18 6) (fld w 12 6)) else .error .reserved
  | 0x18 => if fld w 0 12 = 0 then keep (.ctz (fld w 18 6) (fld w 12 6)) else .error .reserved
  | 0x19 => if fld w 0 12 = 0 then keep (.popc (fld w 18 6) (fld w 12 6)) else .error .reserved
  | 0x1A => if fld w 3 3 = 0 then keep (.addsh (fld w 18 6) (fld w 12 6) (fld w 6 6) (fld w 0 3)) else .error .reserved
  | 0x20 => keep (.addi (fld w 18 6) (fld w 12 6) (fld w 0 12))
  | 0x21 => keep (.andi (fld w 18 6) (fld w 12 6) (fld w 0 12))
  | 0x22 => keep (.ori (fld w 18 6) (fld w 12 6) (fld w 0 12))
  | 0x23 => keep (.xori (fld w 18 6) (fld w 12 6) (fld w 0 12))
  | 0x24 => if fld w 6 6 = 0 then keep (.shli (fld w 18 6) (fld w 12 6) (fld w 0 6)) else .error .reserved
  | 0x25 => if fld w 6 6 = 0 then keep (.shri (fld w 18 6) (fld w 12 6) (fld w 0 6)) else .error .reserved
  | 0x26 => if fld w 6 6 = 0 then keep (.shai (fld w 18 6) (fld w 12 6) (fld w 0 6)) else .error .reserved
  | 0x27 => keep (.slti (fld w 18 6) (fld w 12 6) (fld w 0 12))
  | 0x28 => keep (.sltni (fld w 18 6) (fld w 12 6) (fld w 0 12))
  | 0x29 => keep (.muli (fld w 18 6) (fld w 12 6) (fld w 0 12))
  | 0x2A => keep (.ldhi (fld w 18 6) (fld w 0 18))
  | 0x2B => keep (.pcadd (fld w 18 6) (fld w 0 18))
  | 0x30 => keep (.beq (fld w 18 6) (fld w 12 6) (fld w 0 12))
  | 0x31 => keep (.bne (fld w 18 6) (fld w 12 6) (fld w 0 12))
  | 0x32 => keep (.blt (fld w 18 6) (fld w 12 6) (fld w 0 12))
  | 0x33 => keep (.bge (fld w 18 6) (fld w 12 6) (fld w 0 12))
  | 0x34 => keep (.bltn (fld w 18 6) (fld w 12 6) (fld w 0 12))
  | 0x35 => keep (.bgen (fld w 18 6) (fld w 12 6) (fld w 0 12))
  | 0x36 => keep (.jmp (fld w 0 24))
  | 0x37 => keep (.call (fld w 0 24))
  | 0x38 => if fld w 18 6 = 0 then keep (.jr (fld w 12 6) (fld w 0 12)) else .error .reserved
  | 0x39 => keep (.callr (fld w 18 6) (fld w 12 6) (fld w 0 12))
  | 0x40 => if fld w 5 2 = 0 then keep (.ldI8 (fld w 18 6) (fld w 12 6) (fld w 8 4) (fld w 7 1) (fld w 0 5)) else .error .reserved
  | 0x41 => if fld w 5 2 = 0 then keep (.ldI16 (fld w 18 6) (fld w 12 6) (fld w 8 4) (fld w 7 1) (fld w 0 5)) else .error .reserved
  | 0x42 => if fld w 5 2 = 0 then keep (.ldI32 (fld w 18 6) (fld w 12 6) (fld w 8 4) (fld w 7 1) (fld w 0 5)) else .error .reserved
  | 0x43 => if fld w 5 2 = 0 then keep (.ldI64 (fld w 18 6) (fld w 12 6) (fld w 8 4) (fld w 7 1) (fld w 0 5)) else .error .reserved
  | 0x44 => if fld w 5 2 = 0 then keep (.ldnN8 (fld w 18 6) (fld w 12 6) (fld w 8 4) (fld w 7 1) (fld w 0 5)) else .error .reserved
  | 0x45 => if fld w 5 2 = 0 then keep (.ldnN16 (fld w 18 6) (fld w 12 6) (fld w 8 4) (fld w 7 1) (fld w 0 5)) else .error .reserved
  | 0x46 => if fld w 5 2 = 0 then keep (.ldnN32 (fld w 18 6) (fld w 12 6) (fld w 8 4) (fld w 7 1) (fld w 0 5)) else .error .reserved
  | 0x48 => if fld w 8 4 = 0 ∧ fld w 5 2 = 0 then keep (.stI8 (fld w 18 6) (fld w 12 6) (fld w 7 1) (fld w 0 5)) else .error .reserved
  | 0x49 => if fld w 8 4 = 0 ∧ fld w 5 2 = 0 then keep (.stI16 (fld w 18 6) (fld w 12 6) (fld w 7 1) (fld w 0 5)) else .error .reserved
  | 0x4A => if fld w 8 4 = 0 ∧ fld w 5 2 = 0 then keep (.stI32 (fld w 18 6) (fld w 12 6) (fld w 7 1) (fld w 0 5)) else .error .reserved
  | 0x4B => if fld w 8 4 = 0 ∧ fld w 5 2 = 0 then keep (.stI64 (fld w 18 6) (fld w 12 6) (fld w 7 1) (fld w 0 5)) else .error .reserved
  | 0x4C => keep (.ldaN32 (fld w 18 6) (fld w 12 6) (fld w 8 4) (fld w 5 3) (fld w 0 5))
  | 0x4D => keep (.ldaI64 (fld w 18 6) (fld w 12 6) (fld w 8 4) (fld w 5 3) (fld w 0 5))
  | 0x4E => if fld w 8 4 = 0 then keep (.stlI32 (fld w 18 6) (fld w 12 6) (fld w 5 3) (fld w 0 5)) else .error .reserved
  | 0x4F => if fld w 8 4 = 0 then keep (.stlI64 (fld w 18 6) (fld w 12 6) (fld w 5 3) (fld w 0 5)) else .error .reserved
  | 0x50 => if fld w 5 3 = 0 then keep (.ldcN32 (fld w 18 6) (fld w 12 6) (fld w 8 4) (fld w 0 5)) else .error .reserved
  | 0x51 => if fld w 5 3 = 0 then keep (.ldcI64 (fld w 18 6) (fld w 12 6) (fld w 8 4) (fld w 0 5)) else .error .reserved
  | 0x52 => if fld w 5 3 = 0 then keep (.ldbN32 (fld w 18 6) (fld w 12 6) (fld w 8 4) (fld w 0 5)) else .error .reserved
  | 0x53 => if fld w 5 3 = 0 then keep (.ldbI64 (fld w 18 6) (fld w 12 6) (fld w 8 4) (fld w 0 5)) else .error .reserved
  | 0x54 => if fld w 5 7 = 0 then keep (.stbI32 (fld w 18 6) (fld w 12 6) (fld w 0 5)) else .error .reserved
  | 0x55 => if fld w 5 7 = 0 then keep (.stbI64 (fld w 18 6) (fld w 12 6) (fld w 0 5)) else .error .reserved
  | 0x58 => if fld w 0 2 = 0 then keep (.amoAdd (fld w 18 6) (fld w 12 6) (fld w 6 6) (fld w 3 3) (fld w 2 1)) else .error .reserved
  | 0x59 => if fld w 0 2 = 0 then keep (.amoAnd (fld w 18 6) (fld w 12 6) (fld w 6 6) (fld w 3 3) (fld w 2 1)) else .error .reserved
  | 0x5A => if fld w 0 2 = 0 then keep (.amoOr (fld w 18 6) (fld w 12 6) (fld w 6 6) (fld w 3 3) (fld w 2 1)) else .error .reserved
  | 0x5B => if fld w 0 2 = 0 then keep (.amoXor (fld w 18 6) (fld w 12 6) (fld w 6 6) (fld w 3 3) (fld w 2 1)) else .error .reserved
  | 0x5C => if fld w 0 2 = 0 then keep (.amoMin (fld w 18 6) (fld w 12 6) (fld w 6 6) (fld w 3 3) (fld w 2 1)) else .error .reserved
  | 0x5D => if fld w 0 2 = 0 then keep (.amoMax (fld w 18 6) (fld w 12 6) (fld w 6 6) (fld w 3 3) (fld w 2 1)) else .error .reserved
  | 0x5E => if fld w 0 2 = 0 then keep (.amoMinn (fld w 18 6) (fld w 12 6) (fld w 6 6) (fld w 3 3) (fld w 2 1)) else .error .reserved
  | 0x5F => if fld w 0 2 = 0 then keep (.amoMaxn (fld w 18 6) (fld w 12 6) (fld w 6 6) (fld w 3 3) (fld w 2 1)) else .error .reserved
  | 0x60 => if fld w 0 2 = 0 then keep (.amoSwap (fld w 18 6) (fld w 12 6) (fld w 6 6) (fld w 3 3) (fld w 2 1)) else .error .reserved
  | 0x61 => if fld w 0 2 = 0 then keep (.cas (fld w 18 6) (fld w 12 6) (fld w 6 6) (fld w 3 3) (fld w 2 1)) else .error .reserved
  | 0x62 => if fld w 6 18 = 0 ∧ fld w 2 1 = 0 then keep (.fence (fld w 3 3) (fld w 0 2)) else .error .reserved
  | 0x63 => keep (.chk (fld w 0 24))
  | 0x64 => if fld w 18 6 = 0 ∧ fld w 0 12 = 0 then keep (.cldrop (fld w 12 6)) else .error .reserved
  | 0x68 => keep (.lrun (fld w 18 6) (fld w 0 18))
  | 0x69 => if fld w 0 24 = 0 then keep (.lwait) else .error .reserved
  | 0x6A => if fld w 5 13 = 0 then keep (.hcnt (fld w 18 6) (fld w 0 5)) else .error .reserved
  | 0x6B => if fld w 5 13 = 0 then keep (.htry (fld w 18 6) (fld w 0 5)) else .error .reserved
  | 0x70 => if fld w 5 3 = 0 then keep (.tdist (fld w 18 6) (fld w 12 6) (fld w 8 4) (fld w 0 5)) else .error .reserved
  | 0x71 => if fld w 5 7 = 0 then keep (.tstake (fld w 18 6) (fld w 12 6) (fld w 0 5)) else .error .reserved
  | 0x72 => if fld w 5 7 = 0 then keep (.tunstake (fld w 18 6) (fld w 12 6) (fld w 0 5)) else .error .reserved
  | 0x73 => if fld w 18 6 = 0 ∧ fld w 5 7 = 0 then keep (.ttouch (fld w 12 6) (fld w 0 5)) else .error .reserved
  | 0x74 => if fld w 0 12 = 0 then keep (.bresize (fld w 18 6) (fld w 12 6)) else .error .reserved
  | 0x78 => if fld w 0 6 = 0 then keep (.xlin (fld w 18 6) (fld w 12 6) (fld w 6 6)) else .error .reserved
  | 0x79 => if fld w 0 6 = 0 then keep (.xstr (fld w 18 6) (fld w 12 6) (fld w 6 6)) else .error .reserved
  | 0x7A => if fld w 0 6 = 0 then keep (.xmc (fld w 18 6) (fld w 12 6) (fld w 6 6)) else .error .reserved
  | 0x7B => if fld w 0 12 = 0 then keep (.xzero (fld w 18 6) (fld w 12 6)) else .error .reserved
  | 0x7C => if fld w 12 12 = 0 ∧ fld w 8 2 = 0 then keep (.xwait (fld w 10 2) (fld w 0 8)) else .error .reserved
  | 0x7D => if fld w 18 6 = 0 ∧ fld w 8 2 = 0 then keep (.xyield (fld w 12 6) (fld w 10 2) (fld w 0 8)) else .error .reserved
  | 0x80 => if fld w 0 6 = 0 then keep (.bari (fld w 18 6) (fld w 12 6) (fld w 6 6)) else .error .reserved
  | 0x81 => if fld w 0 6 = 0 then keep (.bara (fld w 18 6) (fld w 12 6) (fld w 6 6)) else .error .reserved
  | 0x82 => if fld w 0 6 = 0 then keep (.barw (fld w 18 6) (fld w 12 6) (fld w 6 6)) else .error .reserved
  | 0x83 => if fld w 0 6 = 0 then keep (.bart (fld w 18 6) (fld w 12 6) (fld w 6 6)) else .error .reserved
  | 0x88 => if fld w 0 12 = 0 then keep (.launch (fld w 18 6) (fld w 12 6)) else .error .reserved
  | 0x89 => if fld w 18 6 = 0 ∧ fld w 3 9 = 0 then keep (.cancel (fld w 12 6) (fld w 0 3)) else .error .reserved
  | 0x8A => if fld w 3 9 = 0 then keep (.cntrd (fld w 18 6) (fld w 12 6) (fld w 0 3)) else .error .reserved
  | 0x8B => if fld w 0 12 = 0 then keep (.phopen (fld w 18 6) (fld w 12 6)) else .error .reserved
  | 0x8C => if fld w 18 6 = 0 ∧ fld w 0 12 = 0 then keep (.phwait (fld w 12 6)) else .error .reserved
  | 0x8D => if fld w 18 6 = 0 ∧ fld w 0 6 = 0 then keep (.trayput (fld w 12 6) (fld w 6 6)) else .error .reserved
  | 0x8E => if fld w 0 18 = 0 then keep (.traytake (fld w 18 6)) else .error .reserved
  | 0x90 => if fld w 12 6 = 0 then keep (.sysr (fld w 18 6) (fld w 0 12)) else .error .reserved
  | 0x91 => if fld w 18 6 = 0 then keep (.sysw (fld w 12 6) (fld w 0 12)) else .error .reserved
  | 0x92 => if fld w 18 6 = 0 then keep (.trap (fld w 0 18)) else .error .reserved
  | 0x93 => if fld w 0 24 = 0 then keep (.eret) else .error .reserved
  | 0x94 => if fld w 0 24 = 0 then keep (.yield) else .error .reserved
  | 0x95 => if fld w 0 24 = 0 then keep (.exit) else .error .reserved
  | 0x96 => if fld w 18 6 = 0 ∧ fld w 0 3 = 0 then keep (.shoot (fld w 12 6) (fld w 6 6) (fld w 3 3)) else .error .reserved
  | 0x97 => if fld w 18 6 = 0 ∧ fld w 0 12 = 0 then keep (.clsave (fld w 12 6)) else .error .reserved
  | 0x98 => if fld w 18 6 = 0 ∧ fld w 0 12 = 0 then keep (.clrest (fld w 12 6)) else .error .reserved
  | _ => .error .unassigned

/-- The stem instruction of a 32-bit word. -/
def decodeStem (w : BitVec 32) : Except Reject Instr := decodeStemOp (fld w 24 8).toNat w

/-- The fields of a 96-bit leaf word (spec 03, Table 3.1). -/
def leafFields (w : BitVec 96) : LeafWord :=
  { vd := fld w 78 8, va := fld w 70 8, vb := fld w 62 8, vc := fld w 54 8, k := fld w 50 4, rnd := fld w 47 3, la := fld w 43 4, ty := fld w 38 5,
    md := fld w 32 6, imm := fld w 0 32 }

/-- The leaf instruction of an opcode and its fields (spec 03, Table 3.9). -/
def mkLeaf (op : Nat) (w : LeafWord) : Option Instr :=
  match op with
  | 0x001 => some (.vadd w)
  | 0x002 => some (.vsub w)
  | 0x003 => some (.vmul w)
  | 0x004 => some (.vmulh w)
  | 0x005 => some (.vmad w)
  | 0x006 => some (.vand w)
  | 0x007 => some (.vor w)
  | 0x008 => some (.vxor w)
  | 0x009 => some (.vnot w)
  | 0x00A => some (.vshl w)
  | 0x00B => some (.vshr w)
  | 0x00C => some (.vsha w)
  | 0x00D => some (.vmin w)
  | 0x00E => some (.vmax w)
  | 0x00F => some (.vabs w)
  | 0x010 => some (.vneg w)
  | 0x011 => some (.vclz w)
  | 0x012 => some (.vpopc w)
  | 0x013 => some (.vsel w)
  | 0x040 => some (.vfadd w)
  | 0x041 => some (.vfsub w)
  | 0x042 => some (.vfmul w)
  | 0x043 => some (.vfma w)
  | 0x044 => some (.vfms w)
  | 0x045 => some (.vfnma w)
  | 0x046 => some (.vfdiv w)
  | 0x047 => some (.vfsqrt w)
  | 0x048 => some (.vfrcp w)
  | 0x049 => some (.vfrsq w)
  | 0x04A => some (.vfexp2 w)
  | 0x04B => some (.vflog2 w)
  | 0x04C => some (.vfmin w)
  | 0x04D => some (.vfmax w)
  | 0x04E => some (.vfabs w)
  | 0x04F => some (.vfneg w)
  | 0x050 => some (.vfclass w)
  | 0x080 => some (.vcmp w)
  | 0x088 => some (.vcvt w)
  | 0x089 => some (.vreqb w)
  | 0x08A => some (.vqblk w)
  | 0x08B => some (.vdqb w)
  | 0x0C0 => some (.sadd w)
  | 0x0C1 => some (.saddi w)
  | 0x0C2 => some (.ssub w)
  | 0x0C3 => some (.smul w)
  | 0x0C4 => some (.sshl w)
  | 0x0C5 => some (.smov w)
  | 0x100 => some (.vmov w)
  | 0x101 => some (.vmovi w)
  | 0x102 => some (.vlane w)
  | 0x103 => some (.vbcs w)
  | 0x104 => some (.vexs w)
  | 0x140 => some (.kand w)
  | 0x141 => some (.kor w)
  | 0x142 => some (.kxor w)
  | 0x143 => some (.knot w)
  | 0x144 => some (.kmov w)
  | 0x145 => some (.kpopc w)
  | 0x146 => some (.lmask w)
  | 0x147 => some (.lgetm w)
  | 0x180 => some (.vshuf w)
  | 0x181 => some (.vshfup w)
  | 0x182 => some (.vshfdn w)
  | 0x183 => some (.vbcl w)
  | 0x184 => some (.vvote w)
  | 0x185 => some (.vballot w)
  | 0x186 => some (.vscan w)
  | 0x187 => some (.vred w)
  | 0x200 => some (.vld w)
  | 0x201 => some (.vst w)
  | 0x202 => some (.vldb w)
  | 0x203 => some (.vstb w)
  | 0x204 => some (.vldf w)
  | 0x205 => some (.vstf w)
  | 0x206 => some (.vlda w)
  | 0x207 => some (.vstl w)
  | 0x208 => some (.vldc w)
  | 0x209 => some (.vamo w)
  | 0x20A => some (.vcas w)
  | 0x20B => some (.xidx w)
  | 0x280 => some (.lbr w)
  | 0x281 => some (.sbr w)
  | 0x282 => some (.ljmp w)
  | 0x283 => some (.lcall w)
  | 0x284 => some (.lret w)
  | 0x285 => some (.ljoin w)
  | 0x286 => some (.lyield w)
  | 0x287 => some (.lend w)
  | 0x288 => some (.lexit w)
  | 0x300 => some (.mssa w)
  | 0x301 => some (.mdot w)
  | 0x302 => some (.mzero w)
  | 0x303 => some (.mload w)
  | 0x304 => some (.mdrain w)
  | 0x340 => some (.einit w)
  | 0x341 => some (.eapp w)
  | 0x342 => some (.eleft w)
  | 0x343 => some (.eright w)
  | 0x344 => some (.ecap w)
  | 0x345 => some (.estat w)
  | 0x346 => some (.esave w)
  | 0x347 => some (.erest w)
  | _ => none

/-- The leaf instruction of a 96-bit word (spec 03, R55, R73, R74). -/
def decodeLeaf (w : BitVec 96) : Except Reject Instr :=
  match mkLeaf (fld w 86 10).toNat (leafFields w) with
  | none => .error .unassigned
  | some i => keep i

/-- The n bits of little-endian bytes (spec 00, R5). -/
def bitsOfBytes (n : Nat) (b : List (BitVec 8)) : BitVec n :=
  match b with
  | [] => 0
  | x :: r => BitVec.ofNat n (x.toNat + 256 * (bitsOfBytes n r).toNat)

/-- A value's n bytes, little-endian. -/
def bytesOfNat (n x : Nat) : List (BitVec 8) :=
  match n with
  | 0 => []
  | m + 1 => BitVec.ofNat 8 x :: bytesOfNat m (x / 256)

/-- The stem instruction at the head of a list of bytes, with the bytes after it. -/
def decodeStemBytes (b : List (BitVec 8)) : Except Reject (Instr × List (BitVec 8)) :=
  if b.length < 4 then .error .short
  else match decodeStem (bitsOfBytes 32 (b.take 4)) with
    | .ok i => .ok (i, b.drop 4)
    | .error e => .error e

/-- The leaf instruction at the head of a list of bytes, with the bytes after it. -/
def decodeLeafBytes (b : List (BitVec 8)) : Except Reject (Instr × List (BitVec 8)) :=
  if b.length < 12 then .error .short
  else match decodeLeaf (bitsOfBytes 96 (b.take 12)) with
    | .ok i => .ok (i, b.drop 12)
    | .error e => .error e

/-- The instruction of a word as the opcode table numbers its bits: 32 bits are a stem word, 96 bits a leaf word. -/
def decodeTableWord (nbits w : Nat) : Option Instr :=
  if nbits ≤ 32 then
    match decodeStemBytes (bytesOfNat 4 w) with
    | .ok (i, _) => some i
    | .error _ => none
  else
    match decodeLeafBytes (bytesOfNat 12 w) with
    | .ok (i, _) => some i
    | .error _ => none

/-! ## The encoder -/

/-- The 32-bit word of a stem instruction (spec 02, Tables 2.1, 2.9). -/
def encodeStem (i : Instr) : Option (BitVec 32) :=
  match i with
  | .add d a b => some (0x01#8 ++ d ++ a ++ b ++ 0#6)
  | .sub d a b => some (0x02#8 ++ d ++ a ++ b ++ 0#6)
  | .mul d a b => some (0x03#8 ++ d ++ a ++ b ++ 0#6)
  | .mulh d a b => some (0x04#8 ++ d ++ a ++ b ++ 0#6)
  | .mulhn d a b => some (0x05#8 ++ d ++ a ++ b ++ 0#6)
  | .div d a b => some (0x06#8 ++ d ++ a ++ b ++ 0#6)
  | .divn d a b => some (0x07#8 ++ d ++ a ++ b ++ 0#6)
  | .rem d a b => some (0x08#8 ++ d ++ a ++ b ++ 0#6)
  | .remn d a b => some (0x09#8 ++ d ++ a ++ b ++ 0#6)
  | .and d a b => some (0x0A#8 ++ d ++ a ++ b ++ 0#6)
  | .or d a b => some (0x0B#8 ++ d ++ a ++ b ++ 0#6)
  | .xor d a b => some (0x0C#8 ++ d ++ a ++ b ++ 0#6)
  | .shl d a b => some (0x0D#8 ++ d ++ a ++ b ++ 0#6)
  | .shr d a b => some (0x0E#8 ++ d ++ a ++ b ++ 0#6)
  | .sha d a b => some (0x0F#8 ++ d ++ a ++ b ++ 0#6)
  | .min d a b => some (0x10#8 ++ d ++ a ++ b ++ 0#6)
  | .max d a b => some (0x11#8 ++ d ++ a ++ b ++ 0#6)
  | .minn d a b => some (0x12#8 ++ d ++ a ++ b ++ 0#6)
  | .maxn d a b => some (0x13#8 ++ d ++ a ++ b ++ 0#6)
  | .slt d a b => some (0x14#8 ++ d ++ a ++ b ++ 0#6)
  | .sltn d a b => some (0x15#8 ++ d ++ a ++ b ++ 0#6)
  | .seq d a b => some (0x16#8 ++ d ++ a ++ b ++ 0#6)
  | .clz d a => some (0x17#8 ++ d ++ a ++ 0#12)
  | .ctz d a => some (0x18#8 ++ d ++ a ++ 0#12)
  | .popc d a => some (0x19#8 ++ d ++ a ++ 0#12)
  | .addsh d a b s => some (0x1A#8 ++ d ++ a ++ b ++ 0#3 ++ s)
  | .addi d a i => some (0x20#8 ++ d ++ a ++ i)
  | .andi d a i => some (0x21#8 ++ d ++ a ++ i)
  | .ori d a i => some (0x22#8 ++ d ++ a ++ i)
  | .xori d a i => some (0x23#8 ++ d ++ a ++ i)
  | .shli d a c => some (0x24#8 ++ d ++ a ++ 0#6 ++ c)
  | .shri d a c => some (0x25#8 ++ d ++ a ++ 0#6 ++ c)
  | .shai d a c => some (0x26#8 ++ d ++ a ++ 0#6 ++ c)
  | .slti d a i => some (0x27#8 ++ d ++ a ++ i)
  | .sltni d a i => some (0x28#8 ++ d ++ a ++ i)
  | .muli d a i => some (0x29#8 ++ d ++ a ++ i)
  | .ldhi d i => some (0x2A#8 ++ d ++ i)
  | .pcadd d i => some (0x2B#8 ++ d ++ i)
  | .beq a b o => some (0x30#8 ++ a ++ b ++ o)
  | .bne a b o => some (0x31#8 ++ a ++ b ++ o)
  | .blt a b o => some (0x32#8 ++ a ++ b ++ o)
  | .bge a b o => some (0x33#8 ++ a ++ b ++ o)
  | .bltn a b o => some (0x34#8 ++ a ++ b ++ o)
  | .bgen a b o => some (0x35#8 ++ a ++ b ++ o)
  | .jmp o => some (0x36#8 ++ o)
  | .call o => some (0x37#8 ++ o)
  | .jr a i => some (0x38#8 ++ 0#6 ++ a ++ i)
  | .callr d a i => some (0x39#8 ++ d ++ a ++ i)
  | .ldI8 d a l y o => some (0x40#8 ++ d ++ a ++ l ++ y ++ 0#2 ++ o)
  | .ldI16 d a l y o => some (0x41#8 ++ d ++ a ++ l ++ y ++ 0#2 ++ o)
  | .ldI32 d a l y o => some (0x42#8 ++ d ++ a ++ l ++ y ++ 0#2 ++ o)
  | .ldI64 d a l y o => some (0x43#8 ++ d ++ a ++ l ++ y ++ 0#2 ++ o)
  | .ldnN8 d a l y o => some (0x44#8 ++ d ++ a ++ l ++ y ++ 0#2 ++ o)
  | .ldnN16 d a l y o => some (0x45#8 ++ d ++ a ++ l ++ y ++ 0#2 ++ o)
  | .ldnN32 d a l y o => some (0x46#8 ++ d ++ a ++ l ++ y ++ 0#2 ++ o)
  | .stI8 s a y o => some (0x48#8 ++ s ++ a ++ 0#4 ++ y ++ 0#2 ++ o)
  | .stI16 s a y o => some (0x49#8 ++ s ++ a ++ 0#4 ++ y ++ 0#2 ++ o)
  | .stI32 s a y o => some (0x4A#8 ++ s ++ a ++ 0#4 ++ y ++ 0#2 ++ o)
  | .stI64 s a y o => some (0x4B#8 ++ s ++ a ++ 0#4 ++ y ++ 0#2 ++ o)
  | .ldaN32 d a l c o => some (0x4C#8 ++ d ++ a ++ l ++ c ++ o)
  | .ldaI64 d a l c o => some (0x4D#8 ++ d ++ a ++ l ++ c ++ o)
  | .stlI32 s a c o => some (0x4E#8 ++ s ++ a ++ 0#4 ++ c ++ o)
  | .stlI64 s a c o => some (0x4F#8 ++ s ++ a ++ 0#4 ++ c ++ o)
  | .ldcN32 d a l o => some (0x50#8 ++ d ++ a ++ l ++ 0#3 ++ o)
  | .ldcI64 d a l o => some (0x51#8 ++ d ++ a ++ l ++ 0#3 ++ o)
  | .ldbN32 d a l o => some (0x52#8 ++ d ++ a ++ l ++ 0#3 ++ o)
  | .ldbI64 d a l o => some (0x53#8 ++ d ++ a ++ l ++ 0#3 ++ o)
  | .stbI32 s a o => some (0x54#8 ++ s ++ a ++ 0#7 ++ o)
  | .stbI64 s a o => some (0x55#8 ++ s ++ a ++ 0#7 ++ o)
  | .amoAdd d a b c z => some (0x58#8 ++ d ++ a ++ b ++ c ++ z ++ 0#2)
  | .amoAnd d a b c z => some (0x59#8 ++ d ++ a ++ b ++ c ++ z ++ 0#2)
  | .amoOr d a b c z => some (0x5A#8 ++ d ++ a ++ b ++ c ++ z ++ 0#2)
  | .amoXor d a b c z => some (0x5B#8 ++ d ++ a ++ b ++ c ++ z ++ 0#2)
  | .amoMin d a b c z => some (0x5C#8 ++ d ++ a ++ b ++ c ++ z ++ 0#2)
  | .amoMax d a b c z => some (0x5D#8 ++ d ++ a ++ b ++ c ++ z ++ 0#2)
  | .amoMinn d a b c z => some (0x5E#8 ++ d ++ a ++ b ++ c ++ z ++ 0#2)
  | .amoMaxn d a b c z => some (0x5F#8 ++ d ++ a ++ b ++ c ++ z ++ 0#2)
  | .amoSwap d a b c z => some (0x60#8 ++ d ++ a ++ b ++ c ++ z ++ 0#2)
  | .cas d a b c z => some (0x61#8 ++ d ++ a ++ b ++ c ++ z ++ 0#2)
  | .fence c k => some (0x62#8 ++ 0#18 ++ c ++ 0#1 ++ k)
  | .chk o => some (0x63#8 ++ o)
  | .cldrop a => some (0x64#8 ++ 0#6 ++ a ++ 0#12)
  | .lrun g i => some (0x68#8 ++ g ++ i)
  | .lwait => some (0x69#8 ++ 0#24)
  | .hcnt d h => some (0x6A#8 ++ d ++ 0#13 ++ h)
  | .htry d h => some (0x6B#8 ++ d ++ 0#13 ++ h)
  | .tdist d a l o => some (0x70#8 ++ d ++ a ++ l ++ 0#3 ++ o)
  | .tstake d a o => some (0x71#8 ++ d ++ a ++ 0#7 ++ o)
  | .tunstake d a o => some (0x72#8 ++ d ++ a ++ 0#7 ++ o)
  | .ttouch a o => some (0x73#8 ++ 0#6 ++ a ++ 0#7 ++ o)
  | .bresize d a => some (0x74#8 ++ d ++ a ++ 0#12)
  | .xlin d a b => some (0x78#8 ++ d ++ a ++ b ++ 0#6)
  | .xstr d a b => some (0x79#8 ++ d ++ a ++ b ++ 0#6)
  | .xmc d a b => some (0x7A#8 ++ d ++ a ++ b ++ 0#6)
  | .xzero d a => some (0x7B#8 ++ d ++ a ++ 0#12)
  | .xwait c n => some (0x7C#8 ++ 0#12 ++ c ++ 0#2 ++ n)
  | .xyield a c n => some (0x7D#8 ++ 0#6 ++ a ++ c ++ 0#2 ++ n)
  | .bari d a b => some (0x80#8 ++ d ++ a ++ b ++ 0#6)
  | .bara d a b => some (0x81#8 ++ d ++ a ++ b ++ 0#6)
  | .barw d a b => some (0x82#8 ++ d ++ a ++ b ++ 0#6)
  | .bart d a b => some (0x83#8 ++ d ++ a ++ b ++ 0#6)
  | .launch d a => some (0x88#8 ++ d ++ a ++ 0#12)
  | .cancel a l => some (0x89#8 ++ 0#6 ++ a ++ 0#9 ++ l)
  | .cntrd d a l => some (0x8A#8 ++ d ++ a ++ 0#9 ++ l)
  | .phopen d a => some (0x8B#8 ++ d ++ a ++ 0#12)
  | .phwait a => some (0x8C#8 ++ 0#6 ++ a ++ 0#12)
  | .trayput a b => some (0x8D#8 ++ 0#6 ++ a ++ b ++ 0#6)
  | .traytake d => some (0x8E#8 ++ d ++ 0#18)
  | .sysr d i => some (0x90#8 ++ d ++ 0#6 ++ i)
  | .sysw a i => some (0x91#8 ++ 0#6 ++ a ++ i)
  | .trap i => some (0x92#8 ++ 0#6 ++ i)
  | .eret => some (0x93#8 ++ 0#24)
  | .yield => some (0x94#8 ++ 0#24)
  | .exit => some (0x95#8 ++ 0#24)
  | .shoot a b c => some (0x96#8 ++ 0#6 ++ a ++ b ++ c ++ 0#3)
  | .clsave a => some (0x97#8 ++ 0#6 ++ a ++ 0#12)
  | .clrest a => some (0x98#8 ++ 0#6 ++ a ++ 0#12)
  | _ => none

/-- The 96-bit word of an opcode and its fields (spec 03, Table 3.1). -/
def packLeaf (op : Nat) (w : LeafWord) : BitVec 96 :=
  BitVec.ofNat 10 op ++ w.vd ++ w.va ++ w.vb ++ w.vc ++ w.k ++ w.rnd ++ w.la ++ w.ty ++ w.md ++ w.imm

/-- The 96-bit word of a leaf instruction. -/
def encodeLeaf (i : Instr) : Option (BitVec 96) :=
  match i.leaf? with
  | some (op, w) => some (packLeaf op w)
  | none => none

/-- The words of an instruction as their bits: a stem word, or a leaf word; events have none. -/
def encode (i : Instr) : Option (Nat × Nat) :=
  match encodeStem i with
  | some w => some (32, w.toNat)
  | none => match encodeLeaf i with
    | some w => some (96, w.toNat)
    | none => none

end Sys2Proof
end

