-- ==== Sys2Proof/Config.lean ====
section
/-!
DEFINITION. The free values: what the spec leaves open although the machine goes on. Each is an opaque constant without a
body, applied to the operands it depends on or to the state's index of free values, so nothing in Lean can know it. -/
namespace Sys2Proof.Config

/-- Which of the entries of rank 0 to 31 a TRAYTAKE returns, when 32 or more are present (spec 10, R207). -/
opaque trayPick : Nat → BitVec 5
/-- Whether an overlapped destination byte of a copy receives the source byte from before the command (spec 18, R326),
by free-value index and byte number. -/
opaque overlapOld : Nat → Nat → Bool
/-- The bits that a soft error leaves in a datapath that no check covers (spec 24, R401). -/
opaque gapValue : Nat → BitVec 32
/-- The three Bloom hash functions of a row number (spec 27, R431). -/
opaque rowHash : Nat → Nat → BitVec 13
/-- The signed SPDM answer over a nonce (spec 29, R460). -/
opaque spdmAnswer : BitVec 64 → BitVec 64
/-- The weak and the normal retention filter that boot training measures, by die, channel and bank (spec 27, R431). -/
opaque bootWeak : Nat → Nat → Nat → BitVec 8192
opaque bootNormal : Nat → Nat → Nat → BitVec 8192
/-- The DRAM bank of a channel, and its row, that hold a line: the spec gives only the channel (spec 27, R427). -/
opaque dramBank : Nat → BitVec 5
opaque dramRow : Nat → Nat
/-- The SRAM bank, core * 8 + bank within the cluster, that holds a Tendril slot of a cluster (spec 24, R405). -/
opaque slotBank : Nat → Nat → Nat
/-- The mailbox base of a die in units of 16 KiB of its own HBM, which firmware sets (spec 29, R456). -/
opaque mailboxBase : Nat → BitVec 22

end Sys2Proof.Config
end

