-- ==== Sys2Proof/Machine/Msg.lean ====
section
/-!
DEFINITION. The messages in flight: each arrives as the event of the opcode table that bears its name, whose data it
carries. -/
namespace Sys2Proof.Machine

/-- A message between parts of the module, named after the event that its arrival is. -/
inductive Msg where
  | routineStart (slot : Nat)
  | lrunQueueSlotFree (slot : Nat)
  | lwaitRelease (slot : Nat)
  | parkedWordRetest (slot : Nat) (leaf : Bool)
  | drillRetire (slot : Nat)
  | launchDependenceRelease (obj : Nat)
  | phaseArrival (obj dest : Nat) (err : Bool)
  | phaseLineRaise (obj dest : Nat)
  | phwaitRelease (slot : Nat)
  | trayputResume (slot : Nat)
  | congestionLevelApply (core : Nat)
  | queueNop (die q : Nat)
  | queueLaunch (die q : Nat)
  | queueWait (die q : Nat)
  | queueSignal (die q : Nat)
  | queueXfer (die q : Nat)
  | barwWake (slot : Nat)
  | tendrilStep (cl : Nat)
  | tileLand (cl tile : Nat)
  | tileFillReturn (cl tile line : Nat)
  | tileWritebackAck (cl tile : Nat)
  | hubStoreStamp (id : Nat)
  | stampResponse (id w wts : Nat)
  | hubFill (cl line slot dt lease : Nat)
  | hubRenewal (cl line slot dt lease wts : Nat)
  | leaseResponse (cl line slot wts rts : Nat) (data : Option Vec) (psn : BitVec 4)
  | pageReclassify (pte : Nat)
  | clocheVerify (core ent line wts dt lease : Nat)
  | clocheVerdict (core ent line wts : Nat) (struck : Bool)
  | chkResolve (slot : Nat)
  | translationWalk (die job page : Nat) (store : Bool)
  | benchMapWriteback (core idx : Nat)
  | migrationMove (die job : Nat) (va : VAddr) (frame : Nat)
  | shootRemote (die id : Nat)
  | copyRetire (slot cls : Nat)
  | xwaitRelease (slot : Nat)
  | xyieldWake (slot : Nat)
  | matrixAccept (slot : Nat)
  | matrixRetire (core : Nat)
  | matrixErrorTrap (slot : Nat)
  | preemptionTrap (slot : Nat)
  | asyncTrapHoldExpiry (slot : Nat)
  | unbind (slot : Nat)
  | ownerZeroing (core job : Nat)
  | rds (line agent : Nat)
  | rdx (line agent : Nat)
  | upg (line agent : Nat)
  | wb (line agent : Nat) (data : Vec) (psn : BitVec 4)
  | evict (line agent : Nat)
  | fwds (line holder req : Nat)
  | fwdx (line holder req : Nat)
  | inv (line holder req : Nat)
  | coherenceData (line die : Nat) (st : LineSt) (data : Vec) (psn : BitVec 4)
  | coherenceAck (line agent : Nat) (gone : Bool)
  | homeAtomic (id : Nat)
  | atomicResponse (id : Nat) (old : Word) (psn : Bool)
  | hbmRetrain (die stack : Nat)
  | meshPromote (die stop port vc : Nat)
  | debugReadDone
  | hostMemrdS (line : Nat)
  | hostMemrdA (line : Nat)
  | hostMemrdI (line : Nat)
  | hostMemwr (line : Nat) (data : Vec)
  | snpinv (line : Nat)
  | snpdata (line : Nat)
  | snpcur (line : Nat)
  | dtDrift (slot : Nat)
  | throttlePointerAdvance (core : Nat)
  | congestionSample (die : Nat)
  deriving DecidableEq, Repr

end Sys2Proof.Machine
end

