-- ==== Sys2Proof/Machine/State.lean ====
section
/-!
DEFINITION. The state of the module as plain data: every piece of state the spec names (INVENTORY.md, State), the model's
own fields (who moves next, messages in flight, the index of free values, the clock), the fault and refusal reasons, and the
state after reset. -/
namespace Sys2Proof.Machine

/-! ## Drills -/

/-- A split table entry (spec 09, R175, Table 9.1). STATE is kept as its code: 0 free, 1 ready, 2 running, 3 waiting at
LJOIN, 4 ended; `rs` lists the return stack words that are not zero. -/
structure SplitEntry where
  state : BitVec 3 := 0
  depth : BitVec 4 := 0
  pc : VAddr := 0
  em : LaneMask := 0
  sm : LaneMask := 0
  rj : LaneMask := 0
  rs : Tab VAddr := []
  deriving DecidableEq, Repr

/-- A leaf launch queue entry (spec 01, R18): entry address, copy of g0 to g15, copy of FMODE[6:0]. -/
structure LaunchEnt where
  entry : VAddr := 0
  regs : Tab Word := []
  fmode : BitVec 7 := 0
  /-- The stem's cloche entries at the LRUN (spec 16, R294). -/
  clo : List Nat := []
  deriving DecidableEq, Repr

/-- A register write that waits behind a lookahead window (spec 01, R31, R32). `kind` 0 is a stem register, 1 a vector
register, 2 a leaf scalar; `owner` is the split of a leaf window; `left` counts the words of the window still to issue. -/
structure PendWrite where
  kind : Nat
  owner : Nat
  reg : Nat
  lanes : LaneMask
  value : Vec
  left : Nat
  deriving DecidableEq, Repr

/-- A leaf context: split table, running pointer, launch queue, s registers and the running routine's FMODE copy
(spec 09, R175; 01, R18; 23, R382). -/
structure LeafCtx where
  splits : Tab SplitEntry := []
  run : Nat := 0
  queue : List LaunchEnt := []
  s : Tab Word := []
  fmode : BitVec 7 := 0
  clo : List Nat := []
  deriving DecidableEq, Repr

/-- What a stopped stream waits on. A word that waits has had no effect and issues again, or is completed by the
event that its rule names. -/
inductive Wait where
  /-- Not waiting. -/
  | none
  /-- Parked on hoses (spec 11, R220). -/
  | hose
  /-- LRUN on a full queue (spec 06, R125). -/
  | lrunQueue
  /-- LWAIT (spec 06, R126). -/
  | lwait
  /-- CHK, with the entries it judges and its two next PCs (spec 16, R291). -/
  | chk (ents : List Nat) (taken fall : VAddr)
  /-- XWAIT of a counter class and threshold (spec 18, R336). -/
  | xwait (cls n : Nat)
  /-- XYIELD of a counter class, threshold and target (spec 18, R336). -/
  | xyield (cls n : Nat) (target : VAddr)
  /-- PHWAIT of a phase (spec 10, R214). -/
  | phwait (obj : Nat)
  /-- BARW on a barrier word of a core's bench; once woken, with the word to write to gd (spec 11, R227, R228). -/
  | barw (core off dst : Nat) (woken : Option Word)
  /-- TRAYPUT on a full quota (spec 10, R215). -/
  | trayput
  /-- LAUNCH on a hub without a free launch entry, or PHOPEN without a free line (spec 10, R210, R213). -/
  | entry
  /-- A pool load on an empty ring (spec 17, R311). -/
  | pool (die size dst : Nat)
  /-- A Tendril admission (spec 12, R244, R248). -/
  | access
  /-- A fill, renewal or locked page (spec 15, R267; 17, R316). -/
  | line
  /-- A page walk (spec 17, R304). -/
  | walk
  /-- Stamps of the drill's stores (spec 15, R274). -/
  | stores
  /-- Verdicts on entries of a release's prior set (spec 16, R294). -/
  | verdicts
  /-- An atomic sent to another point of coherence (spec 11, R231). -/
  | atomic (id : Nat)
  /-- A copy or matrix queue place, a counter at 255, or throttle level 3 (spec 18, R318; 19, R342; 31, R466). -/
  | engine
  /-- An engine operation that must retire first (spec 12, R256; 20, R372, R375; 23, R383). -/
  | retire
  /-- A shootdown's acknowledgements (spec 17, R312; 26, R421). -/
  | shoot (id : Nat)
  /-- In replay mode, an event that the log places after others (spec 24, R407). -/
  | replay
  /-- EXIT has been executed: the stem fetches no further word (spec 06, R135). -/
  | exited
  /-- Halted after a double fault, or parked in a firmware call (spec 23, R387). -/
  | halted (call : Bool)
  /-- ERET with UNB: waits for the counters (spec 23, R393). -/
  | unbind
  deriving DecidableEq, Repr

/-- A trap that has fallen due: its cause word, TVAL, TMASK, TEA list, and the stem PC to save (spec 23, R381). -/
structure TrapInfo where
  cause : BitVec 32
  tval : Word
  tmask : LaneMask := 0
  tea : Tab Word := []
  epc : VAddr
  deriving DecidableEq, Repr

/-- What a word in progress has performed on one tile (spec 12, R252; 08, R163): whether it wrote, the value and the poisoned
sector of each of its elements by number, the largest wts returned, and the cloche entries to make, (line, wts). -/
structure Got where
  leaf : Bool
  tile : Nat
  wrote : Bool := false
  vals : Tab (Nat × Option Nat) := []
  wts : Nat := 0
  ents : List (Nat × Nat) := []
  deriving DecidableEq, Repr

/-- A drill bound to a context slot (spec 01, 09, 23). -/
structure Drill where
  /-- Job number, bed object and drill index within the bed (spec 10, Table 10.4). -/
  job : Nat := 0
  bed : Nat := 0
  didx : Nat := 0
  /-- Priority, budget in units of 8 registers, TWIN and SAVE of the bind record (spec 10, R202). -/
  prio : Nat := 0
  budget : Nat := 0
  twin : Bool := false
  save : Word := 0
  /-- g1 to g47, v0 to v239, k1 to k15 that are not zero (spec 01, R21). -/
  g : Tab Word := []
  v : Tab Vec := []
  k : Tab LaneMask := []
  pc : VAddr := 0
  /-- System registers (spec 01, Table 1.3). -/
  fmode : BitVec 32 := 0
  role : BitVec 32 := 0
  hmap : Word := 0
  dt : Nat := 0
  lease : Nat := 256
  super : Bool := false
  live : LaneMask := 0
  sbase : VAddr := 0
  slim : VAddr := 0
  lbase : VAddr := 0
  llim : VAddr := 0
  /-- Outstanding-operation counters oc.copy, oc.gather, oc.matrix, oc.coll, by class code (spec 01, R27). -/
  oc : Tab Nat := []
  /-- Private hoses h0 to h7 and engine ports h28 to h31, oldest first (spec 11, R216). -/
  hoses : Tab (List Vec) := []
  /-- Leaf context of the user level (held while the drill is at supervisor level) and of the supervisor (spec 23, R382). -/
  user : LeafCtx := {}
  sup : LeafCtx := {}
  /-- Open lookahead windows, stem and leaf (spec 01, R31). -/
  wins : List PendWrite := []
  /-- Hidden stamps (spec 15, R266). -/
  pstamp : Nat := 0
  lstamp : Nat := 0
  /-- What each stream waits on. -/
  stemWait : Wait := .none
  leafWait : Wait := .none
  /-- Accesses presented and not yet performed, (leaf stream, tile), and those admitted (spec 12, R248, R252). -/
  asked : List (Bool × Nat) := []
  granted : List (Bool × Nat) := []
  /-- Tiles performed of the words in progress, and the hoses whose heads those words hold, by stream. -/
  got : List Got := []
  claims : List (Bool × Nat) := []
  /-- The fault a walk reported to a stream, (leaf stream, page, cause), consumed when the word issues (spec 17, R309). -/
  walked : List (Bool × Nat × Nat) := []
  /-- CLSTAT.OVF (spec 16, R293). -/
  ovf : Bool := false
  /-- Trap registers (spec 23, Table 23.2). -/
  tcause : BitVec 32 := 0
  tval : Word := 0
  tmask : LaneMask := 0
  tepc : Word := 0
  tstat : BitVec 32 := 0
  tscr : Word := 0
  tkill : LaneMask := 0
  spsel : BitVec 32 := 0
  lqsel : BitVec 32 := 0
  tea : Tab Word := []
  /-- Hidden wait state: WAKE and WKIND, and the barrier word of the completion that woke a BARW (spec 11, R227, R230). -/
  wake : Bool := false
  wkind : BitVec 3 := 0
  woke : Option Word := none
  /-- A trap that has fallen due and waits for engines and stamps (spec 23, R381 step 2). -/
  due : Option TrapInfo := none
  /-- A pending pre-emption with its deadline, and words issued while it is held by a window (spec 23, R390; 01, R34). -/
  preempt : Option Nat := none
  heldIssues : Nat := 0
  /-- Deadline of the pre-emption command that tags the drill's traffic, and whether a retraining held it up (spec 27, R434, R435). -/
  deadline : Nat := 0
  retrained : Option Nat := none
  /-- FC of a pending matrix-error trap (spec 19, R347). -/
  merr : Option Nat := none
  /-- Slots that must still issue before this stem may (YIELD, spec 06, R134). -/
  yields : List Nat := []
  /-- Cycle at which each stream became ready and cycles of last issue (spec 10, R204). -/
  readyStem : Nat := 0
  readyLeaf : Nat := 0
  lastStem : Option Nat := none
  lastLeaf : Option Nat := none
  /-- Killed by a cancel (spec 10, R211). -/
  killed : Bool := false
  /-- Records written so far in record mode, or matched in replay mode (spec 24, R406). -/
  seq : Nat := 0
  deriving DecidableEq, Repr

/-! ## Cores and clusters -/

/-- A cloche entry (spec 16, Table 16.1), `state` 1 unresolved or 2 struck; `leaf` says which stream made it and
`lanes` of which split (spec 16, R294); a restored entry counts as the stem's. -/
structure ClEntry where
  state : BitVec 2 := 1
  ctx : Nat := 0
  line : Nat := 0
  wts : Nat := 0
  leaf : Bool := false
  lanes : LaneMask := 0
  routineEnded : Bool := false
  deriving DecidableEq, Repr

/-- A cached translation (spec 17, R306, R308): job, page number of its own size, shift of the page, word 1, physical base of the
page; for a host page, whether its dirty bit is set; for a native one, the address of its entry. `block` is the 64 KiB block of a native page
that the translation serves: a smaller page may be mapped elsewhere within a larger one, and then the smaller is used (R304). -/
structure Trans where
  job : Nat
  page : Nat
  shift : Nat
  block : Nat
  word1 : Word
  frame : Nat
  dirty : Bool := true
  pte : Option Nat := none
  deriving DecidableEq, Repr

/-- A bench map entry (spec 17, R313): bench offset, length, virtual address, job, present and dirty tiles. -/
structure BenchMap where
  off : Nat
  len : Nat
  va : VAddr
  job : Nat
  present : List Nat := []
  dirty : List Nat := []
  deriving DecidableEq, Repr

/-- An accepted matrix or espalier operation with the operands read at acceptance (spec 19, R343; 20, R364).
`op` is the leaf opcode. -/
structure MatOp where
  op : Nat
  slot : Nat
  word : LeafWord
  /-- The A and B groups, or the reflector group. -/
  groupA : List Vec := []
  groupB : List Vec := []
  /-- Address operand, format block address, barrier address, τ. -/
  addr : Word := 0
  fblk : Word := 0
  bar : Word := 0
  tau : Word := 0
  /-- Resolved rounding mode code and the issuing drill's DT. -/
  rm : Nat := 1
  dt : Nat := 0
  /-- For the follower half of a .twin operation. -/
  twinHalf : Bool := false
  /-- Job and level of the issuing drill, the status word that an EREST read, and the pool lines that have come back. -/
  job : Nat := 0
  sup : Bool := false
  stat : Nat := 0
  pool : Tab (Vec × BitVec 4) := []
  deriving DecidableEq, Repr

/-- An access presented to a cluster's front (spec 12, R245): slot, stream, tile, moving, kind, sectors it writes.
`kind` 0 data access, 1 TDIST, 2 TSTAKE, 3 TUNSTAKE, 4 TTOUCH. -/
structure Access where
  slot : Nat
  leaf : Bool
  tile : Nat
  byMod : Bool
  kind : Nat := 0
  stores : Nat := 0
  sectors : List Nat := []
  deriving DecidableEq, Repr

/-- An espalier's control fields and body words (spec 20, Tables 20.1, 20.2). -/
structure Espalier where
  ty : BitVec 2 := 0
  rc : Nat := 0
  cap : Nat := 0
  n : Nat := 0
  k : Nat := 0
  body : Tab (BitVec 32) := []
  deriving DecidableEq, Repr

/-- One core (spec 12, R239; 16, R287; 17, R308, R313; 19, R337; 24, R402; 10, R205). -/
structure CoreSt where
  /-- SRAM units of 64 KiB lent to the Tendril. -/
  lend : Nat := 5
  bench : List Host.Cell := []
  benchPsn : List Nat := []
  tags : Tab Nat := []
  tiles : Tab (Tab (BitVec 32)) := []
  esp : Tab Espalier := []
  /-- TYPE of each espalier as set at acceptance (spec 20, R363). -/
  espTy : Tab (BitVec 2) := []
  mq : List MatOp := []
  cloche : Tab ClEntry := []
  tcache : List Trans := []
  bmap : Tab BenchMap := []
  queue : List Access := []
  lost : Nat := 0
  /-- Owner jobs of register-file units, bench, tiles and espaliers. -/
  ownRegs : Tab Nat := []
  ownBench : Option Nat := none
  ownTiles : Option Nat := none
  ownEsp : Option Nat := none
  /-- Congestion level applied, the cycle it was applied, and the throttle pointer. -/
  congestion : Nat := 0
  congestedAt : Nat := 0
  throttle : Nat := 0
  /-- Power of each SRAM bank that is not on. -/
  power : Tab BankPower := []
  /-- The bench bytes struck by a correctable error, awaiting the scrubber. -/
  soft : List Nat := []
  deriving DecidableEq, Repr

/-- A line of a Tendril tile (spec 12, R254; 15, R267, R268): data, filled bytes, dirty bytes, pending bytes, poison per
sector, stamps, and whether it is a shared-class copy. -/
structure LineCopy where
  data : Vec := 0
  have' : BitVec 128 := 0
  dirty : BitVec 128 := 0
  pend : BitVec 128 := 0
  psn : BitVec 4 := 0
  shared : Bool := false
  wts : Nat := 0
  rts : Nat := 0
  deriving DecidableEq, Repr

/-- A tile of a Tendril (spec 12, R242, R250, R253). `land` is the step at whose end it lands; `chase` lists the sectors in
its write-chase buffer. -/
structure TileSt where
  pos : Nat
  staked : Option Nat := none
  moving : Bool := false
  land : Nat := 0
  chase : List Nat := []
  lines : Tab LineCopy := []
  job : Nat := 0
  deriving DecidableEq, Repr

/-- A copy-engine command (spec 18). `op` 0 XLIN, 1 XSTR, 2 XMC, 3 XZERO, 4 XIDX, 5 XIDX.key; operands by row; the issuing drill's job, level
and DT; the translations found at issue; the pool lines that have come back. -/
structure CopyCmd where
  slot : Nat
  cls : Nat
  op : Nat
  dst : Word := 0
  src : Word := 0
  len : Nat := 0
  /-- XSTR descriptor words; XMC core mask. -/
  desc : List Word := []
  /-- XIDX: active lanes, indices, block bytes. -/
  lanes : LaneMask := 0
  idx : Vec := 0
  blk : Nat := 0
  seqLayer : Word := 0
  job : Nat := 0
  sup : Bool := false
  dt : Nat := 0
  trans : List Trans := []
  pool : Tab (Vec × BitVec 4) := []
  /-- Entries already moved through a port; 1 once a command without a port has moved its bytes. -/
  moved : Nat := 0
  deriving DecidableEq, Repr

/-- One cluster (spec 12; 18, R318). -/
structure Cluster where
  tiles : Tab TileSt := []
  wback : Tab (Tab LineCopy) := []
  ptr : Nat := 0
  stepNo : Nat := 0
  /-- Accesses admitted and not yet performed, in the locator's order (spec 12, R252). -/
  order : List (Nat × Bool × Nat) := []
  engines : Tab (List CopyCmd) := []
  deriving DecidableEq, Repr

/-! ## Dies -/

/-- A region of the lease directory (spec 15, R272). -/
structure Region where
  base : Nat
  size : Nat
  wts : Nat
  rts : Nat
  /-- Last operation: cluster + 1 (0: none yet), line, store, and its number; number of the last conflict. -/
  lastCl : Nat := 0
  lastLine : Nat := 0
  lastStore : Bool := false
  lastOp : Nat := 0
  lastConflict : Nat := 0
  deriving DecidableEq, Repr

/-- A line as a die hub holds it (spec 26, Table 26.1). -/
structure HubLine where
  st : LineSt
  data : Vec
  psn : BitVec 4 := 0
  deriving DecidableEq, Repr

/-- A snoop-filter entry (spec 26, R412): holders (bit 4 is the host), the E, M or O holder and its state, recency. -/
structure DirEnt where
  holders : BitVec 5 := 0
  owner : Option (Nat × LineSt) := none
  used : Nat := 0
  deriving DecidableEq, Repr

/-- A request in progress at a home (spec 26, R413): kind 0 RdS, 1 RdX, 2 Upg, 3 host read without a state, 4 host write,
5 eviction, 6 host SnpInv, 7 host SnpData, 8 host SnpCur, 9 a mailbox line asked back; requester (4 is the host); agents that have still to answer; whether the
data or grant is on its way; data of a host write. -/
structure Busy where
  kind : Nat
  req : Nat
  await : List Nat := []
  sent : Bool := false
  data : Vec := 0
  deriving DecidableEq, Repr

/-- A seed tray entry (spec 10, R206; 15, R283). -/
structure TrayEnt where
  job : Nat
  key : Nat
  val : Nat
  dt : Nat
  deriving DecidableEq, Repr

/-- A mapped queue (spec 29, R456, R457). -/
structure Queue where
  qid : Nat
  job : Nat
  ring : VAddr
  log2n : Nat
  tail : Nat
  head : Nat := 0
  err : Nat := 0
  pair : Nat := 0
  /-- Launch objects that earlier commands created. -/
  launches : List Nat := []
  /-- An XFER sent and not yet reported performed. -/
  xfer : Bool := false
  raisedAt : Nat := 0
  deriving DecidableEq, Repr

/-- A page move in progress (spec 17, R315). -/
structure Move where
  job : Nat
  va : VAddr
  pte : Nat
  frame : Nat
  old : Nat
  size : Nat
  locked : Word
  deriving DecidableEq, Repr

/-- One DRAM bank with its retention filters (spec 27, R428, R430, R431). -/
structure Bank where
  openRow : Option Nat := none
  postponed : Nat := 0
  refreshes : Nat := 0
  /-- The bits inserted at run time into the weak and the normal filter; boot training adds its own (Config.bootWeak, bootNormal). -/
  weak : BitVec 8192 := 0
  normal : BitVec 8192 := 0
  /-- Rows of class W in the management error log, and whether the bank counts as degraded. -/
  weakLog : List Nat := []
  deriving DecidableEq, Repr

/-- A flit in a mesh queue (spec 28, R438): destination stop, its age as a head, promotion time. -/
structure Flit where
  dest : Nat
  age : Nat := 0
  promoted : Option Nat := none
  deriving DecidableEq, Repr

/-- One output port of a mesh router (spec 28, R441): the count w and the round-robin pointer per channel. -/
structure MeshPort where
  w : Nat := 0
  ptr : Tab Nat := []
  deriving DecidableEq, Repr

/-- One die (spec 10, R202, R206; 15, R271, R272; 17, R307, R308, R311; 26; 27; 28; 31). -/
structure Die where
  slots : Tab (Word × Word × Word × Word) := []
  hs : Nat := 0
  ops : Nat := 0
  regions : List Region := []
  lines : Tab HubLine := []
  dir : Tab DirEnt := []
  busy : Tab Busy := []
  /-- Requests that wait at the home for a line, in arrival order. -/
  waiting : List Msg := []
  /-- Hub operations held until the line arrives (spec 26, R416). -/
  held : List Msg := []
  tcache : List Trans := []
  tray : List TrayEnt := []
  pool : Tab (List Nat) := []
  queues : Tab Queue := []
  mailBase : Nat := 0
  seqSeen : Tab Nat := []
  mailLine : Tab Vec := []
  move : Option Move := none
  /-- Save areas that drills unbound on this die have written, by physical address (spec 31, R467). -/
  saves : List Nat := []
  failed : Bool := false
  /-- Records in its orphan log and frozen lines that found no place there (spec 26, R423). -/
  logged : Nat := 0
  logLost : Nat := 0
  /-- The hub's own throttle level, the level firmware has raised it to, and the greater of the two (spec 31, R466). -/
  hot : Nat := 0
  throttleMin : Nat := 0
  level : Nat := 0
  banks : Tab Bank := []
  /-- Whether boot training has loaded the retention filters (spec 27, R431). -/
  trained : Bool := false
  /-- The congestion level last reported (spec 27, R429). -/
  report : Nat := 0
  /-- Stacks that wait to be retrained, with the cycle of the request (spec 27, R435). -/
  retrain : Tab Nat := []
  /-- The riser under test (spec 27, R436). -/
  tester : Option Nat := none
  mesh : Tab (List Flit) := []
  ports : Tab MeshPort := []
  exhausted : Bool := false
  deriving DecidableEq, Repr

/-! ## The module -/

/-- A hub object: bed, launch, graph, phase or job (spec 10, R190, R191). -/
structure Obj where
  lvl : Nat
  job : Nat
  die : Nat
  gen : Nat := 0
  count : Nat := 0
  cancelled : Bool := false
  complete : Bool := false
  err : Bool := false
  stamp : Nat := 0
  /-- The bed's launch, the launch's graph, the graph's phase, the phase's job. -/
  up : Nat := 0
  /-- Launch: record address, its eight words, dependence list, whether released, phase object, DT for its drills. -/
  addr : Nat := 0
  words : List Word := []
  deps : List Word := []
  released : Bool := false
  phase : Nat := 0
  dt : Nat := 0
  /-- Bed: its index, its channels h8 to h27, and the drill indices that have been bound. -/
  index : Nat := 0
  bound : List Nat := []
  hoses : Tab (List Vec) := []
  /-- Drills of the graph that are live or saved (spec 10, R197). -/
  liveDrills : Nat := 0
  /-- Phase: destinations (count, device, die, raised), the line it holds. -/
  dests : List (Nat × Nat × Nat × Bool) := []
  line : Nat := 0
  root : Bool := false
  deriving DecidableEq, Repr

/-- A job as firmware sets it up (spec 17, R300; 23, R379; 15, R267; 24, R404, R406). -/
structure Job where
  ntbase : Nat := 0
  nb : Nat := 0
  szmask : Nat := 0
  hfmt : Nat := 0
  hroot : Word := 0
  pkeys : BitVec 32 := 0
  rootOk : Bool := false
  tvec : VAddr := 0
  ksbase : VAddr := 0
  kslim : VAddr := 0
  klbase : VAddr := 0
  kllim : VAddr := 0
  lease : Nat := 256
  quota : Nat := 0
  rootPhase : Nat := 0
  obj : Nat := 0
  snapGen : Nat := 0
  snapping : Option Nat := none
  replay : ReplayMode := .free
  logBase : Nat := 0
  logSize : Nat := 0
  logUsed : Nat := 0
  logAt : Nat := 0
  /-- Save areas that its unbound drills have written, by physical address. -/
  saves : List Nat := []
  /-- Records for which the ring had no place, and admissions counted per tile. -/
  logWait : List (Nat × Nat) := []
  ords : Tab Nat := []
  deriving DecidableEq, Repr

/-- A store to a shared-class line on its way to the hub (spec 15, R268). -/
structure PendStore where
  slot : Nat
  cl : Nat
  line : Nat
  bytes : BitVec 128
  data : Vec
  dt : Nat
  /-- A store of an engine operation raises PSTAMP but is not waited for until observed. -/
  engine : Bool := false
  psn : BitVec 4 := 0
  deriving DecidableEq, Repr

/-- An atomic sent to its point of coherence (spec 11, R231; 26, R418), or a pool access (spec 29, R452). `kind` 0 atomic, 1 pool load,
2 pool store, 3 a pool line for the engine operation of class `idx`; `op` by Table 11.10, 9 for CAS. -/
structure Remote where
  slot : Nat
  leaf : Bool
  /-- Element of the word, by number. -/
  idx : Nat := 0
  kind : Nat
  op : Nat := 0
  pa : Nat
  size : Nat := 8
  arg : Nat := 0
  cmp : Nat := 0
  /-- The die whose hub executes an atomic, and the DT it carries. -/
  hub : Nat := 0
  dt : Nat := 0
  /-- The stamp of its write and the wts of its read. -/
  stamp : Nat := 0
  wts : Nat := 0
  /-- The answer, once it is back: old value or loaded value, and poison. -/
  answer : Option (Nat × Bool) := none
  deriving DecidableEq, Repr

/-- A shootdown in progress (spec 17, R312; 26, R421). -/
structure Shoot where
  slot : Nat
  job : Nat
  lo : Nat
  len : Nat
  scope : Nat
  await : List Nat := []
  /-- Stores of the job that were on their way when the translations were removed. -/
  stores : List Nat := []
  deriving DecidableEq, Repr

/-- An event that hardware posts to the Gardener, the job or the host. -/
inductive Notice where
  /-- spec 10, R203. -/
  | bindError (slot : Nat)
  | slotFree (slot : Nat)
  /-- spec 10, R209. -/
  | signallerUnmapped (die q : Nat)
  /-- spec 15, R269. -/
  | stampExhaustion (die : Nat)
  /-- spec 17, R311, R314. -/
  | poolEmpty (die size : Nat)
  | benchWriteBack (core idx : Nat)
  /-- spec 18, R336. -/
  | yielded (slot : Nat)
  /-- spec 23, R387. -/
  | firmwareCall (slot : Nat) (code : Word)
  | doubleFault (slot : Nat) (cause : BitVec 32) (tval : Word)
  /-- spec 24, R407. -/
  | replayDivergence (slot : Nat)
  /-- spec 27, R432, R435, R436. -/
  | weakRow (die chan bank row : Nat)
  | bankDegraded (die chan bank : Nat)
  | deadlineMissed (die stack : Nat)
  | riserFailed (die riser : Nat)
  /-- spec 29, R448, R454, R457. -/
  | hostTimeout (line : Nat)
  | poolFailed (win : Nat)
  | queueHalt (die q err : Nat)
  | mailbox (die pair : Nat)
  /-- spec 29, R450, R447: data or an acknowledgement given to the host. -/
  | toHost (line : Nat) (data : Vec) (psn : BitVec 4)
  /-- spec 29, R448: a back-invalidation sent to the host, `kind` 0 BISnpInv, 1 BISnpData. -/
  | biSnp (line kind : Nat)
  /-- spec 29, R449: a device request to the host, `kind` 0 RdShared, 1 RdOwn, 2 DirtyEvict, 3 CleanEvictNoData. -/
  | toHostReq (line kind : Nat) (data : Vec)
  /-- spec 29, R452: an access sent to a pool device. -/
  | toPool (win pa kind : Nat)
  /-- spec 29, R460. -/
  | spdm (port : Nat) (answer : Word)
  /-- spec 26, R424: an arrival or a transfer sent to another device. -/
  | toDevice (dev die dest : Nat)
  | xferSent (dev addr len : Nat)
  /-- spec 24, R404. -/
  | snapshotDone (job gen : Nat)
  deriving DecidableEq, Repr

/-- Management registers (spec 31, Table 31.3), those whose reset is not zero at that value, and the host addresses at which the two HDM decoders
begin, which the host programs (spec 29, R446). -/
structure Mgmt where
  bstat : BitVec 32 := 0
  temp : BitVec 32 := 0
  pcap : BitVec 32 := 0x960
  hbmrate : BitVec 32 := 0
  cec : Word := 0
  uec : Word := 0
  olbase : Tab Word := []
  olcap : Tab (BitVec 32) := []
  pwin : Tab Word := []
  dbgaddr : Word := 0
  dbgctl : BitVec 32 := 0
  dbgdata : BitVec 256 := 0
  dbgbusy : Bool := false
  hdm0 : Nat := 0
  hdm1 : Nat := 0x10000000000
  deriving DecidableEq, Repr

/-- Who moves next. -/
inductive Turn where
  /-- The stem or leaf stream of the drill in a slot issues. -/
  | stem (slot : Nat)
  | leaf (slot : Nat)
  /-- The oldest message in flight arrives. -/
  | event
  /-- A step of the hub, an engine, firmware, the host or the environment. -/
  | input (i : Instr)
  deriving DecidableEq, Repr

/-- The state of the module. -/
structure State where
  drills : Tab Drill := []
  cores : Tab CoreSt := []
  clusters : Tab Cluster := []
  dies : Tab Die := []
  jobs : Tab Job := []
  objs : Tab Obj := []
  /-- Generation of each hub entry that has been used (spec 10, R191). -/
  gens : Tab Nat := []
  /-- Phase lines in use, by line number, with the phase object (spec 10, R201). -/
  lines : Tab Nat := []
  /-- Physical memory: HBM, canopy, host and pool bytes (spec 17, Table 17.1), and poisoned sectors by number. -/
  mem : List Host.Cell := []
  psn : List Nat := []
  stores : Tab PendStore := []
  remotes : Tab Remote := []
  shoots : Tab Shoot := []
  nextId : Nat := 0
  mgmt : Mgmt := {}
  /-- CXL ports and external Hokux ports that are up (spec 24, R399; 29, R455). -/
  cxlUp : List Nat := []
  hokuxUp : List Nat := []
  /-- Lost parts (spec 24, R405). -/
  lostParts : List Part := []
  /-- Directory of the device towards the host: lines it holds M or E in host memory (spec 29, R449). -/
  hostSide : Tab LineSt := []
  notices : List Notice := []
  /-- The model's own: who moves next, messages in flight, index of free values, cycles, the slot whose word runs. -/
  sched : List Turn := []
  agenda : List Msg := []
  tick : Nat := 0
  cycle : Nat := 0
  cur : Nat := 0
  deriving DecidableEq, Repr

/-- Why the machine stops. -/
inductive Fault where
  /-- Raised by an event that names bytes which Table 17.1 gives no address: an incoming transfer (spec 26, R424) from
  another device to such an address. Safe: the spec gives such bytes no place. -/
  | absentAddress
  deriving DecidableEq, Repr

/-- Why a step has no meaning in the model. -/
inductive Refusal where
  /-- Raised by Dispatch only, for an instruction without a meaning. Safe: nothing is claimed of it. -/
  | notModelled (mnemonic : String)
  deriving DecidableEq, Repr

/-- The module at power-good, before the boot ROM runs (spec 31, R462): no drill bound, no job known, memories and
caches with nothing listed, every register at its reset value. -/
def State.reset : State := {}

end Sys2Proof.Machine
end

