-- ==== Sys2Proof/Machine/Ops.lean ====
section
/-!
DEFINITION. The named operations over the state: parts of the module, registers, lanes, bytes, hoses, lookahead windows, messages,
and taking an exception (spec 23, R381) with its return state. -/
namespace Sys2Proof.Machine

/-! ## Places (spec 00, R1; spec 10, R202): slot = ((die * 4 + cluster) * 48 + core) * 16 + context -/

def coreOf (slot : Nat) : Nat := slot / 16
def ctxOf (slot : Nat) : Nat := slot % 16
def clusterOfCore (core : Nat) : Nat := core / 48
def clusterOf (slot : Nat) : Nat := slot / 768
def dieOfCl (cl : Nat) : Nat := cl / 4
def dieOf (slot : Nat) : Nat := slot / 3072
/-- Cores 2i and 2i+1 of a cluster are a twin pair (spec 00, R2). -/
def leaderOf (core : Nat) : Nat := core / 2 * 2

/-! ## Parts of the module -/

def drillAt (s : State) (slot : Nat) : Option Drill := tabFind s.drills slot
def putDrill (s : State) (slot : Nat) (d : Drill) : State := { s with drills := tabPut s.drills slot d }
/-- The drill of a slot changed by f, where one is bound. -/
def onDrill (s : State) (slot : Nat) (f : Drill → Drill) : State :=
  match drillAt s slot with
  | some d => putDrill s slot (f d)
  | none => s
def coreAt (s : State) (c : Nat) : CoreSt := tabGet {} s.cores c
def putCore (s : State) (c : Nat) (x : CoreSt) : State := { s with cores := tabSet {} s.cores c x }
def onCore (s : State) (c : Nat) (f : CoreSt → CoreSt) : State := putCore s c (f (coreAt s c))
def clAt (s : State) (c : Nat) : Cluster := tabGet {} s.clusters c
def putCl (s : State) (c : Nat) (x : Cluster) : State := { s with clusters := tabSet {} s.clusters c x }
def onCl (s : State) (c : Nat) (f : Cluster → Cluster) : State := putCl s c (f (clAt s c))
def dieAt (s : State) (d : Nat) : Die := tabGet {} s.dies d
def putDie (s : State) (d : Nat) (x : Die) : State := { s with dies := tabSet {} s.dies d x }
def onDie (s : State) (d : Nat) (f : Die → Die) : State := putDie s d (f (dieAt s d))
def jobAt (s : State) (j : Nat) : Job := tabGet {} s.jobs j
def onJob (s : State) (j : Nat) (f : Job → Job) : State := { s with jobs := tabPut s.jobs j (f (jobAt s j)) }
def objAt (s : State) (i : Nat) : Option Obj := tabFind s.objs i
def onObj (s : State) (i : Nat) (f : Obj → Obj) : State :=
  match objAt s i with
  | some o => { s with objs := tabPut s.objs i (f o) }
  | none => s

/-! ## Messages -/

/-- A message sent: it arrives as the event it is. A message equal to one in flight is not sent twice. -/
def post (s : State) (i : Msg) : State := if i ∈ s.agenda then s else { s with agenda := s.agenda ++ [i] }
def postAll (s : State) (l : List Msg) : State := l.foldl post s
/-- An event posted to the Gardener, a job or the host. -/
def notify (s : State) (n : Notice) : State := { s with notices := s.notices ++ [n] }

/-! ## Bytes, lanes and lines -/

/-- n fields of w bits, field i given by f i. -/
def packFields (w : Nat) (f : Nat → Nat) (n : Nat) : Nat :=
  match n with
  | 0 => 0
  | m + 1 => packFields w f m + (f m % 2 ^ w) * 2 ^ (w * m)

/-- Lane l of a vector register (spec 01, R22). -/
def lane (v : Vec) (l : Nat) : Nat := bitsOf v.toNat (32 * l) 32
/-- The vector whose lane l is f l. -/
def vecOfLanes (f : Nat → Nat) : Vec := BitVec.ofNat 1024 (packFields 32 f 32)
/-- Byte i of a line. -/
def lineByte (v : Vec) (i : Nat) : Nat := bitsOf v.toNat (8 * i) 8
/-- The line whose byte i is f i. -/
def vecOfBytes (f : Nat → Nat) : Vec := BitVec.ofNat 1024 (packFields 8 f 128)
/-- The bytes of `new` where the mask is set, of `old` elsewhere. -/
def mergeBytes (m : BitVec 128) (new old : Vec) : Vec := vecOfBytes (fun i => if bitOf m.toNat i then lineByte new i else lineByte old i)
/-- The byte mask of n bytes from offset o of a line. -/
def byteMask (o n : Nat) : BitVec 128 := BitVec.ofNat 128 ((2 ^ n - 1) * 2 ^ o)
/-- Lane l set in a mask. -/
def inMask (m : LaneMask) (l : Nat) : Bool := bitOf m.toNat l
/-- The active lanes, ascending (spec 00, R10). -/
def lanesOf (m : LaneMask) : List Nat := (below 32).filter (inMask m)
/-- The mask of the lanes that satisfy p. -/
def maskOf (p : Nat → Bool) : LaneMask := BitVec.ofNat 32 (packFields 1 (fun l => if p l then 1 else 0) 32)

/-- n bytes at address a, little-endian (spec 00, R5). -/
def cellsRead (m : List Host.Cell) (a n : Nat) : Nat := packFields 8 (fun i => (tabGet 0 m (a + i)).toNat) n
/-- n bytes of x stored at address a, little-endian. -/
def cellsWrite (m : List Host.Cell) (a n x : Nat) : List Host.Cell :=
  match n with
  | 0 => m
  | k + 1 => cellsWrite (tabSet 0 m a (BitVec.ofNat 8 x)) (a + 1) k (x / 256)
/-- The canonical form of a memory: addresses strictly rising, no entry equal to what an unlisted address reads as. -/
def Memory.wf (m : List Host.Cell) : Bool := tabRises none m && m.all (fun c => c.2 != 0)

/-! ## Registers -/

/-- gN, with g0 reading zero (spec 01, R21). -/
def gGet (d : Drill) (r : Nat) : Word := if r = 0 then 0 else tabGet 0 d.g r
/-- gN written; g0 discards (spec 01, R21). -/
def gPut (d : Drill) (r : Nat) (x : Word) : Drill := if r = 0 then d else { d with g := tabSet 0 d.g r x }
/-- The leaf context that issues: the supervisor's own at supervisor level (spec 23, R382). -/
def leafCtx (d : Drill) : LeafCtx := if d.super then d.sup else d.user
def onLeaf (d : Drill) (f : LeafCtx → LeafCtx) : Drill := if d.super then { d with sup := f d.sup } else { d with user := f d.user }
def sGet (c : LeafCtx) (r : Nat) : Word := if r = 0 then 0 else tabGet 0 c.s r
def sPut (c : LeafCtx) (r : Nat) (x : Word) : LeafCtx := if r = 0 then c else { c with s := tabSet 0 c.s r x }
def splitAt (c : LeafCtx) (i : Nat) : SplitEntry := tabGet {} c.splits i
def putSplit (c : LeafCtx) (i : Nat) (e : SplitEntry) : LeafCtx := { c with splits := tabSet {} c.splits i e }
/-- The running entry (spec 09, R175). -/
def runSplit (c : LeafCtx) : SplitEntry := splitAt c c.run
/-- k register as a source: k0 reads EM (spec 01, R24). -/
def kGet (d : Drill) (r : Nat) : LaneMask := if r = 0 then (runSplit (leafCtx d)).em else tabGet 0 d.k r
/-- k register written; k0 discards (spec 01, R24). -/
def kPut (d : Drill) (r : Nat) (x : LaneMask) : Drill := if r = 0 then d else { d with k := tabSet 0 d.k r x }
/-- Effective mask EM AND k_m; EM when m = 0 (spec 01, R24). -/
def effMask (d : Drill) (m : Nat) : LaneMask := if m = 0 then (runSplit (leafCtx d)).em else (runSplit (leafCtx d)).em &&& tabGet 0 d.k m
def vBase (d : Drill) (r : Nat) : Vec := tabGet 0 d.v r
/-- Lanes of m of vN written from x, the other lanes kept (spec 07, R138). -/
def vPutBase (d : Drill) (r : Nat) (m : LaneMask) (x : Vec) : Drill :=
  { d with v := tabSet 0 d.v r (vecOfLanes (fun l => if inMask m l then lane x l else lane (vBase d r) l)) }
/-- Whether a routine runs: some entry is not free (spec 09, R178). -/
def routineRuns (c : LeafCtx) : Bool := c.splits.any (fun e => decide (e.2.state ≠ 0))
/-- LQSTAT of a context (spec 01, R27). -/
def lqstat (c : LeafCtx) : Nat := c.queue.length + (if routineRuns c then 8 else 0)
/-- Outstanding-operation counter of a class (spec 01, Table 1.3). -/
def ocGet (d : Drill) (cls : Nat) : Nat := tabGet 0 d.oc cls
def ocPut (d : Drill) (cls n : Nat) : Drill := { d with oc := tabSet 0 d.oc cls n }
/-- Sticky flags ORed into FMODE (spec 01, R28; 05, R93): bit 0 NV, 1 DZ, 2 OF, 3 UF, 4 NX, 5 SATF, 6 TR, 7 QP. -/
def orFlags (d : Drill) (f : BitVec 8) : Drill := { d with fmode := d.fmode ||| (BitVec.ofNat 32 (f.toNat * 65536)) }

/-! ## Lookahead windows (spec 01, R31 to R34) -/

/-- The result of a pending write enters its register. -/
def commitOne (d : Drill) (p : PendWrite) : Drill :=
  if p.kind = 0 then gPut d p.reg (p.value.setWidth 64)
  else if p.kind = 1 then vPutBase d p.reg p.lanes p.value
  else onLeaf d (fun c => sPut c p.reg (p.value.setWidth 64))
/-- Every pending write that satisfies p enters its register; the others stay. -/
def commitWhere (d : Drill) (p : PendWrite → Bool) : Drill :=
  let d' := (d.wins.filter p).foldl commitOne d
  { d' with wins := d.wins.filter (fun w => !p w) }
/-- All windows close, as at a trap (spec 01, R34; 06, R112). -/
def commitAll (d : Drill) : Drill := commitWhere d (fun _ => true)
/-- A window of a stream: the stem's, or the leaf's for a split. -/
def winOf (leaf : Bool) (split : Nat) (p : PendWrite) : Bool := if leaf then decide (p.kind ≠ 0 ∧ p.owner = split) else decide (p.kind = 0)
/-- One word of a stream has issued: its windows run down, those that end commit, and all commit at a word that can transfer
control (spec 01, R31). Windows opened by the word itself are in `opened`. -/
def passWord (d : Drill) (leaf : Bool) (split : Nat) (ctl : Bool) (opened : List PendWrite) : Drill :=
  let d1 := if ctl then commitWhere d (winOf leaf split) else commitWhere d (fun p => winOf leaf split p && decide (p.left ≤ 1))
  let dec := d1.wins.map (fun p => if winOf leaf split p then { p with left := p.left - 1 } else p)
  let held := if d1.preempt.isSome && !(d.wins.filter (winOf leaf split)).isEmpty then d1.heldIssues + 1 else d1.heldIssues
  { d1 with wins := dec ++ opened, heldIssues := held }
/-- A stem register write by a word: discarded inside a window that writes the same register (spec 01, R32). -/
def gWrite (d : Drill) (r : Nat) (x : Word) : Drill :=
  if d.wins.any (fun p => decide (p.kind = 0 ∧ p.reg = r)) then d else gPut d r x
/-- A leaf scalar write by a split: as gWrite within its own window; another split's pending write enters first (spec 09, R184). -/
def sWrite (d : Drill) (split r : Nat) (x : Word) : Drill :=
  if d.wins.any (fun p => decide (p.kind = 2 ∧ p.reg = r ∧ p.owner = split)) then d
  else onLeaf (commitWhere d (fun p => decide (p.kind = 2 ∧ p.reg = r))) (fun c => sPut c r x)
/-- Lanes of a vector register written by a split, by the same rules, lane by lane. -/
def vWrite (d : Drill) (split r : Nat) (m : LaneMask) (x : Vec) : Drill :=
  let own := (d.wins.filter (fun p => decide (p.kind = 1 ∧ p.reg = r ∧ p.owner = split))).foldl (fun a p => a ||| p.lanes) (0 : LaneMask)
  vPutBase (commitWhere d (fun p => decide (p.kind = 1 ∧ p.reg = r ∧ p.owner ≠ split))) r (m &&& ~~~own) x
/-- A vector register as a split reads it: the value before its own open windows, the results of the others (spec 09, R184). -/
def vRead (d : Drill) (split r : Nat) : Vec :=
  (d.wins.filter (fun p => decide (p.kind = 1 ∧ p.reg = r ∧ p.owner ≠ split))).foldl
    (fun x p => vecOfLanes (fun l => if inMask p.lanes l then lane p.value l else lane x l)) (vBase d r)
/-- A leaf scalar as a split reads it. -/
def sRead (d : Drill) (split r : Nat) : Word :=
  match (d.wins.filter (fun p => decide (p.kind = 2 ∧ p.reg = r ∧ p.owner ≠ split))).getLast? with
  | some p => if r = 0 then 0 else p.value.setWidth 64
  | none => sGet (leafCtx d) r

/-! ## Hoses (spec 11, R216 to R221) -/

/-- Places of a hose (spec 11, Table 11.1). -/
def hoseDepth (h : Nat) : Nat := if h < 8 then 8 else if h < 16 then 16 else 4
/-- Whether a hose is a channel of the bed. -/
def bedHose (h : Nat) : Bool := decide (8 ≤ h ∧ h < 28)
/-- The queue of a hose as a drill names it, oldest first. -/
def hoseQ (s : State) (d : Drill) (h : Nat) : List Vec :=
  if bedHose h then (match objAt s d.bed with | some o => tabGet [] o.hoses h | none => []) else tabGet [] d.hoses h
/-- The queue of a hose replaced. -/
def hosePut (s : State) (slot h : Nat) (q : List Vec) : State :=
  match drillAt s slot with
  | none => s
  | some d => if bedHose h then onObj s d.bed (fun o => { o with hoses := tabSet [] o.hoses h q }) else putDrill s slot { d with hoses := tabSet [] d.hoses h q }
/-- HMAP code of a hose (spec 11, R217). -/
def hoseCode (d : Drill) (h : Nat) : Nat := bitsOf d.hmap.toNat (2 * h) 2
/-- Whether the code grants a push or a pop to a stream (spec 11, Table 11.2). -/
def hoseGrants (d : Drill) (leaf push : Bool) (h : Nat) : Bool :=
  let c := hoseCode d h
  if h < 8 then (if leaf = push then bitOf c 1 else bitOf c 0) else if push then bitOf c 0 else bitOf c 1
/-- The slots of the drills that can name a hose of this drill. -/
def hoseSharers (s : State) (slot h : Nat) : List Nat :=
  match drillAt s slot with
  | none => []
  | some d => if bedHose h then (s.drills.filter (fun e => decide (e.2.bed = d.bed))).map (·.1) else [slot]
/-- Words parked on hoses are tested again when a hose gains or loses an entry (spec 11, R220). -/
def hoseRetest (s : State) (slot h : Nat) : State :=
  (hoseSharers s slot h).foldl (fun t k =>
    match drillAt t k with
    | none => t
    | some d =>
      let t1 := if d.stemWait = .hose then post t (.parkedWordRetest k false) else t
      if d.leafWait = .hose then post t1 (.parkedWordRetest k true) else t1)
    (if 28 ≤ h ∧ ((clAt s (clusterOf slot)).engines.any (fun e => e.2.any (fun c => decide (c.slot = slot ∧ c.cls = 0)))) then post s (.copyRetire slot 0) else s)
/-- The oldest entries of a hose leave, one per pop. -/
def hosePop (s : State) (slot h n : Nat) : State :=
  match drillAt s slot with
  | none => s
  | some d => if n = 0 then s else hoseRetest (hosePut s slot h ((hoseQ s d h).drop n)) slot h
/-- An entry enters a hose at its tail. -/
def hosePush (s : State) (slot h : Nat) (x : Vec) : State :=
  match drillAt s slot with
  | none => s
  | some d => hoseRetest (hosePut s slot h (hoseQ s d h ++ [x])) slot h
/-- How often a hose stands in a list. -/
def countOf (l : List Nat) (h : Nat) : Nat := (l.filter (fun x => decide (x = h))).length
/-- Whether a word in progress of another stream holds the head of a hose. -/
def hoseClaimed (s : State) (slot : Nat) (leaf : Bool) (h : Nat) : Bool :=
  (hoseSharers s slot h).any (fun k => match drillAt s k with
    | some e => e.claims.any (fun c => decide (c.2 = h ∧ (k ≠ slot ∨ c.1 ≠ leaf)))
    | none => false)
/-- Whether every hose popped holds what is popped and every hose pushed has room, on the hoses before the word
(spec 02, R38; 03, R59). -/
def hosesReady (s : State) (slot : Nat) (leaf : Bool) (d : Drill) (pops pushes : List Nat) : Bool :=
  pops.all (fun h => decide (countOf pops h ≤ (hoseQ s d h).length) && !hoseClaimed s slot leaf h) &&
  pushes.all (fun h => decide ((hoseQ s d h).length + countOf pushes h ≤ hoseDepth h))
/-- The first hose of a word whose code does not grant the direction (spec 11, R218). -/
def hoseDenied (d : Drill) (leaf : Bool) (pops pushes : List Nat) : Option Nat :=
  match pops.find? (fun h => !hoseGrants d leaf false h) with
  | some h => some h
  | none => pushes.find? (fun h => !hoseGrants d leaf true h)
/-- Every pop of a word, then every push (spec 02, R38). -/
def hoseMoves (s : State) (slot : Nat) (pops : List Nat) (pushes : List (Nat × Vec)) : State :=
  pushes.foldl (fun t p => hosePush t slot p.1 p.2) (pops.foldl (fun t h => hosePop t slot h 1) s)

/-! ## Taking an exception (spec 23, R381) -/

/-- WKIND of a parked stem (spec 23, R386). -/
def wkindOf (w : Wait) : Nat :=
  match w with
  | .hose => 1
  | .barw .. => 2
  | .xyield .. => 3
  | .phwait _ => 4
  | .pool .. => 5
  | _ => 0

/-- Streams that wait on something p accepts issue again. -/
def wake (s : State) (p : Wait → Bool) : State :=
  { s with drills := s.drills.map (fun e => (e.1, { e.2 with
      stemWait := (if p e.2.stemWait then .none else e.2.stemWait), leafWait := (if p e.2.leafWait then .none else e.2.leafWait) })) }
/-- Words that wait for an access or for a line. -/
def onAccess (w : Wait) : Bool := match w with | .access => true | .line => true | _ => false
def onLine (w : Wait) : Bool := match w with | .line => true | _ => false
def onWalk (w : Wait) : Bool := match w with | .walk => true | _ => false

/-- The words in progress of a drill are withdrawn: its accesses leave the front, and what they hold is released. -/
def withdraw (s : State) (slot : Nat) : State :=
  match drillAt s slot with
  | none => s
  | some d =>
    let s0 := putDrill { s with shoots := s.shoots.filter (fun x => decide (x.2.slot ≠ slot)) } slot { d with asked := [], granted := [], got := [], claims := [] }
    let s1 := onCore s0 (coreOf slot) (fun c => { c with queue := c.queue.filter (fun a => decide (a.slot ≠ slot)) })
    let s2 := onCl s1 (clusterOf slot) (fun c => { c with order := c.order.filter (fun a => decide (a.1 ≠ slot)) })
    (d.claims.map (·.2)).foldl (fun t h => hoseRetest t slot h) (if d.asked.isEmpty then s2 else wake s2 onAccess)

/-- Steps 1 and 2 of R381: no word of the drill is half performed, the twin and matrix waits of R358 and the stamps of R284 are over, and no
atomic of the drill is under way. -/
def trapClear (s : State) (slot : Nat) (d : Drill) : Bool :=
  let core := coreOf slot
  (!d.twin || (coreAt s core).mq.all (fun m => !(m.twinHalf || bitOf m.word.imm.toNat 31)))
  && (coreAt s core).mq.all (fun m => decide (m.slot ≠ slot) || m.twinHalf)
  && s.stores.all (fun p => decide (p.2.slot ≠ slot) || p.2.engine)
  && s.remotes.all (fun r => decide (r.2.slot ≠ slot ∨ 1 < r.2.kind))
  && d.got.all (fun g => !g.wrote)

/-- Steps 1 and 3 to 5 of R381: windows commit, DT rises (R284), the trap registers are written, the level becomes supervisor with
an empty leaf context, the user context is held, and the stem goes to TVEC. -/
def enterTrap (s : State) (slot : Nat) (t : TrapInfo) (extra : BitVec 32) : State :=
  match drillAt s slot with
  | none => s
  | some d =>
    let d := commitAll d
    let woken := match d.stemWait with | .barw _ _ _ (some _) => true | _ => false
    let kind := if d.wake then d.wkind.toNat else wkindOf d.stemWait
    let stat := (if d.super then 1 else 0) + (if woken || d.wake then 256 else 0) + kind * 512
    let s := withdraw s slot
    let d := { d with asked := [], granted := [], got := [], claims := [] }
    (putDrill s slot { d with
      dt := max d.dt (max d.pstamp d.lstamp), tcause := t.cause, tval := t.tval, tmask := t.tmask, tea := t.tea,
      tepc := t.epc.setWidth 64, tstat := BitVec.ofNat 32 stat ||| extra, super := true, sup := {}, pc := (jobAt s d.job).tvec,
      stemWait := .none, leafWait := .none, walked := [], due := none, wake := false, wkind := 0, woke := none, yields := [] })

/-- A trap falls due: at user level it is taken when step 2 allows; at supervisor level a precise fault is a double fault that
halts the drill with its state kept (spec 23, R387). -/
def raise (s : State) (slot : Nat) (t : TrapInfo) : State :=
  match drillAt s slot with
  | none => s
  | some d =>
    if d.super then notify (putDrill s slot { d with stemWait := .halted false, leafWait := .halted false }) (.doubleFault slot t.cause t.tval)
    else if trapClear s slot d then enterTrap s slot t 0
    else if d.got.all (fun g => !g.wrote) then onDrill (withdraw s slot) slot (fun e => { e with due := some t })
    else putDrill s slot { d with due := some t }

/-- A trap that has fallen due is taken once step 2 allows. -/
def settleTrap (s : State) (slot : Nat) : State :=
  match drillAt s slot with
  | none => s
  | some d =>
    match d.due with
    | none => s
    | some t => if trapClear s slot d then enterTrap s slot t 0 else s

/-- A cause word: code, with bit 30 for a leaf word (spec 23, R386). -/
def causeWord (leaf : Bool) (code : Nat) : BitVec 32 := BitVec.ofNat 32 (code + (if leaf then 2 ^ 30 else 0))

/-- A precise fault of the stem (spec 23, R381): TEPC is the faulting word. -/
def stemTrap (s : State) (slot code : Nat) (tval : Word) : State :=
  match drillAt s slot with
  | none => s
  | some d => raise s slot { cause := causeWord false code, tval, epc := d.pc }

/-- A precise fault of the leaf, with the failing lanes and their addresses (spec 23, R381). -/
def leafTrap (s : State) (slot code : Nat) (tval : Word) (m : LaneMask) (tea : Tab Word) : State :=
  match drillAt s slot with
  | none => s
  | some d => raise s slot { cause := causeWord true code, tval, tmask := m, tea, epc := d.pc }

/-! ## Cause codes (spec 23, Table 23.1) -/

def cIllegal : Nat := 0x01
def cPrivilege : Nat := 0x02
def cFetch : Nat := 0x03
def cAlign : Nat := 0x04
def cTranslation : Nat := 0x05
def cPermission : Nat := 0x06
def cKey : Nat := 0x07
def cBench : Nat := 0x08
def cSwizzle : Nat := 0x09
def cHose : Nat := 0x0A
def cBudget : Nat := 0x0B
def cSplitFull : Nat := 0x0C
def cCallDepth : Nat := 0x0D
def cHandle : Nat := 0x0E
def cLaunch : Nat := 0x0F
def cPhaseHeader : Nat := 0x10
def cPhaseError : Nat := 0x11
def cCloche : Nat := 0x12
def cCopy : Nat := 0x13
def cIndex : Nat := 0x14
def cTwin : Nat := 0x15
def cEspSave : Nat := 0x16
def cClSave : Nat := 0x17
def cPoison : Nat := 0x18
def cMatrix : Nat := 0x20
def cTrap : Nat := 0x30
def cPreempt : Nat := 0x38
def cRestore : Nat := 0x39

end Sys2Proof.Machine
end

