-- ==== Sys2Proof/Machine/Float.lean ====
section
/-!
DEFINITION. The number formats of spec 05 to the bit: exact values, RoundTo and its helpers, conversions, block scales, and the exact
sums (R87 to R108). Flags are a number with bit 0 NV, 1 DZ, 2 OF, 3 UF, 4 NX, 5 SATF, 6 TR, 7 QP (Table 5.3, [23:16]). -/
namespace Sys2Proof.Machine

/-- A floating-point format: width, precision p, exponent bits and bias (spec 05, Table 5.2). -/
structure Fmt where
  bits : Nat
  p : Nat
  eb : Nat
  bias : Nat
  deriving DecidableEq, Repr

def fmtF16 : Fmt := { bits := 16, p := 11, eb := 5, bias := 15 }
def fmtBf16 : Fmt := { bits := 16, p := 8, eb := 8, bias := 127 }
def fmtF32 : Fmt := { bits := 32, p := 24, eb := 8, bias := 127 }
def fmtF64 : Fmt := { bits := 64, p := 53, eb := 11, bias := 1023 }
/-- The format of a type code of class F (spec 03, Table 3.2). -/
def fmtOf (ty : Nat) : Fmt := if ty = 9 then fmtF16 else if ty = 10 then fmtBf16 else if ty = 12 then fmtF64 else fmtF32
/-- emin of a format. -/
def eminOf (f : Fmt) : Int := 1 - (f.bias : Int)

def flNV : Nat := 1
def flDZ : Nat := 2
def flOF : Nat := 4
def flUF : Nat := 8
def flNX : Nat := 16
def flSATF : Nat := 32
def flTR : Nat := 64
def flQP : Nat := 128

/-- An exact value: a NaN with its sign, fraction and fraction width; an infinity; or ±m × 2^e (spec 05, R89). -/
inductive FVal where
  | nan (neg : Bool) (frac width : Nat)
  | inf (neg : Bool)
  | fin (neg : Bool) (m : Nat) (e : Int)
  deriving DecidableEq, Repr

/-- The value of the bits x in format f (spec 05, R89). -/
def unpack (f : Fmt) (x : Nat) : FVal :=
  let fw := f.p - 1
  let frac := bitsOf x 0 fw
  let ex := bitsOf x fw f.eb
  let neg := bitOf x (f.bits - 1)
  if ex = 2 ^ f.eb - 1 then (if frac = 0 then .inf neg else .nan neg frac fw)
  else if ex = 0 then .fin neg frac (eminOf f - (fw : Int))
  else .fin neg (2 ^ fw + frac) ((ex : Int) - (f.bias : Int) - (fw : Int))

def signBit (f : Fmt) (neg : Bool) : Nat := if neg then 2 ^ (f.bits - 1) else 0
/-- The canonical NaN (spec 05, Table 5.2). -/
def canonNaN (f : Fmt) : Nat := (2 ^ f.eb - 1) * 2 ^ (f.p - 1) + 2 ^ (f.p - 2)
def infBits (f : Fmt) (neg : Bool) : Nat := signBit f neg + (2 ^ f.eb - 1) * 2 ^ (f.p - 1)
def maxFinBits (f : Fmt) (neg : Bool) : Nat := signBit f neg + (2 ^ f.eb - 1) * 2 ^ (f.p - 1) - 1
def zeroBits (f : Fmt) (neg : Bool) : Nat := signBit f neg
def isNaN (v : FVal) : Bool := match v with | .nan .. => true | _ => false
/-- A NaN whose top fraction bit is clear (spec 05, R89). -/
def isSNaN (v : FVal) : Bool := match v with | .nan _ fr w => !bitOf fr (w - 1) | _ => false
def isZero (v : FVal) : Bool := match v with | .fin _ m _ => decide (m = 0) | _ => false
def isNeg (v : FVal) : Bool := match v with | .nan n _ _ => n | .inf n => n | .fin n _ _ => n

/-- A NaN in format f with its sign and payload kept, and quiet (spec 05, R90). -/
def nanBits (f : Fmt) (neg : Bool) (frac width : Nat) : Nat :=
  let fw := f.p - 1
  let pay := if fw ≤ width then frac >>> (width - fw) else frac <<< (fw - width)
  signBit f neg + (2 ^ f.eb - 1) * 2 ^ fw + (if bitOf pay (fw - 1) then pay else pay + 2 ^ (fw - 1))

/-- The first NaN among the inputs, or the canonical NaN where DNAN or the unit asks for it (spec 05, R90). NV is set by a
signalling NaN. -/
def nanResult (f : Fmt) (canon : Bool) (ins : List FVal) : Nat × Nat :=
  let nv := if ins.any isSNaN then flNV else 0
  match ins.find? isNaN with
  | some (.nan n fr w) => (if canon then canonNaN f else nanBits f n fr w, nv)
  | _ => (canonNaN f, nv)

/-- Mode(rm): a rounding code against the RM field of the governing FMODE (spec 05, R94). -/
def modeOf (rnd fm : Nat) : Nat := if rnd ≠ 0 then rnd else if fm % 8 = 0 then 1 else fm % 8

/-- Pick of the magnitude m × 2^s, plus a positive remainder below one unit of m where `sticky`: the integer magnitude and
whether it differs (spec 05, Table 5.4). Modes: 1 RNE, 2 RTZ, 3 RUP, 4 RDN, 5 RNA. -/
def pickShift (mode : Nat) (neg : Bool) (m : Nat) (s : Int) (sticky : Bool) : Nat × Bool :=
  let whole : Nat := if 0 ≤ s then m * 2 ^ s.toNat else if m.log2 + 2 < (-s).toNat then 0 else m / 2 ^ (-s).toNat
  -- the part below the unit: 0 none, 1 below half, 2 half, 3 above half
  let low : Nat :=
    if 0 ≤ s then (if sticky then 1 else 0)
    else if m.log2 + 2 < (-s).toNat then (if m = 0 ∧ !sticky then 0 else 1)
    else
      let k := (-s).toNat
      let r := m % 2 ^ k
      let half := 2 ^ (k - 1)
      if r = 0 ∧ !sticky then 0 else if r < half then 1 else if r = half ∧ !sticky then 2 else 3
  let up : Bool :=
    if mode = 1 then decide (low = 3) || (decide (low = 2) && decide (whole % 2 = 1))
    else if mode = 5 then decide (2 ≤ low)
    else if mode = 3 then !neg && decide (low ≠ 0)
    else if mode = 4 then neg && decide (low ≠ 0)
    else false
  (if up then whole + 1 else whole, decide (low ≠ 0))

/-- Overflow(x, fmt, m) (spec 05, R95). -/
def overflowBits (f : Fmt) (neg : Bool) (mode : Nat) : Nat :=
  if mode = 2 then maxFinBits f neg
  else if mode = 3 then (if neg then maxFinBits f neg else infBits f neg)
  else if mode = 4 then (if neg then infBits f neg else maxFinBits f neg)
  else infBits f neg

/-- RoundTo of the finite value ±(m + sticky) × 2^e into f: bits and flags (spec 05, R95). -/
def roundFin (f : Fmt) (mode : Nat) (ftz neg : Bool) (m : Nat) (e : Int) (sticky : Bool) : Nat × Nat :=
  if m = 0 ∧ !sticky then (zeroBits f neg, 0)
  else
    let lg : Int := (m.log2 : Int) + e
    let e0 := max lg (eminOf f)
    let q := e0 - (f.p : Int) + 1
    let (y, inexact) := pickShift mode neg m (e - q) sticky
    let (y', e1) := if y = 2 ^ f.p then (2 ^ (f.p - 1), e0 + 1) else (y, e0)
    if e1 > (f.bias : Int) then (overflowBits f neg mode, flOF ||| flNX)
    else
      let tiny := decide (lg < eminOf f)
      if tiny && ftz then (zeroBits f neg, flUF ||| flNX)
      else
        let bits := signBit f neg + (if y' < 2 ^ (f.p - 1) then y' else (e1 + (f.bias : Int)).toNat * 2 ^ (f.p - 1) + (y' - 2 ^ (f.p - 1)))
        (bits, if inexact then (if tiny then flNX ||| flUF else flNX) else 0)

/-- RoundTo of any exact value into f (spec 05, R95); a NaN becomes that of R90. -/
def roundVal (f : Fmt) (mode : Nat) (ftz canon : Bool) (v : FVal) : Nat × Nat :=
  match v with
  | .nan .. => nanResult f canon [v]
  | .inf n => (infBits f n, 0)
  | .fin n m e => roundFin f mode ftz n m e false

/-- ±m × 2^e as an integer multiple of 2^lo, for lo at most e. -/
def scaledInt (neg : Bool) (m : Nat) (e lo : Int) : Int := (if neg then -1 else 1) * ((m * 2 ^ (e - lo).toNat : Nat) : Int)

/-- The product of two values; `none` for 0 × ∞ (spec 05, R90, R96). NaNs are the caller's. -/
def mulVal (a b : FVal) : Option FVal :=
  match a, b with
  | .fin n m e, .fin n' m' e' => some (.fin (n != n') (m * m') (e + e'))
  | .inf n, .inf n' => some (.inf (n != n'))
  | .inf n, .fin n' m' _ => if m' = 0 then none else some (.inf (n != n'))
  | .fin n m _, .inf n' => if m = 0 then none else some (.inf (n != n'))
  | _, _ => some (.fin false 0 0)

/-- The exact sum of terms (`none` is an invalid product): none where it is invalid; an exact zero has the sign of R96. -/
def exactSum (mode : Nat) (terms : List (Option FVal)) : Option FVal :=
  let vals := terms.filterMap id
  let posInf := vals.any (fun v => decide (v = .inf false))
  let negInf := vals.any (fun v => decide (v = .inf true))
  if terms.any (fun t => t.isNone) || (posInf && negInf) then none
  else if posInf then some (.inf false)
  else if negInf then some (.inf true)
  else
    let lo : Int := vals.foldl (fun a v => match v with | .fin _ m e => if m = 0 then a else min a e | _ => a) 0
    let sum : Int := vals.foldl (fun a v => match v with | .fin n m e => if m = 0 then a else a + scaledInt n m e lo | _ => a) 0
    if sum = 0 then
      let anyPos := vals.any (fun v => !isNeg v)
      let anyNeg := vals.any isNeg
      some (.fin (anyNeg && (!anyPos || decide (mode = 4))) 0 0)
    else some (.fin (decide (sum < 0)) sum.natAbs lo)
/-- One exact value rounded once: the inputs in NaN order, the value (`none` is an invalid one), and the format's rounding
(spec 05, R90, R95, R96, R103). -/
def valueRound (f : Fmt) (mode : Nat) (ftz canon : Bool) (ins : List FVal) (x : Option FVal) : Nat × Nat :=
  if ins.any isNaN then
    let r := nanResult f canon ins
    (r.1, r.2 ||| (if x.isNone then flNV else 0))
  else match x with
    | none => (canonNaN f, flNV)
    | some v => roundVal f mode ftz canon v
/-- One exact sum rounded once. -/
def sumRound (f : Fmt) (mode : Nat) (ftz canon : Bool) (ins : List FVal) (terms : List (Option FVal)) : Nat × Nat :=
  valueRound f mode ftz canon ins (exactSum mode terms)

def negVal (v : FVal) : FVal :=
  match v with
  | .nan n f w => .nan n f w
  | .inf n => .inf (!n)
  | .fin n m e => .fin (!n) m e

/-- DotFused(c, a, b, n, fmt, rm): one exact sum, rounded once, canonical NaNs (spec 05, R103). -/
def dotFused (f : Fmt) (mode : Nat) (c : FVal) (ab : List (FVal × FVal)) : Nat × Nat :=
  sumRound f mode false true (c :: ab.flatMap (fun p => [p.1, p.2])) (some c :: ab.map (fun p => mulVal p.1 p.2))

/-! ## Division, roots, powers -/

/-- The largest r below 2^n whose square is at most m. -/
def isqrt (n m : Nat) : Nat :=
  match n with
  | 0 => 0
  | k + 1 =>
    let hi := isqrt k (m / 4)
    if (2 * hi + 1) * (2 * hi + 1) ≤ m then 2 * hi + 1 else 2 * hi

/-- a ÷ b of two nonzero finite magnitudes: a mantissa with at least `bits` bits, its exponent, and whether a remainder is
left. -/
def divMag (bits ma : Nat) (ea : Int) (mb : Nat) (eb : Int) : Nat × Int × Bool :=
  let k := bits + mb.log2 + 1
  let n := ma * 2 ^ k
  (n / mb, ea - eb - (k : Int), decide (n % mb ≠ 0))

/-- √(m × 2^e). -/
def sqrtMag (bits m : Nat) (e : Int) : Nat × Int × Bool :=
  let k := 2 * bits + (if (e % 2) = 0 then 0 else 1)
  let x := m * 2 ^ k
  let r := isqrt (x.log2 / 2 + 1) x
  (r, (e - (k : Int)) / 2, decide (r * r ≠ x))

/-- 1 ÷ √(m × 2^e). -/
def rsqrtMag (bits m : Nat) (e : Int) : Nat × Int × Bool :=
  let (m', e') := if e % 2 = 0 then (m, e) else (2 * m, e - 1)
  let k := bits + m'.log2 + 1
  let x := 2 ^ (2 * k) / m'
  let r := isqrt (x.log2 / 2 + 1) x
  (r, -(e' / 2) - (k : Int), decide (r * r * m' ≠ 2 ^ (2 * k)))

/-- Bounds of 2^(W + f) for the fraction f whose bits, most significant first, are given: `c` is a lower bound of 2^(W + 2^-i), i
the place before the first bit. -/
def exp2Bounds (w : Nat) (bits : List Bool) (c lo hi : Nat) : Nat × Nat :=
  match bits with
  | [] => (lo, hi)
  | b :: r =>
    let c' := isqrt (w + 2) (c * 2 ^ w)
    if b then exp2Bounds w r c' (lo * c' / 2 ^ w) ((hi * (c' + 2) + 2 ^ w - 1) / 2 ^ w) else exp2Bounds w r c' lo hi

/-- The largest r below 2^n with r^(2^k) ≤ x. -/
def rootSearch (k x : Nat) (n : Nat) (base : Nat) : Nat :=
  match n with
  | 0 => base
  | j + 1 => if (base + 2 ^ j) ^ (2 ^ k) ≤ x then rootSearch k x j (base + 2 ^ j) else rootSearch k x j base

/-- ⌊2^(P + F / 2^k)⌋ for F below 2^k. Bounds of W bits decide it where they agree; the definition decides it otherwise. -/
def exp2Floor (p k fr : Nat) : Nat :=
  -- 1 < 2^f < 1 + f and 2^(1 - t) > 2 - 2t settle fractions within 2^-(p + 2) of 0 and of 1
  if p + 2 ≤ k ∧ fr * 2 ^ (p + 2) ≤ 2 ^ k then 2 ^ p
  else if p + 2 ≤ k ∧ (2 ^ k - fr) * 2 ^ (p + 2) ≤ 2 ^ k then 2 ^ (p + 1) - 1
  else
  let w := 3 * p + 2 * k.log2 + 64
  let bits := ((below k).map (fun i => bitOf fr (k - 1 - i))).take (2 * p + 32)
  let (lo, hi) := exp2Bounds w bits (2 ^ (w + 1)) (2 ^ w) (2 ^ w)
  -- bits of the fraction below those used raise the value by less than hi / 2^(2p + 32)
  let hi' := hi + (if 2 * p + 32 < k then hi / 2 ^ (2 * p + 32) + 1 else 0)
  if lo / 2 ^ (w - p) = hi' / 2 ^ (w - p) then lo / 2 ^ (w - p) else rootSearch k (2 ^ (p * 2 ^ k + fr)) (p + 1) 0

/-- 2^(±m × 2^e): mantissa, exponent, inexact (spec 07, R144). -/
def exp2Mag (bits : Nat) (neg : Bool) (m : Nat) (e : Int) : Nat × Int × Bool :=
  if 0 ≤ e then (1, (if neg then -1 else 1) * ((m * 2 ^ (min e 2000).toNat : Nat) : Int), false)
  else
    let k := (-e).toNat
    let v : Int := (if neg then -1 else 1) * (m : Int)
    let n : Int := v / (2 ^ k : Nat)
    let fr : Nat := (v % (2 ^ k : Nat)).toNat
    if fr = 0 then (1, n, false) else (exp2Floor bits k fr, n - (bits : Int), true)

/-- Bits of log2 of a number in [1, 2), from bounds with w fraction bits: `none` where the bounds do not decide. -/
def log2Bits (w : Nat) (q : Nat) (lo hi acc : Nat) : Option Nat :=
  match q with
  | 0 => some acc
  | k + 1 =>
    let lo2 := lo * lo / 2 ^ w
    let hi2 := (hi * hi + 2 ^ w - 1) / 2 ^ w
    if 2 ^ (w + 1) ≤ lo2 then log2Bits w k (lo2 / 2) ((hi2 + 1) / 2) (2 * acc + 1)
    else if hi2 < 2 ^ (w + 1) then log2Bits w k lo2 hi2 (2 * acc)
    else none

/-- ⌊2^q × log2(m × 2^e)⌋ for m above 0. -/
def log2Floor (q m : Nat) (e : Int) : Int :=
  let n := m.log2
  let w := 4 * q + n + 64
  let z := m * 2 ^ (w - n)
  match log2Bits w q z z 0 with
  | some t => ((n : Int) + e) * (2 ^ q : Nat) + (t : Int)
  | none => ((m ^ (2 ^ q)).log2 : Int) + e * (2 ^ q : Nat)

/-- log2(m × 2^e): sign, mantissa, exponent, inexact. -/
def log2Mag (bits m : Nat) (e : Int) : Bool × Nat × Int × Bool :=
  if m = 2 ^ m.log2 then
    let n : Int := (m.log2 : Int) + e
    (decide (n < 0), n.natAbs, 0, false)
  else
    let q := 2 * bits + 8
    let t := log2Floor q m e
    if 0 ≤ t then (false, t.toNat, -(q : Int), true) else (true, (-t - 1).toNat, -(q : Int), true)

/-! ## Conversions and integers -/

/-- Range of an integer type of w bits (spec 05, Table 5.1). -/
def intMin (signed : Bool) (w : Nat) : Int := if signed then -(2 ^ (w - 1) : Nat) else 0
def intMax (signed : Bool) (w : Nat) : Int := if signed then (2 ^ (w - 1) : Nat) - 1 else (2 ^ w : Nat) - 1
/-- SatTo(x, fmt): the clamped value and SATF (spec 05, R88). -/
def satTo (lo hi x : Int) : Int × Nat := if x < lo then (lo, flSATF) else if hi < x then (hi, flSATF) else (x, 0)
/-- RoundTo of a finite value to an integer: the integer and NX (spec 05, R95). -/
def roundInt (mode : Nat) (neg : Bool) (m : Nat) (e : Int) : Int × Nat :=
  let (y, ix) := pickShift mode neg m e false
  ((if neg then -1 else 1) * (y : Int), if ix then flNX else 0)
/-- Floating point to an integer type (spec 05, R98): the value and the flags. -/
def floatToInt (mode : Nat) (signed : Bool) (w : Nat) (v : FVal) : Int × Nat :=
  match v with
  | .nan .. => (0, flNV)
  | .inf n => (if n then intMin signed w else intMax signed w, flNV)
  | .fin n m e =>
    let (y, fl) := roundInt mode n m e
    if y < intMin signed w then (intMin signed w, flNV) else if intMax signed w < y then (intMax signed w, flNV) else (y, fl)
/-- An exact integer as a value. -/
def ofInt (x : Int) : FVal := .fin (decide (x < 0)) x.natAbs 0
/-- A T2 element: value and TR (spec 05, R99). -/
def t2Val (c : Nat) : Int × Nat := if c = 1 then (1, 0) else if c = 3 then (-1, 0) else if c = 2 then (0, flTR) else (0, 0)

/-! ## Block scales (spec 05, R100 to R102) -/

/-- ⌈log2(m × 2^e / 127)⌉ for m above 0, searched from ⌊log2⌋ downwards: the least integer t with m × 2^e ≤ 127 × 2^t. -/
def ceilLog2Over127 (m : Nat) (e : Int) : Int :=
  let fits (t : Int) : Bool := if 0 ≤ t - e then decide (m ≤ 127 * 2 ^ (t - e).toNat) else decide (m * 2 ^ (e - t).toNat ≤ 127)
  let top : Int := (m.log2 : Int) + e - 5
  if fits (top - 1) then top - 1 else if fits top then top else top + 1

/-- Whether |a| < |b| for finite values. -/
def magLt (a b : FVal) : Bool :=
  match a, b with
  | .fin _ m e, .fin _ m' e' => let lo := min e e'; decide (m * 2 ^ (e - lo).toNat < m' * 2 ^ (e' - lo).toNat)
  | _, _ => false

/-- E8Of(x, L): the scale and NV (spec 05, R101). -/
def e8Of (xs : List FVal) : Nat × Nat :=
  if xs.any (fun v => match v with | .fin .. => false | _ => true) then (255, flNV)
  else match xs.foldl (fun a v => if magLt a v then v else a) (.fin false 0 0) with
    | .fin _ m e => if m = 0 then (0, 0) else ((min (max (ceilLog2Over127 m e + 127) 1) 254).toNat, 0)
    | _ => (255, flNV)

/-- One element of Quant(x, L, E, rm): the element and flags (spec 05, R101). -/
def quantOne (mode e : Nat) (v : FVal) : Int × Nat :=
  if e = 0 ∨ e = 255 then (0, 0)
  else match v with
    | .fin n m ex =>
      let (y, fl) := roundInt mode n m (ex + 127 - (e : Int))
      let (z, sf) := satTo (-127) 127 y
      (z, fl ||| sf)
    | _ => (0, 0)

/-- Requant of one element from scale eo to en, both from 1 to 254 (spec 05, R102). -/
def requantOne (mode eo en : Nat) (q : Int) : Int × Nat :=
  let (y, fl) := roundInt mode (decide (q < 0)) q.natAbs ((eo : Int) - (en : Int))
  let (z, sf) := satTo (-127) 127 y
  (z, fl ||| sf)

/-! ## Comparisons -/

/-- a < b for values that are no NaN, with −0 equal to +0. -/
def valLt (a b : FVal) : Bool :=
  match a, b with
  | .inf n, .inf n' => n && !n'
  | .inf n, .fin .. => n
  | .fin .., .inf n => !n
  | .fin n m e, .fin n' m' e' => let lo := min e e'; decide (scaledInt n m e lo < scaledInt n' m' e' lo)
  | _, _ => false
/-- a = b for values that are no NaN, with −0 equal to +0. -/
def valEq (a b : FVal) : Bool := !isNaN a && !isNaN b && !valLt a b && !valLt b a

/-- A subnormal input read under DAZ (spec 05, R91). -/
def dazVal (f : Fmt) (daz : Bool) (x : Nat) : FVal :=
  if daz ∧ bitsOf x (f.p - 1) f.eb = 0 then .fin (bitOf x (f.bits - 1)) 0 0 else unpack f x

/-- VFMIN and VFMAX of the bits a and b: bits and flags; −0 counts below +0 (spec 07, R146). -/
def minMax (f : Fmt) (isMax daz canon : Bool) (a b : Nat) : Nat × Nat :=
  let va := dazVal f daz a
  let vb := dazVal f daz b
  let out (v : FVal) : Nat := (roundVal f 1 false canon v).1
  let nv := if isSNaN va || isSNaN vb then flNV else 0
  if isNaN va ∧ isNaN vb then ((nanResult f canon [va, vb]).1, nv)
  else if isNaN va then (out vb, nv)
  else if isNaN vb then (out va, nv)
  else
    let less := valLt va vb || (isZero va && isZero vb && isNeg va && !isNeg vb)
    (out (if less = isMax then vb else va), nv)

end Sys2Proof.Machine
end

