-- ==== Sys2Proof/Machine/Operands.lean ====
section
/-!
DEFINITION. The operand forms of stem and leaf words and the two pipelines that every word goes through: legality, privilege, hoses
granted, release gate, parking, effect, pops, pushes, result, windows, next PC (spec 02, R38, R53; 03, R59, R75; 06, R112; 10, R196;
11, R218; 16, R294). -/
namespace Sys2Proof.Machine

/-- What the body of a word answers. -/
inductive Body where
  /-- The word completes: its effects on the state, its result, and the target of a taken transfer. -/
  | ok (s : State) (res : Word) (next : Option Word)
  /-- A precise fault; the word has no effect. -/
  | trap (code : Nat) (tval : Word) (lanes : LaneMask) (tea : Tab Word)
  /-- A precise fault after which this state stands: an answer that had come back from outside the cluster is used up. -/
  | trapIn (s : State) (code : Nat) (tval : Word) (lanes : LaneMask) (tea : Tab Word)
  /-- The stream waits; the word has no effect but the requests it has sent. -/
  | wait (w : Wait) (s : State)

/-! ## Sections (spec 01, R16, R17; 23, R379) -/

/-- The bounds of a drill's sections at its level: stem base and limit, leaf base and limit. -/
def sections (s : State) (d : Drill) : VAddr × VAddr × VAddr × VAddr :=
  if d.super then (let j := jobAt s d.job; (j.ksbase, j.kslim, j.klbase, j.kllim)) else (d.sbase, d.slim, d.lbase, d.llim)
/-- A stem target lies in its section, aligned. -/
def stemTargetOk (s : State) (d : Drill) (t : Nat) : Bool :=
  let b := sections s d
  decide (b.1.toNat ≤ t ∧ t < b.2.1.toNat ∧ t % 4 = 0)
/-- A leaf target lies in its section, at a multiple of 12 from its base. -/
def leafTargetOk (s : State) (d : Drill) (t : Nat) : Bool :=
  let b := sections s d
  decide (b.2.2.1.toNat ≤ t ∧ t < b.2.2.2.toNat ∧ (t - b.2.2.1.toNat) % 12 = 0)

/-! ## Releases before the check (spec 16, R294) -/

/-- The ids of the cloche entries of a drill, with their entries. -/
def clEntries (s : State) (slot : Nat) : List (Nat × ClEntry) :=
  (coreAt s (coreOf slot)).cloche.filter (fun e => decide (e.2.ctx = ctxOf slot))
/-- The entries in the prior set of a release of the stem, or of a VSTL of the running split: those whose words lanes of the split have run
(spec 15, R274). -/
def priorEntries (s : State) (slot : Nat) (d : Drill) (leaf : Bool) : List (Nat × ClEntry) :=
  let c := leafCtx d
  (clEntries s slot).filter (fun e =>
    if leaf then (e.2.leaf && decide (e.2.lanes &&& (runSplit c).em ≠ 0) && !e.2.routineEnded) || (!e.2.leaf && decide (e.1 ∈ c.clo))
    else !e.2.leaf || e.2.routineEnded)
/-- The wait or the cloche-release fault that stops a release: TVAL is the address of the first struck entry's line. -/
def releaseGate (s : State) (slot : Nat) (d : Drill) (leaf : Bool) : Option Body :=
  let es := priorEntries s slot d leaf
  if es.any (fun e => decide (e.2.state = 1)) then some (.wait .verdicts s)
  else match es.find? (fun e => decide (e.2.state = 2)) with
    | some e => some (.trap cCloche (BitVec.ofNat 64 (e.2.line * 128)) 0 [])
    | none => none
/-- Stores of the drill whose stamps have not returned (spec 15, R274). -/
def storesOut (s : State) (slot : Nat) : Bool := s.stores.any (fun p => decide (p.2.slot = slot))

/-! ## Stem words -/

/-- Hose numbers named by stem register fields (spec 02, R37). -/
def stemHoses (fs : List (BitVec 6)) : List Nat := (fs.filter (fun f => decide (48 ≤ f.toNat))).map (fun f => f.toNat - 48)
/-- The value of the n-th source field of a stem word: a register, or the hose's entry that its pop would take (R38). -/
def stemSrc (s : State) (d : Drill) (earlier : List (BitVec 6)) (f : BitVec 6) : Word :=
  if f.toNat < 48 then gGet d f.toNat
  else (((hoseQ s d (f.toNat - 48)).drop (countOf (stemHoses earlier) (f.toNat - 48))).headD 0).setWidth 64
/-- The values of source fields in order. -/
def stemSrcs (s : State) (d : Drill) (earlier fs : List (BitVec 6)) : List Word :=
  match fs with
  | [] => []
  | f :: r => stemSrc s d earlier f :: stemSrcs s d (earlier ++ [f]) r

/-- The shape of a stem word. -/
structure StemPlan where
  /-- The instruction, for its word in TVAL and its legality. -/
  ins : Instr
  srcs : List (BitVec 6) := []
  dst : Option (BitVec 6) := none
  la : Nat := 0
  /-- Can transfer control (spec 01, R31). -/
  ctl : Bool := false
  /-- Reserved to supervisor (spec 01, R30). -/
  priv : Bool := false
  /-- A release under R294. -/
  release : Bool := false

/-- The word of a stem instruction, as TVAL carries it. -/
def stemBits (i : Instr) : Word := ((match encodeStem i with | some w => w | none => 0) : BitVec 32).setWidth 64

/-- The result of a completed stem word enters its register, or opens its window. -/
def stemResult (d : Drill) (p : StemPlan) (res : Word) : Drill :=
  match p.dst with
  | none => passWord d false 0 p.ctl []
  | some r =>
    if 48 ≤ r.toNat then passWord d false 0 p.ctl []
    else if p.la = 0 then passWord (gWrite d r.toNat res) false 0 p.ctl []
    else
      let opened : List PendWrite := if d.wins.any (fun w => decide (w.kind = 0 ∧ w.reg = r.toNat)) then []
        else [{ kind := 0, owner := 0, reg := r.toNat, lanes := 0, value := res.setWidth 1024, left := p.la }]
      passWord d false 0 p.ctl opened

/-- A stem word completes: pops, pushes, result, windows, next PC; the hidden wait state is cleared (spec 11, R230). -/
def stemDone (s : State) (slot : Nat) (p : StemPlan) (res : Word) (next : Option Word) : State :=
  let s1 := hoseMoves s slot (stemHoses p.srcs) ((stemHoses p.dst.toList).map (fun h => (h, res.setWidth 1024)))
  onDrill s1 slot (fun d =>
    let d1 := stemResult d p res
    { d1 with
      pc := (match next with | some t => t.setWidth 56 | none => d.pc + 4), stemWait := (if d.stemWait = .exited then .exited else .none),
      wake := false, wkind := 0, woke := none, walked := d.walked.filter (fun w => w.1), asked := d.asked.filter (fun w => w.1), granted := d.granted.filter (fun w => w.1),
      got := d.got.filter (fun g => g.leaf), claims := d.claims.filter (fun c => c.1), lastStem := some s.cycle })

/-- A stream waits inside a word; the heads of the hoses it pops are held once the word has presented accesses. -/
def streamPark (s : State) (slot : Nat) (leaf : Bool) (w : Wait) (pops : List Nat) : State :=
  onDrill s slot (fun d =>
    let held := match w with | .access => true | .line => true | .atomic _ => true | _ => false
    let cl := d.claims.filter (fun c => decide (c.1 ≠ leaf)) ++ (if held then pops.map (fun h => (leaf, h)) else [])
    if leaf then { d with leafWait := w, claims := cl } else { d with stemWait := w, claims := cl })
/-- The stem stream waits. -/
def stemPark (s : State) (slot : Nat) (w : Wait) : State := onDrill s slot (fun d => { d with stemWait := w })

/-- A stem word of the drill whose turn it is. -/
def stemWord (p : StemPlan) (s : State) (body : Drill → List Word → State → Body) : Host.Outcome State Fault Refusal :=
  let slot := s.cur
  match drillAt s slot with
  | none => .next s
  | some d =>
    if !p.ins.wf then .next (stemTrap s slot cIllegal (stemBits p.ins))
    else if p.priv && !d.super then .next (stemTrap s slot cPrivilege (stemBits p.ins))
    else
      let pops := stemHoses p.srcs
      let pushes := stemHoses p.dst.toList
      match hoseDenied d false pops pushes with
      | some h => .next (stemTrap s slot cHose (BitVec.ofNat 64 h))
      | none =>
        match (if p.release then releaseGate s slot d false else none) with
        | some (.wait w t) => .next (stemPark t slot w)
        | some (.trap c v _ _) => .next (stemTrap s slot c v)
        | some (.ok t _ _) => .next t
        | some (.trapIn t _ _ _ _) => .next t
        | none =>
          if !hosesReady s slot false d pops pushes then .next (stemPark s slot .hose)
          else
            match body d (stemSrcs s d [] p.srcs) s with
            | .trap c v _ _ => .next (stemTrap s slot c v)
            | .trapIn t c v _ _ => .next (stemTrap t slot c v)
            | .wait w t => .next (streamPark t slot false w pops)
            | .ok t res next =>
              match next with
              | some a => if stemTargetOk s d a.toNat then .next (stemDone t slot p res next) else .next (stemTrap s slot cFetch a)
              | none => .next (stemDone t slot p res none)

/-- The n-th operand of a word; a word never asks beyond its sources. -/
def opAt (v : List Word) (n : Nat) : Word := v.getD n 0

/-- A stem word that only computes: `f` of its operands goes to gd (spec 06, R113, R115). -/
def stemPure (i : Instr) (d : BitVec 6) (srcs : List (BitVec 6)) (f : List Word → Word) (s : State) : Host.Outcome State Fault Refusal :=
  stemWord { ins := i, srcs, dst := some d } s (fun _ v t => .ok t (f v) none)

end Sys2Proof.Machine
end

