-- ==== Sys2Proof/Machine/Translate.lean ====
section
/-!
DEFINITION. The physical map, coherent reads and writes of physical memory by hubs, walkers, engines and firmware, the lease regions of
a die hub, and address translation: walks, caches, checks (spec 17; 15, R267 to R272; 26, R410 to R415; 29, R445, R451, R470; 13, R262). -/
namespace Sys2Proof.Machine

/-! ## The physical map (spec 17, R299, Table 17.1) -/

def hbmTop : Nat := 0x6000000000
def hubBase : Nat := 0x7F00000000
def canopyBase : Nat := 0x10000000000
def canopyTop : Nat := 0x11800000000
def hostBase : Nat := 0x8000000000000
def poolBase : Nat := 0xC000000000000
def paTop : Nat := 0x10000000000000
/-- The hub windows, 64 KiB a die. -/
def inHubWindow (pa : Nat) : Bool := decide (hubBase ≤ pa ∧ pa < hubBase + 0x40000)
/-- TIER of the range that holds a physical address (spec 17, R303): 0 canopy and hub windows, 1 HBM, 2 host, 3 pool. -/
def tierOf (pa : Nat) : Option Nat :=
  if pa < hbmTop then some 1
  else if inHubWindow pa || decide (canopyBase ≤ pa ∧ pa < canopyTop) then some 0
  else if hostBase ≤ pa ∧ pa < poolBase then some 2
  else if poolBase ≤ pa ∧ pa < paTop then some 3
  else none
/-- The valid pool window that covers a physical address: the lowest numbered (spec 29, R451). -/
def poolWindow (s : State) (pa : Nat) : Option Nat :=
  (below 16).find? (fun i =>
    let w0 := (tabGet 0 s.mgmt.pwin (2 * i)).toNat
    let w1 := (tabGet 0 s.mgmt.pwin (2 * i + 1)).toNat
    bitOf w0 63 && decide (bitsOf w0 0 22 ≤ pa / 2 ^ 30 ∧ pa / 2 ^ 30 ≤ bitsOf w1 0 22))
/-- The port of a pool window. -/
def windowPort (s : State) (win : Nat) : Nat := bitsOf (tabGet 0 s.mgmt.pwin (2 * win)).toNat 60 2
/-- The home die of a physical address (spec 26, R410; 29, R445). -/
def homeOf (s : State) (pa : Nat) : Nat :=
  if pa < hbmTop then pa / 0x1800000000
  else if inHubWindow pa then (pa - hubBase) / 0x10000
  else if pa < hostBase then (pa - canopyBase) / 0x600000000 % 4
  else if pa < poolBase then bitsOf pa 8 2 ^^^ bitsOf pa 16 2
  else match poolWindow s pa with
    | some w => windowPort s w
    | none => 0

/-! ## Where the newest bytes of a line are -/

/-- The write-back copies of a line that stand in a cluster: its private tile lines, and its write-back buffers (spec 12, R255). -/
def privateCopies (s : State) (line : Nat) : List LineCopy :=
  s.clusters.flatMap (fun c =>
    (match tabFind c.2.tiles (line / 16) with
      | some t => (match tabFind t.lines line with | some x => if x.shared then [] else [x] | none => [])
      | none => [])
    ++ (match tabFind c.2.wback (line / 16) with | some t => (match tabFind t line with | some x => [x] | none => []) | none => []))
/-- The copy of a line that a die hub holds in M or O outside its home (spec 26, Table 26.1). -/
def hubOwner (s : State) (line : Nat) : Option HubLine :=
  (s.dies.filterMap (fun d => if d.1 = homeOf s (line * 128) then none else match tabFind d.2.lines line with
    | some h => if h.st = .m ∨ h.st = .o then some h else none
    | none => none)).head?
/-- A byte of memory as its point of coherence holds it. -/
def freshByte (s : State) (a : Nat) : Nat :=
  match (privateCopies s (a / 128)).find? (fun x => bitOf x.dirty.toNat (a % 128)) with
  | some x => lineByte x.data (a % 128)
  | none => match hubOwner s (a / 128) with
    | some h => lineByte h.data (a % 128)
    | none => (tabGet 0 s.mem a).toNat
/-- n bytes at a, little-endian, as their points of coherence hold them. -/
def freshRead (s : State) (a n : Nat) : Nat := packFields 8 (fun i => freshByte s (a + i)) n
def freshLine (s : State) (line : Nat) : Vec := BitVec.ofNat 1024 (freshRead s (128 * line) 128)
/-- Whether the sector that holds a byte is poisoned (spec 24, R399; 23, R388). -/
def freshPsn (s : State) (a : Nat) : Bool :=
  match (privateCopies s (a / 128)).find? (fun x => decide (x.have' ≠ 0)) with
  | some x => bitOf x.psn.toNat (a % 128 / 32)
  | none => match hubOwner s (a / 128) with
    | some h => bitOf h.psn.toNat (a % 128 / 32)
    | none => decide (a / 32 ∈ s.psn)
/-- The poison bits of a line. -/
def freshLinePsn (s : State) (line : Nat) : BitVec 4 := BitVec.ofNat 4 (packFields 1 (fun i => if freshPsn s (128 * line + 32 * i) then 1 else 0) 4)

/-! ## Physical memory itself -/

def psnSet (p : List Nat) (sector : Nat) (bad : Bool) : List Nat :=
  if bad then (if sector ∈ p then p else p ++ [sector]) else p.filter (fun x => decide (x ≠ sector))
/-- The bytes of a mask of a line enter memory; sectors take poison from `psn` where the mask covers them, and keep theirs where it
only touches them (spec 23, R388). -/
def memLinePut (s : State) (line : Nat) (m : BitVec 128) (x : Vec) (psn : BitVec 4) : State :=
  let mem := (below 128).foldl (fun t i => if bitOf m.toNat i then tabSet 0 t (128 * line + i) (BitVec.ofNat 8 (lineByte x i)) else t) s.mem
  let full (k : Nat) : Bool := decide (bitsOf m.toNat (32 * k) 32 = 2 ^ 32 - 1)
  let p := (below 4).foldl (fun q k => if full k then psnSet q (4 * line + k) (bitOf psn.toNat k) else q) s.psn
  { s with mem := mem, psn := p }

/-! ## Lease regions (spec 15, R271, R272) -/

def stampLimit : Nat := 2 ^ 48 - 2 ^ 17
def covers (r : Region) (line : Nat) : Bool := decide (r.base ≤ line * 128 ∧ line * 128 < r.base + r.size)
def regionFind (d : Die) (line : Nat) : Option Region := d.regions.find? (fun r => covers r line)
def regionPut (d : Die) (r : Region) : Die := { d with regions := r :: d.regions.filter (fun x => decide (x.base ≠ r.base)) }
/-- HS_d follows every stamp written. -/
def raiseHs (d : Die) (x : Nat) : Die := { d with hs := max d.hs x }
/-- The largest aligned block of at most `size` bytes that holds the line and overlaps no region. -/
def freeBlock (d : Die) (line size : Nat) (n : Nat) : Nat × Nat :=
  let b := line * 128 / size * size
  match n with
  | 0 => (b, size)
  | k + 1 => if d.regions.any (fun r => decide (r.base < b + size ∧ b < r.base + r.size)) then freeBlock d line (size / 2) k else (b, size)
/-- Two sibling halves as one region, with the larger stamps. -/
def mergeRegions (a b : Region) : Region :=
  let op := max a.lastOp b.lastOp
  let c := max a.lastConflict b.lastConflict
  { a with base := min a.base b.base, size := 2 * a.size, wts := max a.wts b.wts, rts := max a.rts b.rts, lastOp := op, lastConflict := c }
def siblings (a b : Region) : Bool := decide (a.size = b.size ∧ a.size < 65536 ∧ a.base / (2 * a.size) = b.base / (2 * b.size) ∧ a.base ≠ b.base)
/-- A place for one region more, when the table of 262,144 is full: the siblings longest without a conflict merge, or the region
longest without an operation is dropped (spec 15, R272, Capacity). -/
def makeRoom (d : Die) : Die :=
  if d.regions.length < 262144 then d
  else
    let pairs := d.regions.filterMap (fun a => match d.regions.find? (fun b => siblings a b && decide (a.base < b.base)) with | some b => some (a, b) | none => none)
    match pairs with
    | p :: ps =>
      let q := ps.foldl (fun m x => if max x.1.lastConflict x.2.lastConflict < max m.1.lastConflict m.2.lastConflict then x else m) p
      { d with regions := mergeRegions q.1 q.2 :: d.regions.filter (fun r => decide (r.base ≠ q.1.base ∧ r.base ≠ q.2.base)) }
    | [] => match d.regions with
      | r :: rs =>
        let q := rs.foldl (fun m x => if x.lastOp < m.lastOp then x else m) r
        { d with regions := d.regions.filter (fun x => decide (x.base ≠ q.base)) }
      | [] => d
/-- The region that covers a line, made at HS_d + 1 where there is none (spec 15, R267). -/
def regionFor (d : Die) (line : Nat) : Die × Region :=
  match regionFind d line with
  | some r => (d, r)
  | none =>
    let d1 := makeRoom d
    let (b, z) := freeBlock d1 line 65536 9
    let r : Region := { base := b, size := z, wts := d1.hs + 1, rts := d1.hs + 1, lastOp := d1.ops, lastConflict := d1.ops }
    (raiseHs (regionPut d1 r) (d1.hs + 1), r)
/-- Sibling halves of which neither has taken part in a conflict for 4,096 operations of the hub merge (spec 15, R272, Merge). -/
def mergeQuiet (n : Nat) (d : Die) : Die :=
  match n with
  | 0 => d
  | k + 1 =>
    let quiet := d.regions.filter (fun r => decide (r.size < 65536 ∧ 4096 ≤ d.ops - r.lastConflict))
    match quiet.findSome? (fun a => (quiet.find? (fun b => siblings a b)).map (fun b => (a, b))) with
    | none => d
    | some (a, b) => mergeQuiet k { d with regions := mergeRegions a b :: d.regions.filter (fun r => decide (r.base ≠ a.base ∧ r.base ≠ b.base)) }
/-- A hub operation on a line: it is counted, and a conflict splits the region (spec 15, R272). The region that covers the line after
it is answered. -/
def hubOp (d : Die) (cl line : Nat) (store : Bool) : Die × Region :=
  let (d1, r) := regionFor (mergeQuiet d.regions.length { d with ops := d.ops + 1 }) line
  let half (l : Nat) : Nat := (l * 128 - r.base) / (r.size / 2)
  let conflict := decide (r.size > 128 ∧ r.lastCl ≠ 0 ∧ r.lastCl ≠ cl + 1 ∧ half r.lastLine ≠ half line) && covers r r.lastLine && (store || r.lastStore)
  let r1 : Region := { r with lastCl := cl + 1, lastLine := line, lastStore := store, lastOp := d1.ops }
  if conflict then
    let h := r.size / 2
    let mk (b : Nat) : Region := { r1 with base := b, size := h, lastConflict := d1.ops }
    let lo := mk r.base
    let hi := mk (r.base + h)
    let old (x : Region) : Region := { x with lastCl := r.lastCl, lastLine := r.lastLine, lastStore := r.lastStore }
    if covers lo line then (regionPut (regionPut d1 lo) (old hi), lo) else (regionPut (regionPut d1 (old lo)) hi, hi)
  else (regionPut d1 r1, r1)
/-- R415: a hub that receives data for a line or loses a right to it sets the covering region's stamps to HS_d + 1. -/
def restamp (d : Die) (line : Nat) : Die :=
  let (d1, r) := regionFor d line
  raiseHs (regionPut d1 { r with wts := d1.hs + 1, rts := d1.hs + 1 }) (d1.hs + 1)

/-! ## Coherent writes by hubs, engines, walkers and firmware -/

/-- A hub's copy of a line leaves: dirty data goes to memory, and the right is lost (spec 26, R413, R415). -/
def hubLose (s : State) (die line : Nat) : State :=
  let d := dieAt s die
  match tabFind d.lines line with
  | none => s
  | some h =>
    let s1 := if (h.st = .m ∨ h.st = .o) ∧ die ≠ homeOf s (line * 128) then memLinePut s line (BitVec.allOnes 128) h.data h.psn else s
    onDie s1 die (fun x => restamp { x with lines := tabDel x.lines line } line)
/-- Every hub's copy of a line leaves, and its directory entry with them. -/
def allLose (s : State) (line : Nat) : State :=
  let s1 := s.dies.foldl (fun t d => hubLose t d.1 line) s
  onDie s1 (homeOf s1 (line * 128)) (fun x => { x with dir := tabDel x.dir line })
/-- The bytes of a mask of a line are written at their point of coherence (spec 15, Table 15.1, at device scope): in place in the tile of
a private page, else in memory with every other copy gone and every region that covers the line stamped anew. -/
def coherentPut (s : State) (line : Nat) (m : BitVec 128) (x : Vec) (psn : BitVec 4) : State :=
  let full (k : Nat) : Bool := decide (bitsOf m.toNat (32 * k) 32 = 2 ^ 32 - 1)
  let mix (old : BitVec 4) : BitVec 4 := BitVec.ofNat 4 (packFields 1 (fun k => if bitOf (if full k then psn else old).toNat k then 1 else 0) 4)
  let inTile (c : Cluster) : Bool := match tabFind c.tiles (line / 16) with
    | some t => (match tabFind t.lines line with | some y => !y.shared | none => false)
    | none => false
  match s.clusters.find? (fun c => inTile c.2) with
  | some c =>
    onCl s c.1 (fun k => { k with tiles := k.tiles.map (fun t => if t.1 = line / 16 then (t.1, { t.2 with lines := t.2.lines.map (fun y =>
      if y.1 = line then (y.1, { y.2 with data := mergeBytes m x y.2.data, dirty := y.2.dirty ||| m, psn := mix y.2.psn }) else y) }) else t) })
  | none =>
    let s1 := allLose s line
    let s2 := memLinePut s1 line m x psn
    { s2 with
      clusters := s2.clusters.map (fun c => (c.1, { c.2 with wback := c.2.wback.map (fun t => (t.1, t.2.map (fun y =>
        if y.1 = line then (y.1, { y.2 with data := mergeBytes m x y.2.data }) else y))) })),
      dies := s2.dies.map (fun d => (d.1, if (regionFind d.2 line).isSome then restamp d.2 line else d.2)) }
/-- n bytes of x written at a, as coherentPut writes each line. -/
def coherentWrite (s : State) (a n x : Nat) : State :=
  let first := a / 128
  let last := (a + n - 1) / 128
  (upFrom first (last + 1 - first)).foldl (fun t l =>
    if n = 0 then t
    else
      let lo := max a (128 * l)
      let hi := min (a + n) (128 * (l + 1))
      let v : Vec := BitVec.ofNat 1024 ((x / 2 ^ (8 * (lo - a))) % 2 ^ (8 * (hi - lo)) * 2 ^ (8 * (lo - 128 * l)))
      coherentPut t l (byteMask (lo - 128 * l) (hi - lo)) v 0) s

/-! ## Walks (spec 17, R300 to R306) -/

inductive Kind where
  | load | store | fetch
  deriving DecidableEq, Repr

/-- What a translation answers: physical address and entry, no entry in the caches, or a fault of R309 by its cause code. -/
inductive Tr where
  | hit (pa : Nat) (t : Trans)
  | miss
  | fault (code : Nat)
  deriving DecidableEq, Repr

def shiftOf (z : Nat) : Nat := if z = 0 then 16 else if z = 1 then 21 else 30
/-- The home bucket of a key (spec 17, R302). -/
def homeBucket (j : Job) (va z : Nat) : Nat :=
  let k := va >>> shiftOf z
  (k ^^^ (k >>> j.nb) ^^^ (k >>> (2 * j.nb)) ^^^ (z <<< (j.nb - 2))) % 2 ^ j.nb
/-- Entry e of a bucket: its two words. -/
def bucketEntry (b : Vec) (e : Nat) : Nat × Nat := (bitsOf b.toNat (128 * e) 64, bitsOf b.toNat (128 * e + 64) 64)
/-- An entry with V = 1, SZ = z and the tag of the address. -/
def entryMatches (va z w0 : Nat) : Bool :=
  bitOf w0 63 && decide (bitsOf w0 61 2 = z ∧ bitsOf w0 16 40 = (va >>> shiftOf z <<< shiftOf z) >>> 16)
/-- A matching entry keeps the ranges and reserved bits of Table 17.3 (spec 17, R303). -/
def entryValid (z w0 w1 : Nat) : Bool :=
  let pfn := bitsOf w1 16 36 * 2 ^ 16
  decide (bitsOf w0 56 5 = 0 ∧ bitsOf w0 0 16 = 0 ∧ bitsOf w1 52 3 = 0 ∧ bitsOf w1 6 6 = 0 ∧ bitsOf w1 0 2 = 0 ∧ pfn % 2 ^ shiftOf z = 0)
    && decide (tierOf pfn = some (bitsOf w1 61 2))
/-- The walk of one size: buckets from the home bucket on, at most n more (spec 17, R304). `some none` is a match that is invalid. -/
def walkBuckets (s : State) (jn : Nat) (j : Job) (va z b n : Nat) : Option (Option Trans) :=
  match n with
  | 0 => none
  | k + 1 =>
    let line := (j.ntbase + 128 * (b % 2 ^ j.nb)) / 128
    let v := freshLine s line
    if freshLinePsn s line ≠ 0 then some none
    else
      match (below 8).find? (fun e => entryMatches va z (bucketEntry v e).1) with
      | some e =>
        let (w0, w1) := bucketEntry v e
        let t : Trans := { job := jn, page := va >>> shiftOf z, shift := shiftOf z, block := va >>> 16, word1 := BitVec.ofNat 64 w1, frame := bitsOf w1 16 36 * 2 ^ 16, pte := some (line * 128 + 16 * e) }
        if entryValid z w0 w1 then some (some t) else some none
      | none =>
        if (below 8).any (fun e => let w0 := (bucketEntry v e).1; !bitOf w0 63 && !bitOf w0 60) then none
        else walkBuckets s jn j va z (b + 1) k
/-- The native walk: the sizes of SZMASK, smallest first. -/
def nativeWalk (s : State) (jn va : Nat) : Option Trans :=
  let j := jobAt s jn
  match ([0, 1, 2].filter (fun z => bitOf j.szmask z)).findSome? (fun z => walkBuckets s jn j va z (homeBucket j va z) 8) with
  | some r => r
  | none => none

/-- A host leaf as word 1 shows it: TIER host, SHR, PKEY 0 and the four permissions. -/
def hostWord1 (r w x u : Bool) : Word :=
  BitVec.ofNat 64 (2 ^ 62 + 2 ^ 60 + (if u then 32 else 0) + (if x then 16 else 0) + (if w then 8 else 0) + (if r then 4 else 0))
/-- A host walk from level n − 1 down (spec 17, R306). HL4 is the device's own format; the Sv48 layout is PRESUMED from the published RISC-V
privileged architecture. The answer is the leaf's address, the entry and its level. -/
def hostWalkFrom (s : State) (fmt va base n : Nat) : Option (Nat × Nat × Nat) :=
  match n with
  | 0 => none
  | l + 1 =>
    let a := hostBase + (base + 8 * bitsOf va (12 + 9 * l) 9) % 2 ^ 50
    let e := freshRead s a 8
    let next := if fmt = 2 then bitsOf e 12 40 * 4096 else bitsOf e 10 44 * 4096
    if freshPsn s a then none
    else if fmt = 2 then
      let leaf := bitOf e 1
      if !bitOf e 0 || decide (bitsOf e 52 12 ≠ 0 ∨ bitsOf e 8 4 ≠ 0) then none
      else if leaf then (if l = 3 ∨ next % 2 ^ (12 + 9 * l) ≠ 0 then none else some (a, e, l))
      else if l = 0 ∨ bitsOf e 2 6 ≠ 0 then none
      else hostWalkFrom s fmt va next l
    else
      let leaf := bitOf e 1 || bitOf e 3
      if !bitOf e 0 || (bitOf e 2 && !bitOf e 1) || decide (bitsOf e 54 10 ≠ 0) then none
      else if leaf then (if l = 3 ∨ next % 2 ^ (12 + 9 * l) ≠ 0 then none else some (a, e, l))
      else if l = 0 ∨ bitOf e 4 ∨ bitsOf e 6 2 ≠ 0 then none
      else hostWalkFrom s fmt va next l
/-- The host walk: the translation, and the state with the accessed and dirty bits set. A store sets the dirty bit only where it is allowed. -/
def hostWalk (s : State) (jn va : Nat) (store : Bool) : Option Trans × State :=
  let j := jobAt s jn
  if j.hfmt = 0 ∨ bitsOf va 48 7 ≠ 127 ∨ (j.hfmt = 2 ∧ j.hroot.toNat % 4096 ≠ 0) then (none, s)
  else match hostWalkFrom s j.hfmt (va % 2 ^ 48) j.hroot.toNat 4 with
    | none => (none, s)
    | some (a, e, l) =>
      let hl := decide (j.hfmt = 2)
      let (r, w, x, u) := if hl then (bitOf e 2, bitOf e 3, bitOf e 4, bitOf e 5) else (bitOf e 1, bitOf e 2, bitOf e 3, bitOf e 4)
      let next := (if hl then bitsOf e 12 40 else bitsOf e 10 44) * 4096
      let dirty := store && w
      let e' := e ||| 64 ||| (if dirty then 128 else 0)
      let s1 := if e' = e then s else coherentWrite s a 8 e'
      let t : Trans := { job := jn, page := va >>> (12 + 9 * l), shift := 12 + 9 * l, block := va >>> 16, word1 := hostWord1 r w x u, frame := hostBase + next % 2 ^ 50, dirty := bitOf e' 7 }
      (some t, s1)
/-- A walk of a job's root (spec 17, R300, R301). -/
def walk (s : State) (jn va : Nat) (store : Bool) : Option Trans × State :=
  if !(jobAt s jn).rootOk then (none, s)
  else if bitOf va 55 then hostWalk s jn va store
  else (nativeWalk s jn va, s)

/-! ## Caches and checks (spec 17, R308, R309) -/

def transHit (jn va : Nat) (t : Trans) : Bool := decide (t.job = jn ∧ t.page = va >>> t.shift ∧ (t.pte = none ∨ t.block = va >>> 16))
/-- An entry enters a cache of the given size; the oldest leaves. -/
def cachePut (size : Nat) (c : List Trans) (t : Trans) : List Trans :=
  (t :: c.filter (fun x => !(decide (x.job = t.job ∧ x.page = t.page ∧ x.shift = t.shift ∧ (t.pte = none ∨ x.block = t.block))))).take size
/-- The cached translation of an address at a core: its own cache, then the die's. -/
def cached (s : State) (core jn va : Nat) : Option Trans :=
  match (coreAt s core).tcache.find? (transHit jn va) with
  | some t => some t
  | none => (dieAt s (core / 192)).tcache.find? (transHit jn va)
/-- The checks of R309 on a translation, and the pool window test of R470. -/
def checkTrans (s : State) (super : Bool) (k : Kind) (t : Trans) (va : Nat) : Tr :=
  let w := t.word1.toNat
  let pa := t.frame + va % 2 ^ t.shift
  let keys := (jobAt s t.job).pkeys.toNat
  let key := bitsOf w 12 4
  match tierOf pa with
  | none => .fault cTranslation
  | some tier =>
    if tier = 3 ∧ (poolWindow s pa).isNone then .fault cTranslation
    else if (!super && !bitOf w 5) || (match k with | .load => !bitOf w 2 | .store => !bitOf w 3 | .fetch => !bitOf w 4) then .fault cPermission
    else if k ≠ .fetch ∧ (bitOf keys (2 * key) || (decide (k = .store) && bitOf keys (2 * key + 1))) then .fault cKey
    else .hit pa t
/-- The translation of a 56-bit address for a drill. A store through a host page whose dirty bit is clear walks again (R306). -/
def translate (s : State) (slot : Nat) (d : Drill) (k : Kind) (leaf : Bool) (va : Nat) : Tr :=
  match d.walked.find? (fun w => decide (w.1 = leaf ∧ w.2.1 = va >>> 12)) with
  | some w => .fault w.2.2
  | none =>
    match cached s (coreOf slot) d.job va with
    | none => .miss
    | some t => match checkTrans s d.super k t va with
      | .hit pa t => if k = .store ∧ !t.dirty then .miss else .hit pa t
      | r => r
/-- The translation of an engine's or hub's access: the caches, or a walk there and then. -/
def translateNow (s : State) (core jn : Nat) (super : Bool) (k : Kind) (va : Nat) : Tr × State :=
  match cached s core jn va with
  | some t => (match checkTrans s super k t va with
      | .hit pa t => if k = .store ∧ !t.dirty then (let (r, s1) := walk s jn va true; (match r with | some t => checkTrans s1 super k t va | none => .fault cTranslation, s1)) else (.hit pa t, s)
      | r => (r, s))
  | none =>
    let (r, s1) := walk s jn va (decide (k = .store))
    match r with
    | none => (.fault cTranslation, s1)
    | some t =>
      let s2 := onDie s1 (core / 192) (fun x => { x with tcache := cachePut 8192 x.tcache t })
      (checkTrans s2 super k t va, s2)
/-- A walk is asked for (spec 17, R307): one walk for all that miss on one page. -/
def askWalk (s : State) (slot : Nat) (d : Drill) (k : Kind) (va : Nat) : State :=
  post s (.translationWalk (dieOf slot) d.job (va >>> 12) (decide (k = .store)))

/-- TRANSLATION_WALK: the walk ends; the caches of the die and of the waiting cores take the entry, or the drills that wait on that die
see the fault; the words that wait issue again (spec 17, R304, R307 to R310). -/
def execTranslationWalk (die job page : Nat) (store : Bool) (s : State) : Host.Outcome State Fault Refusal :=
  let waits (e : Nat × Drill) : Bool := decide (dieOf e.1 = die ∧ e.2.job = job) && (decide (e.2.stemWait = .walk) || decide (e.2.leafWait = .walk))
  let (r, s1) := walk s job (page * 4096) store
  let s2 := match r with
    | some t =>
      let s3 := onDie s1 die (fun x => { x with tcache := cachePut 8192 x.tcache t })
      (s3.drills.filter waits).foldl (fun u e => onCore u (coreOf e.1) (fun c => { c with tcache := cachePut 256 c.tcache t })) s3
    | none =>
      { s1 with drills := s1.drills.map (fun e => if waits e then
          (e.1, { e.2 with walked := e.2.walked ++ (if e.2.stemWait = .walk then [(false, page, cTranslation)] else [])
            ++ (if e.2.leafWait = .walk then [(true, page, cTranslation)] else []) }) else e) }
  .next (wake s2 onWalk)

/-- TRANSLATION_CACHE_DROP: a cache drops an entry (spec 17, R308). -/
def execTranslationCacheDrop (core : Nat) (dieLevel : Bool) (job page : Nat) (s : State) : Host.Outcome State Fault Refusal :=
  let keep (t : Trans) : Bool := !(decide (t.job = job ∧ t.page = page))
  .next (if dieLevel then onDie s (core / 192) (fun x => { x with tcache := x.tcache.filter keep }) else onCore s core (fun x => { x with tcache := x.tcache.filter keep }))

/-! ## Page owners (spec 15, R270; 17, R305) -/

/-- What a data access of a cluster finds of a page's class. -/
inductive Owner where
  /-- Shared, or private to this cluster. -/
  | fine (s : State)
  /-- Private to another cluster: the page is to be reclassified. -/
  | other (s : State)

/-- Word 1 of an entry in every cache takes a new value. -/
def cacheWord1 (s : State) (pte : Nat) (w : Word) : State :=
  let f (l : List Trans) : List Trans := l.map (fun t => if t.pte = some pte then { t with word1 := w } else t)
  { s with cores := s.cores.map (fun c => (c.1, { c.2 with tcache := f c.2.tcache })), dies := s.dies.map (fun d => (d.1, { d.2 with tcache := f d.2.tcache })) }
/-- Word 1 of a translation's entry as the table holds it now; a host page's as the cache holds it. -/
def word1Now (s : State) (t : Trans) : Nat := match t.pte with | some a => freshRead s (a + 8) 8 | none => t.word1.toNat
/-- A data access of a cluster through a translation: a private page without an owner takes the cluster as its owner, by a CAS of
word 1; a page of another owner is reported. -/
def claimPage (s : State) (cl : Nat) (t : Trans) : Owner :=
  match t.pte with
  | none => .fine s
  | some a =>
    let w := word1Now s t
    if bitOf w 60 then .fine s
    else if bitOf w 59 then (if bitsOf w 55 4 = cl then .fine s else .other s)
    else
      let w' := w + 2 ^ 59 + cl * 2 ^ 55
      .fine (cacheWord1 (coherentWrite s (a + 8) 8 w') a (BitVec.ofNat 64 w'))
/-- Whether the migration lock stands in the entry of a page (spec 17, R316). -/
def pageLocked (s : State) (t : Trans) : Bool := bitOf (word1Now s t) 63
/-- Whether a page is of the shared class. -/
def pageShared (s : State) (t : Trans) : Bool := bitOf (word1Now s t) 60

end Sys2Proof.Machine
end

