-- ==== Sys2Proof/Machine/Replay.lean ====
section
/-!
DEFINITION. Record and replay of the outcomes that the spec leaves to chance (spec 24, R406, R407). -/
namespace Sys2Proof.Machine

/-! ## Records (spec 24, Table 24.2): kind 1 atomic, 2 TRAYTAKE, 3 Tendril admission, 4 cloche verdict -/

/-- Word 0 of the record of a drill's event. -/
def recordKey (slot kind seq : Nat) : Nat :=
  kind * 2 ^ 60 + dieOf slot * 2 ^ 58 + clusterOf slot % 4 * 2 ^ 56 + coreOf slot % 48 * 2 ^ 50 + ctxOf slot * 2 ^ 46 + seq % 2 ^ 46
/-- Places of a job's ring. -/
def ringPlaces (j : Job) : Nat := j.logSize / 16
/-- The ring of a job in record mode has no place left: its cores stop issuing. -/
def ringFull (j : Job) : Bool := decide (j.replay = .record ∧ ringPlaces j ≤ j.logUsed)
/-- A record enters the ring, or waits for a place. -/
def appendRecord (s : State) (jn : Nat) (r : Nat × Nat) : State :=
  let j := jobAt s jn
  if ringFull j || !j.logWait.isEmpty then onJob s jn (fun x => { x with logWait := x.logWait ++ [r] })
  else
    let s1 := coherentWrite s (j.logBase + 16 * j.logAt) 16 (r.1 + r.2 * 2 ^ 64)
    onJob s1 jn (fun x => { x with logUsed := x.logUsed + 1, logAt := (x.logAt + 1) % ringPlaces x })
/-- The place and value of a drill's event in the log of a job in replay mode. -/
def logFind (s : State) (j : Job) (slot kind seq p n : Nat) : Option (Nat × Nat) :=
  match n with
  | 0 => none
  | k + 1 => if freshRead s (j.logBase + 16 * p) 8 = recordKey slot kind seq then some (p, freshRead s (j.logBase + 16 * p + 8) 8) else logFind s j slot kind seq (p + 1) k
def logged (s : State) (slot kind seq : Nat) : Option (Nat × Nat) :=
  match drillAt s slot with
  | none => none
  | some d => let j := jobAt s d.job; logFind s j slot kind seq 0 (ringPlaces j)
/-- The drill named by a record, by its slot, has passed that record. -/
def recordPassed (s : State) (w0 : Nat) : Bool :=
  let slot := ((bitsOf w0 58 2 * 4 + bitsOf w0 56 2) * 48 + bitsOf w0 50 6) * 16 + bitsOf w0 46 4
  match drillAt s slot with | some d => decide (bitsOf w0 0 46 < d.seq) | none => true
/-- Every atomic with a lower place in the log has been performed. The log names no addresses, so all are waited for (log 40). -/
def earlierDone (s : State) (j : Job) (p : Nat) : Bool :=
  (below p).all (fun i => let w0 := freshRead s (j.logBase + 16 * i) 8; decide (w0 / 2 ^ 60 ≠ 1) || recordPassed s w0)
/-- Whether an atomic of a drill must wait for its place in the log. -/
def replayHolds (s : State) (slot : Nat) : Bool :=
  match drillAt s slot with
  | none => false
  | some d => let j := jobAt s d.job
    decide (j.replay = .replay) && (match logged s slot 1 d.seq with | some (p, _) => !earlierDone s j p | none => false)
/-- The job leaves replay mode, and the Gardener hears of it. -/
def diverge (s : State) (slot jn : Nat) : State := wake (notify (onJob s jn (fun j => { j with replay := .free })) (.replayDivergence slot)) (fun w => decide (w = .replay))
/-- An event of a drill with its value: it is recorded, or takes its recorded value; `same` says whether a recorded value names the same event. -/
def event (s : State) (slot kind val : Nat) (same : Nat → Bool) : State × Nat :=
  match drillAt s slot with
  | none => (s, val)
  | some d =>
    match (jobAt s d.job).replay with
    | .free => (s, val)
    | .record => (appendRecord (putDrill s slot { d with seq := d.seq + 1 }) d.job (recordKey slot kind d.seq, val), val)
    | .replay => match logged s slot kind d.seq with
      | some (_, v) => if same v then (wake (putDrill s slot { d with seq := d.seq + 1 }) (fun w => decide (w = .replay)), v) else (diverge s slot d.job, val)
      | none => (diverge s slot d.job, val)
/-- The recorded value of a drill's next event of a kind, in replay mode. -/
def forced (s : State) (slot kind : Nat) : Option Nat :=
  match drillAt s slot with
  | none => none
  | some d => if (jobAt s d.job).replay = .replay then (logged s slot kind d.seq).map (·.2) else none

/-! ## Tendril admissions -/

/-- Value of an admission's record: ordinal of the access on its tile, tile. -/
def admissionVal (j : Job) (tile : Nat) : Nat := tabGet 0 j.ords tile * 2 ^ 41 + tile
/-- In replay mode an access whose recorded ordinal is not yet due is held. -/
def admissionHeld (s : State) (slot tile : Nat) : Bool :=
  match drillAt s slot with
  | none => false
  | some d => let j := jobAt s d.job
    decide (j.replay = .replay) && (match logged s slot 3 d.seq with | some (_, v) => decide (v % 2 ^ 41 = tile ∧ tabGet 0 j.ords tile < v / 2 ^ 41) | none => false)
/-- An admission is counted and recorded. -/
def noteAdmission (s : State) (slot tile : Nat) : State :=
  match drillAt s slot with
  | none => s
  | some d =>
    if (jobAt s d.job).replay = .free then s
    else
      let s1 := (event s slot 3 (admissionVal (jobAt s d.job) tile) (fun v => decide (v % 2 ^ 41 = tile))).1
      onJob s1 d.job (fun j => { j with ords := tabSet 0 j.ords tile (tabGet 0 j.ords tile + 1) })

/-! ## Firmware -/

/-- REPLAY_MODE_SET (spec 24, R406). -/
def execReplayModeSet (job : Nat) (mode : ReplayMode) (base size : Nat) (s : State) : Host.Outcome State Fault Refusal :=
  let s1 := onJob s job (fun j => { j with replay := mode, logBase := base, logSize := size, logUsed := 0, logAt := 0, logWait := [], ords := [] })
  .next (wake { s1 with drills := s1.drills.map (fun e => if e.2.job = job then (e.1, { e.2 with seq := 0 }) else e) } (fun w => decide (w = .replay)))
/-- REPLAY_LOG_SPACE_FREED: records that waited enter the ring, and the cores of the job issue again once it has a place. -/
def execReplayLogSpaceFreed (job count : Nat) (s : State) : Host.Outcome State Fault Refusal :=
  let w := (jobAt s job).logWait
  let s1 := onJob s job (fun j => { j with logUsed := j.logUsed - count, logWait := [] })
  .next (w.foldl (fun t r => appendRecord t job r) s1)

end Sys2Proof.Machine
end

