-- ==== Sys2Proof/Machine/Tendril.lean ====
section
/-!
DEFINITION. The Tendril of a cluster: slots, landing slots, moving touches, front arbitration, motion, fills and write-backs
(spec 12, R239 to R256; 05, R110; 13, R262; 14, R263, R264). -/
namespace Sys2Proof.Machine

/-- Slots of the chain: 32 for each 64 KiB lent (spec 12, R242). -/
def chainSlots (s : State) (cl : Nat) : Nat := (below 48).foldl (fun a c => a + 32 * (coreAt s (48 * cl + c)).lend) 0
/-- The largest t with 16 t² ≤ p, searched from n down. -/
def turnFrom (p n : Nat) : Nat :=
  match n with
  | 0 => 0
  | k + 1 => if 16 * (k + 1) * (k + 1) ≤ p then k + 1 else turnFrom p k
/-- turn(p) (spec 12, R243). -/
def turnOf (p : Nat) : Nat := turnFrom p 26

def stakedSlots (c : Cluster) : List Nat := (c.tiles.filter (fun t => t.2.staked.isSome)).map (fun t => t.2.pos)
/-- The first slot at or after p that no staked tile holds; at most `n` staked slots stand in the way. -/
def skipStaked (st : List Nat) (p n : Nat) : Nat :=
  match n with
  | 0 => p
  | k + 1 => if p ∈ st then skipStaked st (p + 1) k else p
/-- The next unstaked slot outward of p. -/
def nextOut (st : List Nat) (p : Nat) : Nat := skipStaked st (p + 1) st.length
/-- The (j + 1)-th unstaked slot counted from the tip (spec 12, R246). -/
def landingSlot (st : List Nat) (j : Nat) : Nat :=
  match j with
  | 0 => skipStaked st 0 st.length
  | k + 1 => nextOut st (landingSlot st k)
/-- The first empty unstaked slot from p outward, where `occ` are the slots that unstaked tiles hold. -/
def firstEmpty (st occ : List Nat) (p n : Nat) : Nat :=
  match n with
  | 0 => p
  | k + 1 => if p ∈ occ then firstEmpty st occ (nextOut st p) k else p

/-- A tile leaves the chain: its dirty lines go to the write-back buffer until memory acknowledges them (spec 12, R255). -/
def leaveChain (s : State) (cl tile : Nat) : State :=
  let c := clAt s cl
  match tabFind c.tiles tile with
  | none => s
  | some t =>
    let dirty := t.lines.filter (fun y => decide (y.2.dirty ≠ 0) && !y.2.shared)
    let c1 := { c with tiles := tabDel c.tiles tile }
    if dirty.isEmpty then putCl s cl c1
    else
      let old := tabGet [] c.wback tile
      let both := dirty.foldl (fun m y => match tabFind m y.1 with
        | some o => tabPut m y.1 { o with data := mergeBytes y.2.dirty y.2.data o.data, dirty := o.dirty ||| y.2.dirty, psn := y.2.psn }
        | none => tabPut m y.1 y.2) old
      post (putCl s cl { c1 with wback := tabSet [] c1.wback tile both }) (.tileWritebackAck cl tile)

/-- A moving touch of a tile to landing slot L in step `now` (spec 05, R110; 12, R246, R253; 14, R263). -/
def touchTile (s : State) (cl tile l : Nat) : State :=
  let c := clAt s cl
  let n := chainSlots s cl
  let st := stakedSlots c
  let occ := (c.tiles.filter (fun t => t.2.staked.isNone && decide (t.1 ≠ tile))).map (fun t => t.2.pos)
  let e := firstEmpty st occ l (occ.length + 1)
  let shifted : Tab TileSt := c.tiles.map (fun t =>
    if decide (t.1 ≠ tile ∧ l ≤ t.2.pos ∧ t.2.pos < e) && t.2.staked.isNone then (t.1, { t.2 with pos := nextOut st t.2.pos }) else t)
  let out := (shifted.filter (fun t => decide (n ≤ t.2.pos))).map (·.1)
  let moved := match tabFind c.tiles tile with
    | some t =>
      let until' := max (if t.moving then t.land else 0) (c.stepNo + turnOf t.pos)
      let mv := t.moving || decide (l < t.pos)
      tabPut shifted tile { t with pos := l, moving := mv, land := (if mv then until' else t.land) }
    | none => tabPut shifted tile { pos := l }
  let s1 := putCl s cl { c with tiles := moved }
  let s2 := match tabFind moved tile with
    | some t => if t.moving then post s1 (.tileLand cl tile) else s1
    | none => s1
  out.foldl (fun u t => leaveChain u cl t) s2

/-! ## Front arbitration (spec 12, R248) -/

/-- The running values of one step: state, rank, landing count, admitted (core, access, rank, landing), last core of B. -/
structure Front where
  s : State
  rank : Nat := 0
  j : Nat := 0
  last : Option Nat := none
  adm : List (Nat × Access × Nat × Option Nat) := []

/-- Whether an access is a moving touch (spec 12, R245). -/
def isMoving (c : Cluster) (a : Access) : Bool :=
  let staked := match tabFind c.tiles a.tile with | some t => t.staked.isSome | none => false
  let present := (tabFind c.tiles a.tile).isSome
  if a.kind = 1 then false
  else if a.kind = 3 then present && staked
  else !a.byMod && !staked
/-- R253: a store touch to a tile in motion that the write-chase buffer cannot take is held. -/
def chaseHeld (c : Cluster) (a : Access) : Bool :=
  match tabFind c.tiles a.tile with
  | some t => t.moving && decide (0 < a.stores ∧ 16 < t.chase.length + a.stores)
  | none => false
/-- Places that stores of an admitted access take in the buffer of a tile in motion. -/
def chaseTake (s : State) (cl : Nat) (a : Access) : State :=
  onCl s cl (fun c => match tabFind c.tiles a.tile with
    | some t => if t.moving && decide (0 < a.stores) then { c with tiles := tabPut c.tiles a.tile { t with chase := t.chase ++ a.sectors } } else c
    | none => c)
def onLost (s : State) (core : Nat) (f : Nat → Nat) : State := onCore s core (fun c => { c with lost := f c.lost })
/-- The access leaves its core's queue. -/
def letIn (s : State) (cl core : Nat) (a : Access) : State :=
  let s1 := onCore s core (fun c => { c with queue := c.queue.drop 1, lost := 0 })
  let s2 := onDrill s1 a.slot (fun d => { d with granted := d.granted ++ [(a.leaf, a.tile)] })
  noteAdmission (chaseTake s2 cl a) a.slot a.tile
/-- The slots that stay staked when the TUNSTAKEs among the accesses of a step have ended their stakes (R247, R259). -/
def stakesLeft (c : Cluster) (l : List Access) : List Nat :=
  (c.tiles.filter (fun t => t.2.staked.isSome && !l.any (fun a => decide (a.kind = 3 ∧ a.tile = t.1)))).map (fun t => t.2.pos)
/-- One core's turn in the step. -/
def frontCore (cl : Nat) (inA : Bool) (f : Front) (core : Nat) : Front :=
  match (coreAt f.s core).queue.head? with
  | none => f
  | some a =>
    let c := clAt f.s cl
    let lose : Front := { f with s := onLost f.s core (fun x => min (x + 1) 255) }
    let mv := isMoving c a
    let last := if inA then f.last else some (core % 48)
    if chaseHeld c a || admissionHeld f.s a.slot a.tile then lose
    else match f.adm.find? (fun y => decide (y.2.1.tile = a.tile) && (isMoving c y.2.1 == mv)) with
      | some y => { f with s := letIn f.s cl core a, last := last, adm := f.adm ++ [(core, a, y.2.2.1, none)] }
      | none =>
        if f.rank < 4 then
          let landing := if mv then some (landingSlot (stakesLeft c (f.adm.map (·.2.1) ++ [a])) f.j) else none
          { f with s := letIn f.s cl core a, last := last, rank := f.rank + 1, j := (if mv then f.j + 1 else f.j), adm := f.adm ++ [(core, a, f.rank, landing)] }
        else lose
/-- The cores of a cluster in the order of (c − ptr) mod 48. -/
def coresFrom (cl ptr : Nat) : List Nat := (below 48).map (fun i => 48 * cl + (ptr + i) % 48)
/-- A by lost count, descending; equal counts keep their order. -/
def insertLost (s : State) (c : Nat) (l : List Nat) : List Nat :=
  match l with
  | [] => [c]
  | x :: r => if (coreAt s x).lost < (coreAt s c).lost then c :: x :: r else x :: insertLost s c r
/-- The answer of a Tendril word to its drill, as the value of a word in progress. -/
def frontAnswer (s : State) (slot : Nat) (leaf : Bool) (tile v : Nat) : State :=
  onDrill s slot (fun d => { d with got := d.got ++ [{ leaf, tile, vals := [(0, v, none)] }] })
def minusOne : Nat := 2 ^ 64 - 1
/-- A tile belongs to the job of the drill that touched it last. -/
def touchFor (s : State) (cl slot tile l : Nat) : State :=
  match drillAt s slot with
  | none => touchTile s cl tile l
  | some d => onCl (touchTile s cl tile l) cl (fun k => match tabFind k.tiles tile with
    | some t => { k with tiles := tabPut k.tiles tile { t with job := d.job } }
    | none => k)
/-- The effect of an admitted access at the end of its step, in rank order: the move, and the answer of a Tendril word (R258, R259). -/
def frontMove (cl : Nat) (s : State) (y : Nat × Access × Nat × Option Nat) : State :=
  let a := y.2.1
  let s1 := match y.2.2.2 with | some l => touchFor s cl a.slot a.tile l | none => s
  let c := clAt s cl
  let t := tabFind c.tiles a.tile
  let stk := match t with | some x => x.staked.isSome | none => false
  if a.kind = 2 then
    if stk then frontAnswer s1 a.slot a.leaf a.tile 1
    else if 64 ≤ (stakedSlots (clAt s1 cl)).length then frontAnswer s1 a.slot a.leaf a.tile 2
    else
      let job := match drillAt s1 a.slot with | some d => d.job | none => 0
      frontAnswer (onCl s1 cl (fun k => match tabFind k.tiles a.tile with
        | some x => { k with tiles := tabPut k.tiles a.tile { x with staked := some job } }
        | none => k)) a.slot a.leaf a.tile 0
  else if a.kind = 3 then frontAnswer s1 a.slot a.leaf a.tile (if t.isNone then 3 else if stk then 0 else 1)
  else if a.kind = 4 then frontAnswer s1 a.slot a.leaf a.tile 0
  else s1
/-- A TUNSTAKE ends the stake before it touches its tile (R259). -/
def endStake (cl : Nat) (s : State) (y : Nat × Access × Nat × Option Nat) : State :=
  if y.2.1.kind = 3 ∧ y.2.2.2.isSome then onCl s cl (fun k => match tabFind k.tiles y.2.1.tile with
    | some x => { k with tiles := tabPut k.tiles y.2.1.tile { x with staked := none } }
    | none => k)
  else s
/-- TDIST answers by the slot at the end of the step. -/
def frontDist (cl : Nat) (s : State) (y : Nat × Access × Nat × Option Nat) : State :=
  let a := y.2.1
  if a.kind = 1 then frontAnswer s a.slot a.leaf a.tile (match tabFind (clAt s cl).tiles a.tile with | some t => t.pos | none => minusOne) else s
/-- Moves by ascending rank; a stake ends with its own touch, whose answer was judged before it ended. -/
def frontEnd (cl : Nat) (s : State) (adm : List (Nat × Access × Nat × Option Nat)) : State :=
  let s1 := adm.foldl (fun u y =>
    if y.2.1.kind = 3 ∧ y.2.2.2.isSome then
      frontAnswer (match y.2.2.2 with | some l => touchFor (endStake cl u y) cl y.2.1.slot y.2.1.tile l | none => u) y.2.1.slot y.2.1.leaf y.2.1.tile 0
    else frontMove cl u y) s
  adm.foldl (frontDist cl) s1
/-- TENDRIL_STEP: one step, whose accesses join the locator's order by rank, then by join (R252) of a cluster's front (spec 12, R244, R248). The drills whose accesses were admitted issue again. -/
def execTendrilStep (cl : Nat) (s : State) : Host.Outcome State Fault Refusal :=
  let c := clAt s cl
  let cores := coresFrom cl c.ptr
  let p := cores.filter (fun k => !(coreAt s k).queue.isEmpty)
  let a := (p.filter (fun k => decide (8 ≤ (coreAt s k).lost))).foldl (fun l k => insertLost s k l) []
  let b := p.filter (fun k => decide ((coreAt s k).lost < 8))
  let s0 := (cores.filter (fun k => (coreAt s k).queue.isEmpty && decide ((coreAt s k).lost ≠ 0))).foldl (fun u k => onLost u k (fun _ => 0)) s
  let f := b.foldl (frontCore cl false) (a.foldl (frontCore cl true) { s := s0 })
  let ranked := ((below 4).flatMap (fun r => f.adm.filter (fun y => decide (y.2.2.1 = r ∧ y.2.1.kind = 0)))).map (fun y => (y.2.1.slot, y.2.1.leaf, y.2.1.tile))
  let s1 := frontEnd cl (onCl f.s cl (fun k => { k with order := k.order ++ ranked })) f.adm
  let s2 := onCl s1 cl (fun k => { k with stepNo := k.stepNo + 1, ptr := (match f.last with | some l => (l + 1) % 48 | none => k.ptr) })
  let s3 := if (cores.any (fun k => !(coreAt s2 k).queue.isEmpty)) then post s2 (.tendrilStep cl) else s2
  .next (wake s3 (fun w => decide (w = .access)))

/-- TILE_LAND: the tile lands and its buffer has been applied (spec 12, R253). -/
def execTileLand (cl tile : Nat) (s : State) : Host.Outcome State Fault Refusal :=
  .next (onCl s cl (fun c => match tabFind c.tiles tile with
    | some t => if t.moving then { c with stepNo := max c.stepNo t.land, tiles := tabPut c.tiles tile { t with moving := false, chase := [] } } else c
    | none => c))

/-! ## Fills and write-backs -/

/-- A line arrives in a private tile: memory never overwrites a later store (spec 12, R254). -/
def fillCopy (x : LineCopy) (data : Vec) (psn : BitVec 4) : LineCopy :=
  let keep := x.dirty ||| x.have'
  let full (k : Nat) : Bool := decide (bitsOf keep.toNat (32 * k) 32 = 2 ^ 32 - 1)
  let psn' : BitVec 4 := BitVec.ofNat 4 (packFields 1 (fun k => if bitOf (if full k then x.psn else psn ||| x.psn).toNat k then 1 else 0) 4)
  { x with data := mergeBytes keep x.data data, have' := BitVec.allOnes 128, psn := psn' }
/-- Bytes of a line written back below the clusters: into the copy of the hub that owns the line outside its home, else into memory. A
partly written sector keeps its poison (spec 23, R388). -/
def belowPut (s : State) (line : Nat) (m : BitVec 128) (x : Vec) (psn : BitVec 4) : State :=
  let full (k : Nat) : Bool := decide (bitsOf m.toNat (32 * k) 32 = 2 ^ 32 - 1)
  let mix (old : BitVec 4) : BitVec 4 := BitVec.ofNat 4 (packFields 1 (fun k => if bitOf (if full k then psn else if bitsOf m.toNat (32 * k) 32 = 0 then old else old ||| psn).toNat k then 1 else 0) 4)
  match hubOwner s line with
  | some _ =>
    { s with dies := s.dies.map (fun d => if d.1 = homeOf s (line * 128) then d else (d.1, { d.2 with lines := d.2.lines.map (fun y =>
      if y.1 = line ∧ (y.2.st = .m ∨ y.2.st = .o) then (y.1, { y.2 with data := mergeBytes m x y.2.data, psn := mix y.2.psn }) else y) })) }
  | none =>
    let old : BitVec 4 := BitVec.ofNat 4 (packFields 1 (fun k => if decide (4 * line + k ∈ s.psn) then 1 else 0) 4)
    let s1 := memLinePut s line m x psn
    { s1 with psn := (below 4).foldl (fun q k => psnSet q (4 * line + k) (bitOf (mix old).toNat k)) s1.psn }

/-- TILE_WRITEBACK_ACK: memory has taken the lines of a tile that left, and the buffer is free (spec 12, R255). -/
def execTileWritebackAck (cl tile : Nat) (s : State) : Host.Outcome State Fault Refusal :=
  let lines := tabGet [] (clAt s cl).wback tile
  let s1 := onCl s cl (fun k => { k with wback := tabDel k.wback tile })
  let s2 := lines.foldl (fun u y => belowPut u y.1 y.2.dirty y.2.data y.2.psn) s1
  .next (wake s2 (fun w => decide (w = .retire) || onLine w))

end Sys2Proof.Machine
end

