-- ==== Sys2Proof/Machine/Hub.lean ====
section
/-!
DEFINITION. What a die hub does for its clusters: rights to lines, stamps, fills and renewals, verdicts on cloche entries, drift, region
merges, reclassification of pages, shootdown of translations, rebase (spec 15, R266 to R272; 16, R288 to R291; 17, R312; 26, R415, R416;
31, R467). -/
namespace Sys2Proof.Machine

/-- A message arrives before those in flight: it had been held. -/
def postFront (s : State) (l : List Msg) : State := { s with agenda := l ++ s.agenda }
/-- The line a held message waits for. -/
def msgLine (s : State) (m : Msg) : Option Nat :=
  match m with
  | .hubFill _ l _ _ _ => some l
  | .hubRenewal _ l _ _ _ _ => some l
  | .tileFillReturn _ _ l => some l
  | .clocheVerify _ _ l _ _ _ => some l
  | .hubStoreStamp id => (tabFind s.stores id).map (·.line)
  | .homeAtomic id => (tabFind s.remotes id).map (fun r => r.pa / 128)
  | _ => none
def heldFor (s : State) (die line : Nat) : Bool := (dieAt s die).held.any (fun m => decide (msgLine s m = some line))

/-- The state in which a die hub holds a line (spec 26, Table 26.1). A home with no record of a line of its own memory holds it in E while
its directory has no entry for the line, in S while all holders are in S, and in I otherwise (log 5). -/
def hubState (s : State) (die line : Nat) : LineSt :=
  match tabFind (dieAt s die).lines line with
  | some h => h.st
  | none =>
    if die ≠ homeOf s (line * 128) ∨ tierOf (line * 128) = some 2 then .i
    else match tabFind (dieAt s die).dir line with
      | none => .e
      | some e => if e.owner.isSome then .i else .s
/-- F of R427. -/
def channelHash (pa : Nat) : Nat := bitsOf pa 9 16 ^^^ bitsOf pa 25 16 ^^^ bitsOf pa 41 11
/-- The channel of a physical address: canopy 0 to 255, HBM channel c as 256 + c (spec 27, R427). -/
def channelOf (pa : Nat) : Option Nat :=
  if inHubWindow pa then none
  else match tierOf pa with
    | some 0 => some (channelHash pa % 256)
    | some 1 => some (256 + channelHash pa % 192)
    | _ => none
/-- A line of a lost canopy, or of a channel one of whose risers is lost (spec 24, R405; 27, Table 27.1). -/
def lostLine (s : State) (line : Nat) : Bool :=
  s.lostParts.any (fun p => match p with
    | .canopy die => decide (tierOf (line * 128) = some 0 ∧ homeOf s (line * 128) = die)
    | .riser die r => decide (tierOf (line * 128) = some 0 ∧ homeOf s (line * 128) = die ∧ channelOf (line * 128) = some (r / 16))
    | .sramBank _ _ => false)
/-- Whether a die answers for a line at all: its home die, the ports to it and the parts that hold it are up (spec 26, R422; 29, R455; 24, R405). -/
def reachable (s : State) (line : Nat) : Bool :=
  let h := homeOf s (line * 128)
  !(dieAt s h).failed && !lostLine s line && (decide (tierOf (line * 128) ≠ some 2) || decide (h ∈ s.cxlUp))
/-- The line's data and poison as a hub with a right to it sees them; a line that cannot be reached reads as poison. -/
def hubData (s : State) (die line : Nat) : Vec × BitVec 4 :=
  if !reachable s line then (0, 15)
  else match (if die = homeOf s (line * 128) then none else tabFind (dieAt s die).lines line) with
    | some h => (h.data, h.psn)
    | none => (freshLine s line, freshLinePsn s line)
/-- A hub without the right an operation needs sends for it, and holds the operation until it has come (spec 26, R413, R416). -/
def needRight (s : State) (die line : Nat) (own : Bool) (m : Msg) : Option State :=
  let st := hubState s die line
  let ok := decide (st = .m ∨ st = .e) || (!own && decide (st ≠ .i))
  let waiting := heldFor s die line
  if !reachable s line then none
  else if ok && !waiting then none
  else
    let s1 := onDie s die (fun d => { d with held := d.held ++ [m] })
    some (if waiting then s1 else post s1 (if own then (if st = .i then .rdx line die else .upg line die) else .rds line die))
/-- A home that serves its own clusters is from then on a holder like any other (spec 26, R411). -/
def holdLine (s : State) (die line : Nat) : State :=
  let st := hubState s die line
  if die = homeOf s (line * 128) ∧ (tabFind (dieAt s die).lines line).isNone ∧ st ≠ .i then
    onDie s die (fun d => { d with lines := tabPut d.lines line { st := st, data := 0 } })
  else s
/-- The operations that a hub held for a line go on, before anything in flight. -/
def releaseHeld (s : State) (die line : Nat) : State :=
  let l := (dieAt s die).held.filter (fun m => decide (msgLine s m = some line))
  postFront (onDie s die (fun d => { d with held := d.held.filter (fun m => !decide (msgLine s m = some line)) })) l
/-- A stamp above the limit waits for a rebase, which the hub asks for (spec 15, R269). -/
def exhaust (s : State) (die : Nat) (m : Msg) : State :=
  let s1 := onDie s die (fun d => { d with held := d.held ++ [m], exhausted := true })
  if (dieAt s die).exhausted then s1 else notify s1 (.stampExhaustion die)

/-! ## Stores and their stamps (spec 15, R268; 05, R109) -/

/-- The hub takes a store's bytes into the line, in M. -/
def hubTake (s : State) (die line : Nat) (m : BitVec 128) (x : Vec) (psn : BitVec 4) : State :=
  let s1 := onDie s die (fun d => match tabFind d.lines line with
    | some h => { d with lines := tabPut d.lines line { h with st := .m } }
    | none => d)
  belowPut s1 line m x psn
/-- HUB_STORE_STAMP: a store reaches the hub, which stamps it once it holds the line in M; a store to a failed home is dropped and its
release completes with HS_d + 1 (spec 26, R422). -/
def execHubStoreStamp (id : Nat) (s : State) : Host.Outcome State Fault Refusal :=
  match tabFind s.stores id with
  | none => .next s
  | some p =>
    let die := dieOfCl p.cl
    match needRight s die p.line true (.hubStoreStamp id) with
    | some t => .next t
    | none =>
      let s := holdLine s die p.line
      let (d1, r) := hubOp (dieAt s die) p.cl p.line true
      let w := if reachable s p.line then max (r.rts + 1) p.dt else d1.hs + 1
      if stampLimit < w then .next (exhaust s die (.hubStoreStamp id))
      else
        let s1 := putDie s die (raiseHs (regionPut d1 { r with wts := w, rts := w }) w)
        let s2 := if reachable s p.line then hubTake s1 die p.line p.bytes p.data p.psn else s1
        .next (post s2 (.stampResponse id w r.wts))

/-- A line copy of a cluster changed, where it stands. -/
def onCopy (s : State) (cl line : Nat) (f : LineCopy → LineCopy) : State :=
  onCl s cl (fun c => match tabFind c.tiles (line / 16) with
    | some t => (match tabFind t.lines line with
        | some x => { c with tiles := tabPut c.tiles (line / 16) { t with lines := tabPut t.lines line (f x) } }
        | none => c)
    | none => c)
def copyAt (s : State) (cl line : Nat) : Option LineCopy :=
  match tabFind (clAt s cl).tiles (line / 16) with
  | some t => tabFind t.lines line
  | none => none
/-- Bytes of a line that stores of a cluster still on their way have written. -/
def pendingBytes (s : State) (cl line : Nat) : BitVec 128 :=
  s.stores.foldl (fun m p => if p.2.cl = cl ∧ p.2.line = line then m ||| p.2.bytes else m) 0
/-- Destinations that have counted down and wait for the requests of their phase try their lines again (spec 10, R201). -/
def raiseLines (s : State) : State :=
  let open' := s.objs.filter (fun o => decide (o.2.lvl = 3) && !o.2.complete && !o.2.root)
  open'.foldl (fun t o => (below o.2.dests.length).foldl (fun u i => match o.2.dests[i]? with
    | some (0, 0, _, false) => post u (.phaseLineRaise o.1 i)
    | _ => u) t) s
/-- Words and drills that wait on the stores of a drill go on (spec 15, R274, R284; 06, R135). -/
def storesMoved (s : State) (slot : Nat) : State :=
  let s1 := onDrill s slot (fun d => { d with stemWait := (if d.stemWait = .stores then .none else d.stemWait), leafWait := (if d.leafWait = .stores then .none else d.leafWait) })
  let s2 := raiseLines (settleTrap s1 slot)
  match drillAt s2 slot with
  | some d => if d.stemWait = .exited then post s2 (.drillRetire slot) else if d.stemWait = .unbind then post s2 (.unbind slot) else s2
  | none => s2
/-- STAMP_RESPONSE: the stamp comes back; the copy takes it where no other store came between (spec 15, R268). -/
def execStampResponse (id w wts : Nat) (s : State) : Host.Outcome State Fault Refusal :=
  match tabFind s.stores id with
  | none => .next s
  | some p =>
    let s1 := { s with stores := tabDel s.stores id }
    let s2 := onDrill s1 p.slot (fun d => { d with pstamp := max d.pstamp w })
    let left := pendingBytes s1 p.cl p.line ||| ~~~p.bytes
    let s3 := onCopy s2 p.cl p.line (fun x =>
      let y := { x with pend := x.pend &&& left }
      if x.have' ≠ 0 ∧ x.wts = wts then { y with wts := w, rts := w } else y)
    .next (storesMoved (wake s3 (fun w => onLine w || decide (w = .retire) || (match w with | .shoot _ => true | _ => false))) p.slot)

/-! ## Fills and renewals (spec 15, R267) -/

/-- The region after a lease of a requester runs to DT + LEASE. -/
def leaseRegion (d : Die) (r : Region) (dt lease : Nat) : Die × Region :=
  let r1 := { r with rts := max r.rts (dt + lease) }
  (raiseHs (regionPut d r1) r1.rts, r1)
/-- HUB_FILL. -/
def execHubFill (cl line slot dt lease : Nat) (s : State) : Host.Outcome State Fault Refusal :=
  let die := dieOfCl cl
  match needRight s die line false (.hubFill cl line slot dt lease) with
  | some t => .next t
  | none =>
    let s := holdLine s die line
    let (d1, r) := hubOp (dieAt s die) cl line false
    if stampLimit < max r.rts (dt + lease) then .next (exhaust s die (.hubFill cl line slot dt lease))
    else
      let (d2, r1) := leaseRegion d1 r dt lease
      let (x, p) := hubData s die line
      .next (post (putDie s die d2) (.leaseResponse cl line slot r1.wts r1.rts (some x) p))
/-- HUB_RENEWAL: data only where the wts differs. -/
def execHubRenewal (cl line slot dt lease wts : Nat) (s : State) : Host.Outcome State Fault Refusal :=
  let die := dieOfCl cl
  match needRight s die line false (.hubRenewal cl line slot dt lease wts) with
  | some t => .next t
  | none =>
    let s := holdLine s die line
    let (d1, r) := hubOp (dieAt s die) cl line false
    if stampLimit < max r.rts (dt + lease) then .next (exhaust s die (.hubRenewal cl line slot dt lease wts))
    else
      let (d2, r1) := leaseRegion d1 r dt lease
      let (x, p) := hubData s die line
      .next (post (putDie s die d2) (.leaseResponse cl line slot r1.wts r1.rts (if r1.wts = wts then none else some x) p))
/-- A response reaches a shared copy: pending bytes are merged over the data (spec 15, R268). -/
def leaseCopy (x : LineCopy) (wts rts : Nat) (data : Option Vec) (psn : BitVec 4) : LineCopy :=
  match data with
  | none => if x.wts = wts then { x with rts := max x.rts rts } else x
  | some v =>
    let full (k : Nat) : Bool := decide (bitsOf x.pend.toNat (32 * k) 32 = 2 ^ 32 - 1)
    let p : BitVec 4 := BitVec.ofNat 4 (packFields 1 (fun k => if bitOf psn.toNat k && !full k then 1 else 0) 4)
    { x with data := mergeBytes x.pend x.data v, have' := BitVec.allOnes 128, psn := p, wts, rts }
/-- LEASE_RESPONSE: it reaches the cluster's copy, where the tile still stands. -/
def execLeaseResponse (cl line _slot wts rts : Nat) (data : Option Vec) (psn : BitVec 4) (s : State) : Host.Outcome State Fault Refusal :=
  let s1 := onCl s cl (fun c => match tabFind c.tiles (line / 16) with
    | some t =>
      let x := tabGet { shared := true } t.lines line
      if x.shared then { c with tiles := tabPut c.tiles (line / 16) { t with lines := tabPut t.lines line (leaseCopy x wts rts data psn) } } else c
    | none => c)
  .next (wake s1 onLine)
/-- TILE_FILL_RETURN: memory returns a line of a private tile, which the die hub holds for the cluster (spec 12, R254; 26, R411). -/
def execTileFillReturn (cl tile line : Nat) (s : State) : Host.Outcome State Fault Refusal :=
  let die := dieOfCl cl
  match needRight s die line true (.tileFillReturn cl tile line) with
  | some t => .next t
  | none =>
    let (x, p) := if reachable s line then (freshLine s line, freshLinePsn s line) else (0, 15)
    let s1 := onCl s cl (fun c => match tabFind c.tiles tile with
      | some t =>
        let y := tabGet {} t.lines line
        if y.shared then c else { c with tiles := tabPut c.tiles tile { t with lines := tabPut t.lines line (fillCopy y x p) } }
      | none => c)
    .next (wake s1 onLine)

/-! ## The cloche (spec 16, R288 to R291) -/

/-- CLOCHE_VERIFY: one hub operation confirms or strikes. -/
def execClocheVerify (core ent line wts dt lease : Nat) (s : State) : Host.Outcome State Fault Refusal :=
  let die := core / 192
  let cl := clusterOfCore core
  let m : Msg := .clocheVerify core ent line wts dt lease
  match needRight s die line false m with
  | some t => .next t
  | none =>
    let s := holdLine s die line
    let (d1, r) := hubOp (dieAt s die) cl line false
    if stampLimit < max r.rts (dt + lease) then .next (exhaust s die m)
    else
      let (d2, r1) := leaseRegion d1 r dt lease
      let (x, p) := hubData s die line
      let struck := decide (r.wts ≠ wts)
      let s1 := post (putDie s die d2) (.leaseResponse cl line (16 * core) r1.wts r1.rts (if struck then some x else none) p)
      .next (post s1 (.clocheVerdict core ent line wts struck))
/-- Whether a CHK of the drill can complete. -/
def chkPost (s : State) (slot : Nat) : State :=
  match drillAt s slot with
  | some d => (match d.stemWait with | .chk .. => post s (.chkResolve slot) | _ => s)
  | none => s
/-- CLOCHE_VERDICT: it reaches its entry, or is discarded. -/
def execClocheVerdict (core ent _line wts : Nat) (struck : Bool) (s : State) : Host.Outcome State Fault Refusal :=
  match tabFind (coreAt s core).cloche ent with
  | none => .next s
  | some e =>
    if e.state ≠ 1 then .next s
    else
      let slot := 16 * core + e.ctx
      let ev := event s slot 4 (e.line * 128 + (if struck then 1 else 0)) (fun v => decide (v / 128 = e.line))
      let s := ev.1
      let struck := bitOf ev.2 0
      let s1 := onCore s core (fun c => { c with cloche := (if struck then tabPut c.cloche ent { e with state := 2 } else tabDel c.cloche ent) })
      let s2 := if struck then s1 else onDrill s1 slot (fun d => { d with lstamp := max d.lstamp wts })
      .next (chkPost (wake s2 (fun w => decide (w = .verdicts))) slot)
/-- Cloche entries of a drill leave. -/
def dropEntries (s : State) (slot : Nat) (p : Nat × ClEntry → Bool) : State :=
  wake (onCore s (coreOf slot) (fun c => { c with cloche := c.cloche.filter (fun e => !(decide (e.2.ctx = ctxOf slot) && p e)) })) (fun w => decide (w = .verdicts))
/-- CHK_RESOLVE: no entry of S is unresolved; struck entries take the branch, and every entry of S is freed (spec 16, R291). -/
def execChkResolve (slot : Nat) (s : State) : Host.Outcome State Fault Refusal :=
  match drillAt s slot with
  | none => .next s
  | some d =>
    match d.stemWait with
    | .chk ents taken fall =>
      let es := (coreAt s (coreOf slot)).cloche.filter (fun e => decide (e.1 ∈ ents))
      if es.any (fun e => decide (e.2.state = 1)) then .next s
      else
        let struck := es.any (fun e => decide (e.2.state = 2))
      if struck && !stemTargetOk s d taken.toNat then .next (stemTrap s slot cFetch (taken.setWidth 64))
      else
        let dest := if struck then taken else fall
        let s1 := dropEntries s slot (fun e => decide (e.1 ∈ ents))
        .next (onDrill s1 slot (fun d => { passWord d false 0 true [] with pc := dest, ovf := false, stemWait := .none, wake := false, wkind := 0 }))
    | _ => .next s

/-! ## Drift, merges, rebase -/

/-- DT_DRIFT: 1,024 cycles of a bound drill (spec 15, R266). -/
def execDtDrift (slot : Nat) (s : State) : Host.Outcome State Fault Refusal := .next (onDrill s slot (fun d => { d with dt := d.dt + 1 }))
/-- REGION_MERGE: two sibling halves without a conflict for 4,096 operations become one (spec 15, R272). -/
def execRegionMerge (die base size : Nat) (s : State) : Host.Outcome State Fault Refusal :=
  let d := dieAt s die
  match d.regions.find? (fun r => decide (r.base = base ∧ r.size = size)), d.regions.find? (fun r => decide (r.base = base + size ∧ r.size = size)) with
  | some a, some b =>
    if siblings a b ∧ 4096 ≤ d.ops - a.lastConflict ∧ 4096 ≤ d.ops - b.lastConflict then
      .next (putDie s die { d with regions := mergeRegions a b :: d.regions.filter (fun r => decide (r.base ≠ a.base ∧ r.base ≠ b.base)) })
    else .next s
  | _, _ => .next s
/-- STAMP_REBASE (spec 31, R467): while drills of the die are bound they are pre-empted; once none is, every stamp of the die is 1. -/
def execStampRebase (die : Nat) (s : State) : Host.Outcome State Fault Refusal :=
  let bound := s.drills.filter (fun e => decide (dieOf e.1 = die))
  if !bound.isEmpty then
    .next (bound.foldl (fun t e => post (onDrill t e.1 (fun d => { d with preempt := some (d.preempt.getD 0) })) (.preemptionTrap e.1)) s)
  else
    let s0 := (dieAt s die).saves.foldl (fun t a => coherentWrite t a 8 1) s
    let d := dieAt s0 die
    let s1 : State := { s0 with
      clusters := s0.clusters.map (fun c => if dieOfCl c.1 = die then (c.1, { c.2 with tiles := c.2.tiles.map (fun t => (t.1, { t.2 with lines := t.2.lines.filter (fun y => !y.2.shared) })) }) else c),
      objs := s0.objs.map (fun o => if o.2.die = die then (o.1, { o.2 with stamp := 1 }) else o) }
    let one := d.regions.map (fun r => { r with wts := 1, rts := 1 })
    .next (postFront (putDie s1 die { d with regions := one, hs := 1, exhausted := false, held := [], tray := d.tray.map (fun e => { e with dt := 1 }) }) d.held)

/-! ## Shootdown and reclassification (spec 17, R312; 15, R271) -/

/-- Whether a cached page overlaps [lo, lo + len); len 0 names every page. -/
def transOverlaps (t : Trans) (lo len : Nat) : Bool := decide (len = 0 ∨ (t.page * 2 ^ t.shift < lo + len ∧ lo < (t.page + 1) * 2 ^ t.shift))
/-- Translations of a job that overlap a range leave the caches of the cores that p accepts, and those of the dies that q accepts. -/
def dropTrans (s : State) (p q : Nat → Bool) (job lo len : Nat) : State :=
  let f (l : List Trans) : List Trans := l.filter (fun t => !(decide (t.job = job) && transOverlaps t lo len))
  { s with
    cores := s.cores.map (fun c => if p c.1 then (c.1, { c.2 with tcache := f c.2.tcache }) else c),
    dies := s.dies.map (fun d => if q d.1 then (d.1, { d.2 with tcache := f d.2.tcache }) else d) }
/-- Translations through one table entry leave every cache. -/
def dropPte (s : State) (pte : Nat) : State :=
  let f (l : List Trans) : List Trans := l.filter (fun t => decide (t.pte ≠ some pte))
  { s with cores := s.cores.map (fun c => (c.1, { c.2 with tcache := f c.2.tcache })), dies := s.dies.map (fun d => (d.1, { d.2 with tcache := f d.2.tcache })) }
/-- The tiles of a physical range leave the Tendril of a cluster, their dirty lines written back (spec 15, R271 step 2). -/
def expelTiles (s : State) (cl lo hi : Nat) : State :=
  let c := clAt s cl
  let inRange (t : Nat) : Bool := decide (lo ≤ t * 2048 ∧ t * 2048 < hi)
  let dirty := (c.tiles.filter (fun t => inRange t.1)).flatMap (fun t => t.2.lines.filter (fun y => decide (y.2.dirty ≠ 0) && !y.2.shared))
    ++ (c.wback.filter (fun t => inRange t.1)).flatMap (fun t => t.2)
  let s1 := putCl s cl { c with tiles := c.tiles.filter (fun t => !inRange t.1), wback := c.wback.filter (fun t => !inRange t.1) }
  dirty.foldl (fun u y => belowPut u y.1 y.2.dirty y.2.data y.2.psn) s1
/-- Every region of a die that overlaps a physical range takes wts := rts := HS_d + 1. -/
def restampRange (d : Die) (lo hi : Nat) : Die :=
  let h := d.hs + 1
  if d.regions.any (fun r => decide (r.base < hi ∧ lo < r.base + r.size)) then
    { d with hs := h, regions := d.regions.map (fun r => if r.base < hi ∧ lo < r.base + r.size then { r with wts := h, rts := h } else r) }
  else d
/-- Frame and size of the page of a table entry. -/
def pteRange (s : State) (pte : Nat) : Nat × Nat :=
  let w0 := freshRead s pte 8
  let w1 := freshRead s (pte + 8) 8
  let lo := bitsOf w1 16 36 * 2 ^ 16
  (lo, lo + 2 ^ shiftOf (bitsOf w0 61 2))
/-- The steps of R271 on a private page that has an owner. -/
def reclassify (s : State) (pte : Nat) : State :=
  let w1 := freshRead s (pte + 8) 8
  let owner := bitsOf w1 55 4
  let (lo, hi) := pteRange s pte
  let s1 := expelTiles s owner lo hi
  let s2 := dropPte (coherentWrite s1 (pte + 8) 8 (w1 + 2 ^ 60)) pte
  onDie s2 (dieOfCl owner) (fun d => restampRange d lo hi)
/-- PAGE_RECLASSIFY: a private page becomes shared (spec 15, R271). It waits for accesses already admitted and for a migration. -/
def execPageReclassify (pte : Nat) (s : State) : Host.Outcome State Fault Refusal :=
  let w1 := freshRead s (pte + 8) 8
  let (lo, hi) := pteRange s pte
  if bitOf w1 60 ∨ !bitOf w1 59 then .next (wake s onLine)
  else if bitOf w1 63 then .next s
  else if (clAt s (bitsOf w1 55 4)).order.any (fun a => decide (lo ≤ a.2.2 * 2048 ∧ a.2.2 * 2048 < hi)) then .next s
  else .next (wake (reclassify s pte) onLine)

end Sys2Proof.Machine
end

