-- ==== Sys2Proof/Machine/Coherence.lean ====
section
/-!
DEFINITION. The home directory and the protocol between die hubs and the host (spec 26, R409 to R422; 29, R446 to R450, R455). Agents 0
to 3 are the die hubs, 4 the host; 5 stands for the host's completion of a device request. -/
namespace Sys2Proof.Machine

/-! ## The directory -/

def dirAt (s : State) (line : Nat) : DirEnt := tabGet {} (dieAt s (homeOf s (line * 128))).dir line
/-- An entry is kept while an agent other than the home holds the line (spec 26, R412). -/
def dirPut (s : State) (line : Nat) (e : DirEnt) : State :=
  onDie s (homeOf s (line * 128)) (fun d => { d with dir := if e.holders = 0 then tabDel d.dir line else tabPut d.dir line { e with used := s.nextId } })
def hasBit (m : BitVec 5) (a : Nat) : Bool := bitOf m.toNat a
def setBit (m : BitVec 5) (a : Nat) : BitVec 5 := m ||| BitVec.ofNat 5 (2 ^ a)
def clearBit (m : BitVec 5) (a : Nat) : BitVec 5 := m &&& ~~~(BitVec.ofNat 5 (2 ^ a))
/-- The state in which the home knows an agent to hold a line. -/
def agentState (s : State) (line a : Nat) : LineSt :=
  let h := homeOf s (line * 128)
  if a = h then (match tabFind (dieAt s h).lines line with | some x => x.st | none => .i)
  else
    let e := dirAt s line
    match e.owner with
    | some (o, st) => if o = a then st else if hasBit e.holders a then .s else .i
    | none => if hasBit e.holders a then .s else .i
def isOwner (st : LineSt) : Bool := decide (st = .m ∨ st = .o ∨ st = .e)
/-- An agent holds nothing any more. -/
def dirDrop (s : State) (line a : Nat) : State :=
  let e := dirAt s line
  let own := match e.owner with | some (o, _) => decide (o = a) | none => false
  if a = homeOf s (line * 128) then s
  else if hasBit e.holders a then dirPut s line { e with holders := clearBit e.holders a, owner := (if own then none else e.owner) } else s
/-- An agent holds the line in a state; M and E leave no other holder. -/
def dirHold (s : State) (line a : Nat) (st : LineSt) : State :=
  let e := dirAt s line
  if a = homeOf s (line * 128) then (if st = .m ∨ st = .e then dirPut s line {} else s)
  else if st = .m ∨ st = .e then dirPut s line { e with holders := setBit 0 a, owner := some (a, st) }
  else if st = .o then dirPut s line { e with holders := setBit e.holders a, owner := some (a, .o) }
  else dirPut s line { e with holders := setBit e.holders a, owner := (match e.owner with | some (o, x) => if o = a then none else some (o, x) | none => none) }
def busyAt (s : State) (line : Nat) : Option Busy := tabFind (dieAt s (homeOf s (line * 128))).busy line
def putBusy (s : State) (line : Nat) (b : Busy) : State := onDie s (homeOf s (line * 128)) (fun d => { d with busy := tabPut d.busy line b })
/-- The request on a line is over; what waits at the home is served in arrival order. -/
def finishReq (s : State) (line : Nat) : State :=
  let h := homeOf s (line * 128)
  let w := (dieAt s h).waiting
  postFront (onDie s h (fun d => { d with busy := tabDel d.busy line, waiting := [] })) w
/-- Lines of one set of the snoop filter (spec 26, R412). -/
def filterSet (d : Die) (line : Nat) : List (Nat × DirEnt) := d.dir.filter (fun e => decide (e.1 % 2 ^ 18 = line % 2 ^ 18))
/-- The least recently requested way of a full set, when an entry for the line would need its place (spec 26, R419). -/
def victimOf (s : State) (line y : Nat) : Option Nat :=
  let h := homeOf s (line * 128)
  let d := dieAt s h
  let ways := filterSet d line
  if y = h ∨ (tabFind d.dir line).isSome ∨ ways.length < 16 then none
  else match ways.filter (fun e => (tabFind d.busy e.1).isNone) with
    | [] => some line
    | w :: ws => some (ws.foldl (fun a e => if e.2.used < a.2.used then e else a) w).1

/-! ## Hub copies -/

/-- A hub gains a line; it takes the state it is given, keeps data it already holds, and stamps the region anew for data received
(spec 26, R415). -/
def hubGain (s : State) (line die : Nat) (st : LineSt) (x : Vec) (psn : BitVec 4) (fresh : Bool) : State :=
  let s1 := if die = homeOf s (line * 128) ∧ fresh = true ∧ st = .m then memLinePut s line (BitVec.allOnes 128) x psn else s
  match tabFind (dieAt s die).lines line with
  | some old => onDie s1 die (fun d => { d with lines := tabPut d.lines line { old with st := st } })
  | none =>
    onDie s1 die (fun d =>
      let d1 := { d with lines := tabPut d.lines line { st := st, data := x, psn := psn } }
      if fresh then restamp d1 line else d1)
/-- A holder writes its dirty data back and goes to a lower state, stamping the region where that loses a right (spec 26, R415). -/
def hubLower (s : State) (line die : Nat) (st : LineSt) : State :=
  if st = .i then hubLose s die line
  else match tabFind (dieAt s die).lines line with
    | none => s
    | some h =>
      let s1 := if (h.st = .m ∨ h.st = .o) ∧ die ≠ homeOf s (line * 128) then memLinePut s line (BitVec.allOnes 128) h.data h.psn else s
      onDie s1 die (fun d =>
        let d1 := { d with lines := tabPut d.lines line { h with st := st } }
        if h.st = .e ∨ h.st = .m then restamp d1 line else d1)
/-- What memory holds of a line, for the home to send: poison where it cannot be reached. -/
def homeData (s : State) (line : Nat) : Vec × BitVec 4 := if reachable s line then (freshLine s line, freshLinePsn s line) else (0, 15)

/-! ## Serving a request (spec 26, Table 26.2; 29, Table 29.2) -/

/-- Data goes to the requester from memory, or the home takes its own right with nothing re-stamped. -/
def sendData (s : State) (line y : Nat) (st : LineSt) : State :=
  let (x, p) := homeData s line
  if y = homeOf s (line * 128) then
    releaseHeld (finishReq (hubGain (dirHold s line y st) line y st x p (decide (tierOf (line * 128) = some 2))) line) y line
  else match busyAt s line with
    | some b => post (putBusy s line { b with sent := true, await := [y] }) (.coherenceData line y st x p)
    | none => s
/-- A mailbox line of the home die (spec 29, R456). -/
def mailboxLine (s : State) (line : Nat) : Bool :=
  let b := (dieAt s (homeOf s (line * 128))).mailBase
  decide (b ≠ 0 ∧ b ≤ line * 128 ∧ line * 128 < b + 16384 ∧ (line * 128 - b) % 256 = 0)
/-- The host receives a line from memory: the dies' dirty data has been written back (spec 26, R420). A mailbox line that it obtains in E is
asked back by a BISnpData (spec 29, R456). -/
def sendHost (s : State) (line : Nat) (st : LineSt) : State :=
  let (x, p) := homeData s line
  let s1 := if st = .i then s else dirHold s line 4 st
  let s2 := finishReq (notify s1 (.toHost line x p)) line
  if st = .e ∧ mailboxLine s line then notify (putBusy s2 line { kind := 9, req := 4, await := [4] }) (.biSnp line 1) else s2
/-- Invalidations go out to agents: Inv to dies, BISnpInv to the host (spec 29, R448). -/
def sendInvs (s : State) (line y : Nat) (l : List Nat) : State :=
  l.foldl (fun t a => if a = 4 then notify t (.biSnp line 0) else post t (.inv line a y)) s
/-- The next action of the home on the request in progress, when nobody has still to answer. -/
def homeServe (s : State) (line : Nat) : State :=
  let h := homeOf s (line * 128)
  match busyAt s line with
  | none => s
  | some b =>
    let y := b.req
    let others := (below 5).filter (fun a => decide (a ≠ y ∧ agentState s line a ≠ .i))
    let owner := others.find? (fun a => isOwner (agentState s line a))
    let forward (x : Nat) (m : Msg) : State := if x = y then s else post (putBusy s line { b with sent := true, await := [y] }) m
    if b.kind = 9 then finishReq s line
    else if b.kind = 0 then
      match owner with
      | some x =>
        if x = 4 then notify (putBusy s line { b with await := [4] }) (.biSnp line 1)
        else if y = 4 then
          if x = h then sendHost (hubLower s line h (if others = [h] then .i else .s)) line (if others = [h] then .e else .s)
          else sendHost (dirHold (hubLower s line x .s) line x .s) line .s
        else forward x (.fwds line x y)
      | none =>
        if y = 4 then (if others.all (fun a => decide (a = h)) then sendHost (hubLower s line h .i) line .e else sendHost s line .s)
        else sendData s line y (if others.isEmpty && decide (tierOf (line * 128) ≠ some 2 ∨ tabGet .i s.hostSide line ≠ .s) then .e else .s)
    else if b.kind = 1 ∨ b.kind = 2 then
      let invs := others.filter (fun a => decide (y = 4 ∨ a = 4 ∨ some a ≠ owner))
      if !invs.isEmpty then sendInvs (putBusy s line { b with await := invs }) line y invs
      else if y = 4 then sendHost s line .e
      else match owner with
        | some x => forward x (.fwdx line x y)
        | none => sendData s line y .m
    else if b.kind = 3 then
      match owner with
      | some x => sendHost (if agentState s line x = .e ∨ x = 4 then s else (if x = h then hubLower s line x .s else dirHold (hubLower s line x .s) line x .s)) line .i
      | none => sendHost s line .i
    else if b.kind = 4 then
      let invs := others.filter (fun a => decide (a ≠ h))
      if !invs.isEmpty then sendInvs (putBusy s line { b with await := invs }) line y invs
      else
        let s1 := memLinePut s line (BitVec.allOnes 128) b.data 0
        finishReq (onDie (hubGain s1 line h .m b.data 0 false) h (fun d => restamp d line)) line
    else if b.kind = 5 then
      let invs := others.filter (fun a => decide (a ≠ h))
      if !invs.isEmpty then sendInvs (putBusy s line { b with await := invs }) line y invs else finishReq (dirPut s line {}) line
    else
      let invs := others.filter (fun a => decide (a ≠ 4))
      if b.kind = 6 then
        let s1 := invs.foldl (fun t a => dirDrop (hubLower t line a .i) line a) s
        sendHost { s1 with hostSide := tabDel s1.hostSide line } line .i
      else if b.kind = 7 then
        let s1 := invs.foldl (fun t a => if isOwner (agentState t line a) then (let u := hubLower t line a .s; if a = h then u else dirHold u line a .s) else t) s
        sendHost { s1 with hostSide := (if (tabFind s1.hostSide line).isSome then tabPut s1.hostSide line .s else s1.hostSide) } line .i
      else sendHost s line .i
/-- A request reaches the home: it waits for an earlier one on its line, for a place in the filter, or for what the device must first
obtain from the host (spec 26, R413, R419; 29, R449). -/
def request (s : State) (line kind y : Nat) (data : Vec) (m : Msg) : State :=
  let h := homeOf s (line * 128)
  let wait (t : State) : State := onDie t h (fun d => { d with waiting := d.waiting ++ [m] })
  if (busyAt s line).isSome then wait s
  else
    let allocates := decide (kind ≤ 2)
    match (if allocates then victimOf s line y else none) with
    | some v => if v = line ∨ 64 ≤ ((dieAt s h).busy.filter (fun b => decide (b.2.kind = 5))).length then wait s
      else homeServe (wait (putBusy s v { kind := 5, req := h })) v
    | none =>
      let hs := tabGet LineSt.i s.hostSide line
      let need := decide (tierOf (line * 128) = some 2 ∧ kind ≤ 2 ∧ y ≠ 4) && (if kind = 0 then decide (hs = .i) else decide (hs ≠ .m ∧ hs ≠ .e))
      if need then notify (putBusy s line { kind, req := y, await := [5], data }) (.toHostReq line (if kind = 0 then 0 else 1) 0)
      else homeServe (putBusy s line { kind, req := y, data }) line
/-- RDS, RDX, UPG (spec 26, R413). -/
def execRds (line agent : Nat) (s : State) : Host.Outcome State Fault Refusal := .next (request s line 0 agent 0 (.rds line agent))
def execRdx (line agent : Nat) (s : State) : Host.Outcome State Fault Refusal := .next (request s line 1 agent 0 (.rdx line agent))
/-- An Upg whose requester holds the line no longer is served as an RdX (spec 26, R414): the two differ only in the data sent. -/
def execUpg (line agent : Nat) (s : State) : Host.Outcome State Fault Refusal := .next (request s line 2 agent 0 (.upg line agent))
/-- The last die holder has left a host-tier line (spec 29, R449). -/
def leaveHost (s : State) (line : Nat) : State :=
  let any := (below 4).any (fun a => decide (agentState s line a ≠ .i))
  match tabFind s.hostSide line with
  | some st => if any then s else notify { s with hostSide := tabDel s.hostSide line } (.toHostReq line (if st = .m then 2 else 3) (freshLine s line))
  | none => s
/-- WB: an M or O line is written back; a hub that still holds it gives its own data and goes to I (spec 26, R413, R414). -/
def execWb (line agent : Nat) (data : Vec) (psn : BitVec 4) (s : State) : Host.Outcome State Fault Refusal :=
  match tabFind (dieAt s agent).lines line with
  | some h => if h.st = .m ∨ h.st = .o then .next (leaveHost (dirDrop (hubLose s agent line) line agent) line) else .next s
  | none =>
    let st := agentState s line agent
    if st = .m ∨ st = .o ∨ st = .e then .next (leaveHost (dirDrop (memLinePut s line (BitVec.allOnes 128) data psn) line agent) line) else .next s
/-- EVICT: a clean line leaves a hub. -/
def execEvict (line agent : Nat) (s : State) : Host.Outcome State Fault Refusal :=
  match tabFind (dieAt s agent).lines line with
  | some h => if h.st = .e ∨ h.st = .s then .next (leaveHost (dirDrop (hubLose s agent line) line agent) line) else .next s
  | none => .next (leaveHost (dirDrop s line agent) line)
/-- FWDS: E goes to S, M to O, O stays; the data goes to the requester (spec 26, Table 26.2). -/
def execFwds (line holder req : Nat) (s : State) : Host.Outcome State Fault Refusal :=
  match tabFind (dieAt s holder).lines line with
  | none => .next (post s (.coherenceAck line holder true))
  | some h =>
    let st : LineSt := if h.st = .m ∨ h.st = .o then .o else .s
    let (x, p) := if holder = homeOf s (line * 128) then homeData s line else (h.data, h.psn)
    let s1 := onDie s holder (fun d =>
      let d1 := { d with lines := tabPut d.lines line { h with st := st } }
      if h.st = st then d1 else restamp d1 line)
    .next (post (dirHold s1 line holder st) (.coherenceData line req .s x p))
/-- FWDX: the holder sends its data and goes to I. -/
def execFwdx (line holder req : Nat) (s : State) : Host.Outcome State Fault Refusal :=
  match tabFind (dieAt s holder).lines line with
  | none => .next (post s (.coherenceAck line holder true))
  | some h =>
    let (x, p) := if holder = homeOf s (line * 128) then homeData s line else (h.data, h.psn)
    let s1 := onDie s holder (fun d => restamp { d with lines := tabDel d.lines line } line)
    .next (post (dirDrop s1 line holder) (.coherenceData line req .m x p))
/-- INV: the holder goes to I, writing dirty data back, and acknowledges (spec 26, R413, R419). -/
def execInv (line holder _req : Nat) (s : State) : Host.Outcome State Fault Refusal :=
  match tabFind (dieAt s holder).lines line with
  | none => .next (post s (.coherenceAck line holder true))
  | some _ => .next (post (hubLose s holder line) (.coherenceAck line holder false))
/-- COHERENCE_DATA: the data or grant reaches the requester's hub, and the operations it held go on (spec 26, R415, R416). -/
def execCoherenceData (line die : Nat) (st : LineSt) (data : Vec) (psn : BitVec 4) (s : State) : Host.Outcome State Fault Refusal :=
  .next (releaseHeld (post (hubGain s line die st data psn true) (.coherenceAck line die false)) die line)
/-- The requester has acknowledged: the directory takes its state. -/
def closeReq (s : State) (line : Nat) (b : Busy) : State :=
  let st : LineSt := match tabFind (dieAt s b.req).lines line with | some h => h.st | none => .i
  let s1 := if st = .i then s else if b.kind = 0 then dirHold s line b.req st else dirHold s line b.req .m
  let s2 := if tierOf (line * 128) = some 2 ∧ b.kind ≠ 0 then { s1 with hostSide := tabPut s1.hostSide line .m } else s1
  finishReq s2 line
/-- COHERENCE_ACK. -/
def execCoherenceAck (line agent : Nat) (gone : Bool) (s : State) : Host.Outcome State Fault Refusal :=
  match busyAt s line with
  | none => .next s
  | some b =>
    if b.sent then
      if agent = b.req ∧ !gone then .next (closeReq s line b)
      else if gone then .next (homeServe (putBusy (dirDrop s line agent) line { b with sent := false, await := [] }) line)
      else .next s
    else
      let left := b.await.filter (fun a => decide (a ≠ agent))
      let s1 := putBusy (dirDrop s line agent) line { b with await := left }
      .next (if agent ∈ b.await ∧ left.isEmpty then homeServe s1 line else s1)

/-! ## The host (spec 29, R446 to R450, R455) -/

/-- The line of the module that a line of the host's address space names: HDM decoder 0 maps 384 GiB onto HBM, decoder 1 maps 96 GiB onto canopy
(spec 29, R446). -/
def hostLine (s : State) (hostAt : Nat) : Option Nat :=
  let a := hostAt * 128
  if s.mgmt.hdm0 ≤ a ∧ a < s.mgmt.hdm0 + hbmTop then some ((a - s.mgmt.hdm0) / 128)
  else if s.mgmt.hdm1 ≤ a ∧ a < s.mgmt.hdm1 + (canopyTop - canopyBase) then some ((canopyBase + (a - s.mgmt.hdm1)) / 128)
  else none
/-- A host request goes to the line that its address names; one that neither decoder maps completes with poison (spec 29, R446). -/
def hostReq (s : State) (hostAt : Nat) (k : Nat → State → State) : State :=
  match hostLine s hostAt with
  | some line => k line s
  | none => notify s (.toHost hostAt 0 15)
def execHostMemrdS (hostAt : Nat) (s : State) : Host.Outcome State Fault Refusal := .next (hostReq s hostAt (fun line t => request t line 0 4 0 (.hostMemrdS hostAt)))
def execHostMemrdA (hostAt : Nat) (s : State) : Host.Outcome State Fault Refusal := .next (hostReq s hostAt (fun line t => request t line 1 4 0 (.hostMemrdA hostAt)))
def execHostMemrdI (hostAt : Nat) (s : State) : Host.Outcome State Fault Refusal := .next (hostReq s hostAt (fun line t => request t line 3 4 0 (.hostMemrdI hostAt)))
/-- HOST_MEMWR: from a host that holds the line in E or M it is a WB, which goes before a waiting snoop; otherwise the home takes M and writes
the full line. -/
def execHostMemwr (hostAt : Nat) (data : Vec) (s : State) : Host.Outcome State Fault Refusal :=
  .next (hostReq s hostAt (fun line t =>
    if isOwner (agentState t line 4) then dirDrop (memLinePut t line (BitVec.allOnes 128) data 0) line 4
    else request t line 4 4 data (.hostMemwr hostAt data)))
/-- BIRSP: the host's copy is S after a BISnpData and gone after a BISnpInv (spec 29, R448). -/
def execBirsp (line : Nat) (s : State) : Host.Outcome State Fault Refusal :=
  match busyAt s line with
  | none => .next s
  | some b =>
    if 4 ∈ b.await then
      let left := b.await.filter (fun a => decide (a ≠ 4))
      let held := decide (agentState s line 4 ≠ .i)
      let s1 := putBusy (if b.kind = 0 ∨ b.kind = 9 then (if held then dirHold s line 4 .s else s) else dirDrop s line 4) line { b with await := left }
      .next (if left.isEmpty then homeServe s1 line else s1)
    else .next s
/-- Every sector of a line is poisoned in memory. -/
def poisonLine (s : State) (line : Nat) : State := { s with psn := (below 4).foldl (fun p k => psnSet p (4 * line + k) true) s.psn }
/-- BISNP_TIMEOUT: the host's copy is taken as I, and the line is poisoned where the host held it in E or M (spec 29, R448). -/
def execBisnpTimeout (line : Nat) (s : State) : Host.Outcome State Fault Refusal :=
  match busyAt s line with
  | none => .next s
  | some b =>
    if 4 ∈ b.await then
      let left := b.await.filter (fun a => decide (a ≠ 4))
      let s1 := if isOwner (agentState s line 4) then poisonLine s line else s
      let s2 := notify (putBusy (dirDrop s1 line 4) line { b with await := left }) (.hostTimeout line)
      .next (if left.isEmpty then homeServe s2 line else s2)
    else .next s
/-- HOST_CACHE_COMPLETION: the host's data is taken, and the directory action proceeds (spec 29, R449). -/
def execHostCacheCompletion (line : Nat) (data : Vec) (s : State) : Host.Outcome State Fault Refusal :=
  match busyAt s line with
  | none => .next s
  | some b =>
    if b.await = [5] then
      let s1 := if (tabFind s.hostSide line).isSome then s else memLinePut s line (BitVec.allOnes 128) data 0
      let s2 := { s1 with hostSide := tabPut s1.hostSide line (if b.kind = 0 then .s else .e) }
      .next (homeServe (putBusy s2 line { b with await := [] }) line)
    else .next s
/-- Host snoops of host-tier lines (spec 29, R450). -/
def execSnpinv (line : Nat) (s : State) : Host.Outcome State Fault Refusal := .next (request s line 6 4 0 (.snpinv line))
def execSnpdata (line : Nat) (s : State) : Host.Outcome State Fault Refusal := .next (request s line 7 4 0 (.snpdata line))
def execSnpcur (line : Nat) (s : State) : Host.Outcome State Fault Refusal := .next (request s line 8 4 0 (.snpcur line))
/-- Every request that waits on an agent that will not answer goes on without it. -/
def dropAgent (s : State) (a : Nat) : State :=
  let lines := s.dies.flatMap (fun d => (d.2.busy.filter (fun b => decide (a ∈ b.2.await))).map (·.1))
  lines.foldl (fun t l => match busyAt t l with
    | none => t
    | some b =>
      let left := b.await.filter (fun x => decide (x ≠ a))
      if b.sent then finishReq (dirDrop t l a) l
      else
        let t1 := putBusy (dirDrop t l a) l { b with await := left }
        if left.isEmpty then homeServe t1 l else t1) s
/-- A port's link goes down: lines that the host held in E or M through the port are poisoned, its copies are I, and what waits for the host on lines
reached through it goes on (spec 29, R455). The host's copies of a die's lines are taken to be held through that die's port (log 5). -/
def linkDown (s : State) (port : Nat) : State :=
  let s1 := { s with cxlUp := s.cxlUp.filter (fun p => decide (p ≠ port)) }
  let lines := (dieAt s1 port).dir.filter (fun e => hasBit e.2.holders 4)
  let s2 := lines.foldl (fun t e => dirDrop (match e.2.owner with | some (o, _) => if o = 4 then poisonLine t e.1 else t | none => t) e.1 4) s1
  let stuck := ((dieAt s2 port).busy.filter (fun b => decide (4 ∈ b.2.await ∨ 5 ∈ b.2.await))).map (·.1)
  let s3 := stuck.foldl (fun t l => match busyAt t l with
    | some b =>
      let t1 := putBusy t l { b with await := b.await.filter (fun a => decide (a ≠ 4 ∧ a ≠ 5)) }
      (match busyAt t1 l with | some c => if c.await.isEmpty then homeServe t1 l else t1 | none => t1)
    | none => t) s2
  wake s3 onAccess
/-- PORT_LINK_DOWN. -/
def execPortLinkDown (port : Nat) (s : State) : Host.Outcome State Fault Refusal := .next (linkDown s port)

end Sys2Proof.Machine
end

