-- ==== Sys2Proof/Machine/MemPath.lean ====
section
/-!
DEFINITION. How a word reaches memory and the bench: address checks, the front, the performing of loads, stores and atomics on a tile,
stale loads, engine accesses, bench places and bench maps (spec 06, R121; 08, R159; 12, R245 to R254; 15, R267, R268; 16, R285, R287; 17,
R309, R313, R314; 11, R231 to R236). -/
namespace Sys2Proof.Machine

/-! ## Elements -/

/-- What an element of a word does to its bytes. `op` is by Table 11.10, with 9 for CAS. -/
inductive Act where
  | load
  | store (x : Nat)
  | amo (op arg cmp : Nat)
  deriving DecidableEq, Repr
/-- An element of a word: number, physical address, bytes, action. -/
structure El where
  idx : Nat
  pa : Nat
  n : Nat
  act : Act
  deriving DecidableEq, Repr
def isLoad (a : Act) : Bool := match a with | .store _ => false | _ => true
def isStore (a : Act) : Bool := match a with | .load => false | _ => true

/-- Op(old, b) (spec 11, Table 11.10) on w bits. -/
def amoResult (w op old b : Nat) : Nat :=
  if op = 0 then (old + b) % 2 ^ w
  else if op = 1 then old &&& b
  else if op = 2 then old ||| b
  else if op = 3 then old ^^^ b
  else if op = 4 then (if signOf w old ≤ signOf w b then old else b)
  else if op = 5 then (if signOf w old ≤ signOf w b then b else old)
  else if op = 6 then min old b
  else if op = 7 then max old b
  else b
/-- The value an atomic leaves, or none where it writes nothing: a CAS whose comparison fails. -/
def amoWrite (w op old arg cmp : Nat) : Option Nat := if op = 9 then (if old = cmp then some arg else none) else some (amoResult w op old arg)

/-! ## The copies of a cluster -/

/-- The bytes of a line as a cluster's accesses see them: its copy, or the line below with the cluster's own stores on their way laid over
it (spec 12, R251; 15, R268). -/
def lineView (s : State) (cl line : Nat) : Vec × BitVec 4 :=
  match copyAt s cl line with
  | some x => (x.data, x.psn)
  | none => (s.stores.foldl (fun v p => if p.2.cl = cl ∧ p.2.line = line then mergeBytes p.2.bytes p.2.data v else v) (hubData s (dieOfCl cl) line).1,
      if reachable s line then freshLinePsn s line else 15)
/-- Sectors that a mask covers whole. -/
def fullSectors (m : BitVec 128) : List Nat := (below 4).filter (fun k => decide (bitsOf m.toNat (32 * k) 32 = 2 ^ 32 - 1))
/-- Poison after bytes are written: a sector written whole takes the writer's, any other keeps its own (spec 23, R388). -/
def psnMix (m : BitVec 128) (new old : BitVec 4) : BitVec 4 :=
  BitVec.ofNat 4 (packFields 1 (fun k => if bitOf (if k ∈ fullSectors m then new else if bitsOf m.toNat (32 * k) 32 = 0 then old else old ||| new).toNat k then 1 else 0) 4)
/-- Bytes that a store writes past an absent tile stand over those that its write-back buffer still holds (spec 12, R252, R255). -/
def wbackPut (s : State) (cl line : Nat) (m : BitVec 128) (v : Vec) (psn : BitVec 4) : State :=
  onCl s cl (fun c => match tabFind c.wback (line / 16) with
    | some t => (match tabFind t line with
      | some x => { c with wback := tabPut c.wback (line / 16) (tabPut t line { x with data := mergeBytes m v x.data, psn := psnMix m psn x.psn }) }
      | none => c)
    | none => c)
/-- A copy of a line with bytes stored into it: dirty on a private page, pending on a shared one. -/
def storeCopy (shr : Bool) (m : BitVec 128) (v : Vec) (psn : BitVec 4) (x : LineCopy) : LineCopy :=
  let y := { x with data := mergeBytes m v x.data, psn := psnMix m psn x.psn, shared := shr }
  if shr then { y with pend := x.pend ||| m } else { y with dirty := x.dirty ||| m }
/-- The copy of a line in the tile that a cluster holds of it becomes y. -/
def copyPut (s : State) (cl line : Nat) (y : LineCopy) : State :=
  onCl s cl (fun c => match tabFind c.tiles (line / 16) with
    | some t => { c with tiles := tabPut c.tiles (line / 16) { t with lines := tabPut t.lines line y } }
    | none => c)
/-- Bytes of one line are stored by an access of a cluster (spec 12, R251, R254; 15, R268): into its copy, dirty on a private page and
pending on a shared one, and from there, or past an absent tile, towards the hub. -/
def storeLine (s : State) (slot line : Nat) (shr engine : Bool) (dt : Nat) (m : BitVec 128) (v : Vec) (psn : BitVec 4) : State :=
  let cl := clusterOf slot
  let copy := copyAt s cl line
  let hit := (tabFind (clAt s cl).tiles (line / 16)).isSome && (!engine || copy.isSome)
  let s1 := if hit then copyPut s cl line (storeCopy shr m v psn (copy.getD { shared := shr })) else s
  if shr then
    let lease := match drillAt s slot with | some d => d.lease | none => 256
    let miss := hit && (match copy with | some x => decide (x.have' = 0) | none => true)
    let s2 := if miss then post s1 (.hubFill cl line slot dt lease) else s1
    let p : PendStore := { slot, cl, line, bytes := m, data := v, dt, engine, psn }
    post { s2 with nextId := s.nextId + 1, stores := tabPut s2.stores s.nextId p } (.hubStoreStamp s.nextId)
  else if hit then s1 else belowPut (wbackPut s1 cl line m v psn) line m v psn

/-! ## Performing a word on one tile (spec 12, R252) -/

/-- Bytes of a line that the loads, or the stores, of a list of elements name. -/
def elMask (els : List El) (line : Nat) (p : Act → Bool) : BitVec 128 :=
  els.foldl (fun m e => if e.pa / 128 = line ∧ p e.act = true then m ||| byteMask (e.pa % 128) e.n else m) 0
/-- The lines that elements name, by first appearance. -/
def elLines (els : List El) : List Nat := els.foldl (fun l e => if e.pa / 128 ∈ l then l else l ++ [e.pa / 128]) []
/-- The bytes of a mask all lie in another. -/
def maskIn (m n : BitVec 128) : Bool := decide (m &&& ~~~n = 0)
/-- Whether a line may be read now by a drill with this DT, and if not the request to send. `stale` lists the lines whose copy a stale load
may take whatever its lease. -/
def lineReady (s : State) (slot line : Nat) (shr : Bool) (dt lease : Nat) (m : BitVec 128) (stale : List Nat) : Option Msg :=
  let cl := clusterOf slot
  if m = 0 ∨ (tabFind (clAt s cl).tiles (line / 16)).isNone then none
  else match copyAt s cl line with
    | none => some (if shr then .hubFill cl line slot dt lease else .tileFillReturn cl (line / 16) line)
    | some x =>
      if !shr then (if maskIn m (x.have' ||| x.dirty) then none else some (.tileFillReturn cl (line / 16) line))
      else if maskIn m x.pend then none
      else if x.have' = 0 then some (.hubFill cl line slot dt lease)
      else if dt ≤ x.rts ∨ line ∈ stale then none
      else some (.hubRenewal cl line slot dt lease x.wts)
/-- The wts that a read of a shared line returns; a line read past the tile is a hub operation of its own. -/
def readWts (s : State) (cl line : Nat) : State × Nat :=
  match copyAt s cl line with
  | some x => (s, x.wts)
  | none => let (d, r) := hubOp (dieAt s (dieOfCl cl)) cl line false; (putDie s (dieOfCl cl) d, r.wts)
/-- The value and the poisoned sector of an element, as it reads. -/
def elRead (s : State) (cl : Nat) (e : El) : Nat × Option Nat :=
  let (v, p) := lineView s cl (e.pa / 128)
  (bitsOf v.toNat (8 * (e.pa % 128)) (8 * e.n), if bitOf p.toNat (e.pa % 128 / 32) then some (e.pa / 32 * 32) else none)
/-- An atomic performed at the locator (spec 11, R231, R236, R238): poison stops its write. -/
def elAmo (slot : Nat) (shr : Bool) (dt : Nat) (r : State × Tab (Nat × Option Nat)) (e : El) : State × Tab (Nat × Option Nat) :=
  let (s, vals) := r
  let (old, p) := elRead s (clusterOf slot) e
  let vals' := tabPut vals e.idx (old, p)
  match e.act, p with
  | .amo op arg cmp, none => (match amoWrite (8 * e.n) op old arg cmp with
      | some x => (storeLine s slot (e.pa / 128) shr false dt (byteMask (e.pa % 128) e.n) (BitVec.ofNat 1024 (x * 2 ^ (8 * (e.pa % 128)))) 0, vals')
      | none => (s, vals'))
  | _, _ => (s, vals')
/-- The stores of a list of elements to one line as one: later elements stand over earlier ones. -/
def elStoreLine (els : List El) (line : Nat) : BitVec 128 × Vec :=
  els.foldl (fun a e => match e.act with
    | .store x => if e.pa / 128 = line then
        (a.1 ||| byteMask (e.pa % 128) e.n, mergeBytes (byteMask (e.pa % 128) e.n) (BitVec.ofNat 1024 (x % 2 ^ (8 * e.n) * 2 ^ (8 * (e.pa % 128)))) a.2) else a
    | _ => a) (0, 0)
/-- The elements of one tile are performed: what is read is kept with the drill, and the next access to the tile may go on. -/
def performTile (s : State) (slot tile : Nat) (leaf shr : Bool) (dt : Nat) (els : List El) (stale : List Nat) : State :=
  let cl := clusterOf slot
  let lines := elLines els
  let loads := els.filter (fun e => decide (e.act = .load))
  let vals0 : Tab (Nat × Option Nat) := loads.foldl (fun t e => tabPut t e.idx (elRead s cl e)) []
  let held := clEntries s slot
  let ents := (stale.filter (fun l => decide (l ∈ lines))).filterMap (fun l => match copyAt s cl l with
    | some x => if x.rts < dt ∧ !maskIn (elMask els l isLoad) x.pend ∧ x.have' ≠ 0 then
        (if held.any (fun e => decide (e.2.state = 1 ∧ e.2.line = l ∧ e.2.wts = x.wts)) then none else some (l, x.wts)) else none
    | none => none)
  let served (l : Nat) : Bool := match copyAt s cl l with | some x => decide (l ∈ stale ∧ x.rts < dt) && !maskIn (elMask els l isLoad) x.pend | none => false
  let (s1, wts) := if shr then (lines.filter (fun l => decide (elMask els l isLoad ≠ 0) && !served l)).foldl (fun (a : State × Nat) l => let (u, w) := readWts a.1 cl l; (u, max a.2 w)) (s, 0) else (s, 0)
  let (s2, vals) := (els.filter (fun e => isLoad e.act && isStore e.act)).foldl (elAmo slot shr dt) (s1, vals0)
  let s3 := lines.foldl (fun u l => let (m, v) := elStoreLine els l; if m = 0 then u else storeLine u slot l shr false dt m v 0) s2
  let g : Got := { leaf, tile, wrote := els.any (fun e => isStore e.act), vals, wts, ents }
  let s4 := onCl s3 cl (fun c => { c with order := c.order.erase (slot, leaf, tile) })
  wake (onDrill s4 slot (fun d => { d with got := d.got ++ [g] })) onAccess

/-! ## Presenting accesses (spec 12, R245, R248) -/

/-- An access joins its core's queue. -/
def present (s : State) (a : Access) : State :=
  let s1 := onCore s (coreOf a.slot) (fun c => { c with queue := c.queue ++ [a] })
  post (onDrill s1 a.slot (fun d => { d with asked := d.asked ++ [(a.leaf, a.tile)] })) (.tendrilStep (clusterOf a.slot))
/-- Where a word stands on one tile: performed, or the wait it is in. -/
def tileStep (s : State) (slot : Nat) (leaf byMod : Bool) (dt : Nat) (els : List El) (shr : Bool) (stale : List Nat) (tile : Nat) : State × Option Wait :=
  match drillAt s slot with
  | none => (s, none)
  | some d =>
    let mine := els.filter (fun e => decide (e.pa / 2048 = tile))
    if d.got.any (fun g => decide (g.leaf = leaf ∧ g.tile = tile)) then (s, none)
    else if (leaf, tile) ∈ d.granted then
      match (clAt s (clusterOf slot)).order.find? (fun o => decide (o.2.2 = tile)) with
      | some o =>
        if o ≠ (slot, leaf, tile) then (s, some .access)
        else
          let reqs := (elLines mine).filterMap (fun l => lineReady s slot l shr dt d.lease (elMask mine l isLoad) stale)
          if reqs.isEmpty then (performTile s slot tile leaf shr dt mine stale, none) else (postAll s reqs, some .line)
      | none => (performTile s slot tile leaf shr dt mine stale, none)
    else if (leaf, tile) ∈ d.asked then (s, some .access)
    else
      let stores := mine.filter (fun e => isStore e.act)
      let sectors := stores.foldl (fun l e => if e.pa / 32 ∈ l then l else l ++ [e.pa / 32]) []
      (present s { slot, leaf, tile, byMod, stores := sectors.length, sectors }, some .access)
/-- The tiles of a word, ascending (spec 08, R163). -/
def insertUp (l : List Nat) (x : Nat) : List Nat :=
  match l with
  | [] => [x]
  | y :: r => if x < y then x :: y :: r else if x = y then y :: r else y :: insertUp r x
def elTiles (els : List El) : List Nat := els.foldl (fun l e => insertUp l (e.pa / 2048)) []
/-- A word's elements on their tiles: what has been read, or the wait. `cls` gives each element's class. -/
def accessWord (s : State) (slot : Nat) (leaf byMod : Bool) (dt : Nat) (els : List El) (shr : Nat → Bool) (stale : List Nat) : State × Option Wait :=
  (elTiles els).foldl (fun (a : State × Option Wait) t =>
    let r := tileStep a.1 slot leaf byMod dt els (shr t) stale t
    (r.1, match r.2 with | some w => some w | none => a.2)) (s, none)
/-- What a stream's word in progress has read of an element. -/
def gotOf (d : Drill) (leaf : Bool) (idx : Nat) : Nat × Option Nat :=
  ((d.got.filter (fun g => decide (g.leaf = leaf))).findSome? (fun g => tabFind g.vals idx)).getD (0, none)
def gotWts (d : Drill) (leaf : Bool) : Nat := (d.got.filter (fun g => decide (g.leaf = leaf))).foldl (fun a g => max a g.wts) 0
def gotEnts (d : Drill) (leaf : Bool) : List (Nat × Nat) := (d.got.filter (fun g => decide (g.leaf = leaf))).flatMap (·.ents)

/-- A stream's word in progress is over. -/
def clearGot (s : State) (slot : Nat) (leaf : Bool) : State :=
  onDrill s slot (fun d => { d with got := d.got.filter (fun g => decide (g.leaf ≠ leaf)), asked := d.asked.filter (fun a => decide (a.1 ≠ leaf)), granted := d.granted.filter (fun a => decide (a.1 ≠ leaf)), claims := d.claims.filter (fun a => decide (a.1 ≠ leaf)) })

/-! ## Stale loads (spec 16, R285, R287, R297) -/

/-- The lines whose copy a stale load may take, in order of first appearance, and whether one was refused for want of an entry. -/
def stalePlan (s : State) (slot : Nat) (d : Drill) (leaf : Bool) (els : List El) (shr : Nat → Bool) : List Nat × Bool :=
  let cl := clusterOf slot
  let mine := clEntries s slot
  let planned := gotEnts d leaf
  (elLines els).foldl (fun (a : List Nat × Bool × Nat) l =>
    match copyAt s cl l with
    | none => a
    | some x =>
      if !shr (l / 16) || decide (tierOf (l * 128) = some 2) || decide (x.have' = 0 ∨ d.dt ≤ x.rts) || maskIn (elMask els l isLoad) x.pend then a
      else if mine.any (fun e => decide (e.2.state = 1 ∧ e.2.line = l ∧ e.2.wts = x.wts)) || decide ((l, x.wts) ∈ planned) then (a.1 ++ [l], a.2.1, a.2.2)
      else if mine.length + planned.length + a.2.2 < 32 ∧ (coreAt s (coreOf slot)).cloche.length + planned.length + a.2.2 < 128 then (a.1 ++ [l], a.2.1, a.2.2 + 1)
      else (a.1, true, a.2.2)) ([], false, 0)
  |> fun r => (r.1, r.2.1)
/-- The entries of a completed stale load are made, and a verify request goes out for each (spec 16, R287). -/
def makeEntries (s : State) (slot : Nat) (d : Drill) (leaf : Bool) (ents : List (Nat × Nat)) : State :=
  ents.foldl (fun t e =>
    let id := t.nextId
    let x : ClEntry := { state := 1, ctx := ctxOf slot, line := e.1, wts := e.2, leaf, lanes := if leaf then (runSplit (leafCtx d)).em else 0 }
    let t1 := onCore { t with nextId := id + 1 } (coreOf slot) (fun c => { c with cloche := tabPut c.cloche id x })
    post t1 (.clocheVerify (coreOf slot) id e.1 e.2 d.dt d.lease)) s

/-! ## Address checks -/

/-- A virtual address and its physical place, once its page may be used by the cluster. -/
inductive Place where
  | at (s : State) (pa : Nat) (shr : Bool)
  | wait (w : Wait) (s : State)
/-- A data access of a cluster to a translated page: owner, class and lock (spec 15, R270, R271; 17, R316). -/
def placeOf (s : State) (slot : Nat) (pa : Nat) (t : Trans) (store : Bool) : Place :=
  match claimPage s (clusterOf slot) t with
  | .other u => .wait .line (match t.pte with | some p => post u (.pageReclassify p) | none => u)
  | .fine u => if store && pageLocked u t then .wait .line u else .at u pa (pageShared u t)

/-! ## Engine accesses (spec 12, R251; 15, R282; 18, R324) -/

/-- n bytes at a physical address as an engine of a cluster reads them, with the poison of their sectors: in the copy while its lease runs, else
below. -/
def engineByte (s : State) (cl dt pa : Nat) : Nat × Bool :=
  let line := pa / 128
  match copyAt s cl line with
  | some x =>
    let o := pa % 128
    if (!x.shared && (bitOf x.have'.toNat o || bitOf x.dirty.toNat o)) || (x.shared && (bitOf x.pend.toNat o || (decide (x.have' ≠ 0) && decide (dt ≤ x.rts)))) then (lineByte x.data o, bitOf x.psn.toNat (o / 32))
    else (freshByte s pa, freshPsn s pa || !reachable s line)
  | none =>
    match (s.stores.filter (fun p => decide (p.2.cl = cl ∧ p.2.line = line) && bitOf p.2.bytes.toNat (pa % 128))).getLast? with
    | some p => (lineByte p.2.data (pa % 128), freshPsn s pa)
    | none => (freshByte s pa, freshPsn s pa || !reachable s line)
/-- The page of an engine's data access is claimed for its cluster, or made shared there and then. -/
def engineClaim (s : State) (cl : Nat) (t : Trans) : State :=
  match claimPage s cl t with
  | .fine u => u
  | .other u => match t.pte with | some p => reclassify u p | none => u
/-- Bytes of one line written by an engine operation of a drill, with the poison of whole sectors. -/
def engineStoreLine (s : State) (slot line : Nat) (shr : Bool) (dt : Nat) (m : BitVec 128) (v : Vec) (psn : BitVec 4) : State :=
  storeLine s slot line shr true dt m v psn

/-! ## The bench (spec 12, R239 to R241; 17, R313, R314) -/

/-- Bytes of a core's bench. -/
def benchSize (s : State) (core : Nat) : Nat := 0x80000 - (coreAt s core).lend * 0x10000
/-- The core and offset that a bench address names for a drill (spec 12, Table 12.1). -/
def benchPlace (s : State) (slot a : Nat) : Option (Nat × Nat) :=
  if a < 0x1800000 then
    let core := 48 * clusterOf slot + a / 0x80000
    if a % 0x80000 < benchSize s core then some (core, a % 0x80000) else none
  else if a < 0x1880000 then (if a - 0x1800000 < benchSize s (coreOf slot) then some (coreOf slot, a - 0x1800000) else none)
  else none
/-- Whether n bytes from a bench address all name bytes. -/
def benchIn (s : State) (slot a n : Nat) : Bool :=
  if n = 0 then true
  else match benchPlace s slot a, benchPlace s slot (a + n - 1) with
    | some (c, o), some (c', o') => if c = c' then decide (o' = o + n - 1) else decide (a + n ≤ 0x1800000) && (upFrom (c + 1) (c' - c - 1)).all (fun k => decide (benchSize s k = 0x80000)) && decide (benchSize s c = 0x80000)
    | _, _ => false
/-- The bench map entry that covers a bench offset of a core. -/
def benchMapOf (s : State) (core off : Nat) : Option (Nat × BenchMap) := (coreAt s core).bmap.find? (fun b => decide (b.2.off ≤ off ∧ off < b.2.off + b.2.len))
def benchRead (s : State) (core off n : Nat) : Nat := cellsRead (coreAt s core).bench off n
def benchPoison (s : State) (core off n : Nat) : Option Nat := (upFrom (off / 32) ((off + n - 1) / 32 + 1 - off / 32)).find? (fun k => decide (k ∈ (coreAt s core).benchPsn))
/-- Bytes enter a bench; their tiles become dirty where a map covers them (spec 17, R314), sectors written whole lose their poison, and words
written whole their correctable errors. -/
def benchWrite (s : State) (core off n x : Nat) : State :=
  if n = 0 then s
  else onCore s core (fun c =>
    let tiles := upFrom (off / 2048) ((off + n - 1) / 2048 + 1 - off / 2048)
    let clean := (upFrom ((off + 31) / 32) ((off + n) / 32 - (off + 31) / 32))
    let mark (b : BenchMap) : BenchMap := { b with dirty := (tiles.filter (fun t => decide (b.off ≤ t * 2048 ∧ t * 2048 < b.off + b.len))).foldl insertUp b.dirty }
    { c with soft := c.soft.filter (fun w => !decide (off ≤ w ∧ w + 8 ≤ off + n)), bench := cellsWrite c.bench off n x, benchPsn := c.benchPsn.filter (fun k => !decide (k ∈ clean)), bmap := c.bmap.map (fun b => (b.1, mark b.2)) })
def benchSetPsn (s : State) (core sector : Nat) (bad : Bool) : State := onCore s core (fun c => { c with benchPsn := psnSet c.benchPsn sector bad })
/-- The fill of one bench tile of a mapped region from its virtual range (spec 17, R314): the fault, or the state. -/
def benchFill (s : State) (slot : Nat) (super : Bool) (core tile : Nat) : Except Nat State :=
  match benchMapOf s core (tile * 2048) with
  | none => .ok s
  | some (i, b) =>
    if tile ∈ b.present then .ok s
    else
      let va := b.va.toNat + tile * 2048 - b.off
      let dt := match drillAt s slot with | some d => d.dt | none => 0
      match translateNow s (coreOf slot) b.job super .load va with
      | (.hit pa t, s1) =>
        let s2 := engineClaim s1 (clusterOf slot) t
        let bytes := (below 2048).map (fun k => engineByte s2 (clusterOf slot) dt (pa + k))
        let x := packFields 8 (fun k => (bytes.getD k (0, false)).1) 2048
        let bad := (below 64).filter (fun k => (bytes.getD (32 * k) (0, false)).2)
        .ok (onCore s2 core (fun c =>
          let m := tabGet b c.bmap i
          { c with bench := cellsWrite c.bench (tile * 2048) 2048 x, bmap := tabPut c.bmap i { m with present := insertUp m.present tile },
                   benchPsn := bad.foldl (fun p k => psnSet p (tile * 64 + k) true) c.benchPsn }))
      | (.fault c, _) => .error c
      | (.miss, _) => .error cTranslation
/-- The fills that n bytes of a bench need. -/
def benchFills (s : State) (slot : Nat) (super : Bool) (core off n : Nat) : Except Nat State :=
  if n = 0 then .ok s
  else (upFrom (off / 2048) ((off + n - 1) / 2048 + 1 - off / 2048)).foldl (fun a t => match a with | .ok u => benchFill u slot super core t | .error c => .error c) (.ok s)

end Sys2Proof.Machine
end

