-- ==== Sys2Proof/Machine/StemArith.lean ====
section
/-!
DEFINITION. Stem integer and address arithmetic (spec 06, R113 to R115; 02, R42 to R44). -/
namespace Sys2Proof.Machine

/-- Leading zero bits of a w-bit number. -/
def leadZeros (w x : Nat) : Nat := if x = 0 then w else w - 1 - x.log2
/-- Trailing zero bits of a number below 2^w. -/
def trailZeros (w x : Nat) : Nat :=
  match w with
  | 0 => 0
  | n + 1 => if x % 2 = 1 then 0 else 1 + trailZeros n (x / 2)
/-- One bits of a number below 2^w. -/
def popCount (w x : Nat) : Nat :=
  match w with
  | 0 => 0
  | n + 1 => x % 2 + popCount n (x / 2)
def boolWord (b : Bool) : Word := if b then 1 else 0
/-- Signed quotient, truncated; −1 by zero; wraps (spec 06, R114). -/
def divSigned (a b : Word) : Word := if b = 0 then BitVec.allOnes 64 else wordOf (a.toInt.tdiv b.toInt)
def divUnsigned (a b : Word) : Word := if b = 0 then BitVec.allOnes 64 else BitVec.ofNat 64 (a.toNat / b.toNat)
def remSigned (a b : Word) : Word := if b = 0 then a else wordOf (a.toInt.tmod b.toInt)
def remUnsigned (a b : Word) : Word := if b = 0 then a else BitVec.ofNat 64 (a.toNat % b.toNat)
/-- The upper 64 bits of an exact product (spec 06, Table 6.1). -/
def highWord (x : Int) : Word := wordOf (x / (2 ^ 64 : Nat))
def shaWord (a : Word) (c : Nat) : Word := wordOf (a.toInt / (2 ^ c : Nat))
def shlWord (a : Word) (c : Nat) : Word := BitVec.ofNat 64 (a.toNat * 2 ^ c)
def shrWord (a : Word) (c : Nat) : Word := BitVec.ofNat 64 (a.toNat / 2 ^ c)
/-- SignExt(imm12, 64). -/
def sext12 (i : BitVec 12) : Word := i.signExtend 64

/-- ADD (spec 06, Table 6.1). -/
def execAdd (d a b : BitVec 6) (s : State) : Host.Outcome State Fault Refusal :=
  stemPure (.add d a b) d [a, b] (fun v => opAt v 0 + opAt v 1) s

/-- SUB (spec 06, Table 6.1). -/
def execSub (d a b : BitVec 6) (s : State) : Host.Outcome State Fault Refusal :=
  stemPure (.sub d a b) d [a, b] (fun v => opAt v 0 - opAt v 1) s

/-- MUL (spec 06, Table 6.1). -/
def execMul (d a b : BitVec 6) (s : State) : Host.Outcome State Fault Refusal :=
  stemPure (.mul d a b) d [a, b] (fun v => opAt v 0 * opAt v 1) s

/-- MULH (spec 06, Table 6.1). -/
def execMulh (d a b : BitVec 6) (s : State) : Host.Outcome State Fault Refusal :=
  stemPure (.mulh d a b) d [a, b] (fun v => highWord ((opAt v 0).toInt * (opAt v 1).toInt)) s

/-- MULHN (spec 06, Table 6.1). -/
def execMulhn (d a b : BitVec 6) (s : State) : Host.Outcome State Fault Refusal :=
  stemPure (.mulhn d a b) d [a, b] (fun v => highWord (((opAt v 0).toNat * (opAt v 1).toNat : Nat) : Int)) s

/-- DIV (spec 06, Table 6.1). -/
def execDiv (d a b : BitVec 6) (s : State) : Host.Outcome State Fault Refusal :=
  stemPure (.div d a b) d [a, b] (fun v => divSigned (opAt v 0) (opAt v 1)) s

/-- DIVN (spec 06, Table 6.1). -/
def execDivn (d a b : BitVec 6) (s : State) : Host.Outcome State Fault Refusal :=
  stemPure (.divn d a b) d [a, b] (fun v => divUnsigned (opAt v 0) (opAt v 1)) s

/-- REM (spec 06, Table 6.1). -/
def execRem (d a b : BitVec 6) (s : State) : Host.Outcome State Fault Refusal :=
  stemPure (.rem d a b) d [a, b] (fun v => remSigned (opAt v 0) (opAt v 1)) s

/-- REMN (spec 06, Table 6.1). -/
def execRemn (d a b : BitVec 6) (s : State) : Host.Outcome State Fault Refusal :=
  stemPure (.remn d a b) d [a, b] (fun v => remUnsigned (opAt v 0) (opAt v 1)) s

/-- AND (spec 06, Table 6.1). -/
def execAnd (d a b : BitVec 6) (s : State) : Host.Outcome State Fault Refusal :=
  stemPure (.and d a b) d [a, b] (fun v => opAt v 0 &&& opAt v 1) s

/-- OR (spec 06, Table 6.1). -/
def execOr (d a b : BitVec 6) (s : State) : Host.Outcome State Fault Refusal :=
  stemPure (.or d a b) d [a, b] (fun v => opAt v 0 ||| opAt v 1) s

/-- XOR (spec 06, Table 6.1). -/
def execXor (d a b : BitVec 6) (s : State) : Host.Outcome State Fault Refusal :=
  stemPure (.xor d a b) d [a, b] (fun v => opAt v 0 ^^^ opAt v 1) s

/-- SHL (spec 06, Table 6.1). -/
def execShl (d a b : BitVec 6) (s : State) : Host.Outcome State Fault Refusal :=
  stemPure (.shl d a b) d [a, b] (fun v => shlWord (opAt v 0) ((opAt v 1).toNat % 64)) s

/-- SHR (spec 06, Table 6.1). -/
def execShr (d a b : BitVec 6) (s : State) : Host.Outcome State Fault Refusal :=
  stemPure (.shr d a b) d [a, b] (fun v => shrWord (opAt v 0) ((opAt v 1).toNat % 64)) s

/-- SHA (spec 06, Table 6.1). -/
def execSha (d a b : BitVec 6) (s : State) : Host.Outcome State Fault Refusal :=
  stemPure (.sha d a b) d [a, b] (fun v => shaWord (opAt v 0) ((opAt v 1).toNat % 64)) s

/-- MIN (spec 06, Table 6.1). -/
def execMin (d a b : BitVec 6) (s : State) : Host.Outcome State Fault Refusal :=
  stemPure (.min d a b) d [a, b] (fun v => if (opAt v 0).toInt ≤ (opAt v 1).toInt then opAt v 0 else opAt v 1) s

/-- MAX (spec 06, Table 6.1). -/
def execMax (d a b : BitVec 6) (s : State) : Host.Outcome State Fault Refusal :=
  stemPure (.max d a b) d [a, b] (fun v => if (opAt v 0).toInt ≤ (opAt v 1).toInt then opAt v 1 else opAt v 0) s

/-- MINN (spec 06, Table 6.1). -/
def execMinn (d a b : BitVec 6) (s : State) : Host.Outcome State Fault Refusal :=
  stemPure (.minn d a b) d [a, b] (fun v => if (opAt v 0).toNat ≤ (opAt v 1).toNat then opAt v 0 else opAt v 1) s

/-- MAXN (spec 06, Table 6.1). -/
def execMaxn (d a b : BitVec 6) (s : State) : Host.Outcome State Fault Refusal :=
  stemPure (.maxn d a b) d [a, b] (fun v => if (opAt v 0).toNat ≤ (opAt v 1).toNat then opAt v 1 else opAt v 0) s

/-- SLT (spec 06, Table 6.1). -/
def execSlt (d a b : BitVec 6) (s : State) : Host.Outcome State Fault Refusal :=
  stemPure (.slt d a b) d [a, b] (fun v => boolWord (decide ((opAt v 0).toInt < (opAt v 1).toInt))) s

/-- SLTN (spec 06, Table 6.1). -/
def execSltn (d a b : BitVec 6) (s : State) : Host.Outcome State Fault Refusal :=
  stemPure (.sltn d a b) d [a, b] (fun v => boolWord (decide ((opAt v 0).toNat < (opAt v 1).toNat))) s

/-- SEQ (spec 06, Table 6.1). -/
def execSeq (d a b : BitVec 6) (s : State) : Host.Outcome State Fault Refusal :=
  stemPure (.seq d a b) d [a, b] (fun v => boolWord (decide (opAt v 0 = opAt v 1))) s

/-- CLZ (spec 06, Table 6.1; 02, R42). -/
def execClz (d a : BitVec 6) (s : State) : Host.Outcome State Fault Refusal :=
  stemPure (.clz d a) d [a] (fun v => BitVec.ofNat 64 (leadZeros 64 (opAt v 0).toNat)) s

/-- CTZ (spec 06, Table 6.1; 02, R42). -/
def execCtz (d a : BitVec 6) (s : State) : Host.Outcome State Fault Refusal :=
  stemPure (.ctz d a) d [a] (fun v => BitVec.ofNat 64 (trailZeros 64 (opAt v 0).toNat)) s

/-- POPC (spec 06, Table 6.1; 02, R42). -/
def execPopc (d a : BitVec 6) (s : State) : Host.Outcome State Fault Refusal :=
  stemPure (.popc d a) d [a] (fun v => BitVec.ofNat 64 (popCount 64 (opAt v 0).toNat)) s

/-- ADDSH: a + (b << sh) (spec 06, Table 6.1). -/
def execAddsh (d a b : BitVec 6) (sh : BitVec 3) (s : State) : Host.Outcome State Fault Refusal :=
  stemPure (.addsh d a b sh) d [a, b] (fun v => opAt v 0 + shlWord (opAt v 1) sh.toNat) s

/-- ADDI (spec 06, Table 6.3; 02, R43). -/
def execAddi (d a : BitVec 6) (i : BitVec 12) (s : State) : Host.Outcome State Fault Refusal :=
  stemPure (.addi d a i) d [a] (fun v => opAt v 0 + sext12 i) s

/-- ANDI (spec 06, Table 6.3; 02, R43). -/
def execAndi (d a : BitVec 6) (i : BitVec 12) (s : State) : Host.Outcome State Fault Refusal :=
  stemPure (.andi d a i) d [a] (fun v => opAt v 0 &&& sext12 i) s

/-- ORI (spec 06, Table 6.3; 02, R43). -/
def execOri (d a : BitVec 6) (i : BitVec 12) (s : State) : Host.Outcome State Fault Refusal :=
  stemPure (.ori d a i) d [a] (fun v => opAt v 0 ||| i.setWidth 64) s

/-- XORI (spec 06, Table 6.3; 02, R43). -/
def execXori (d a : BitVec 6) (i : BitVec 12) (s : State) : Host.Outcome State Fault Refusal :=
  stemPure (.xori d a i) d [a] (fun v => opAt v 0 ^^^ i.setWidth 64) s

/-- SLTI (spec 06, Table 6.3; 02, R43). -/
def execSlti (d a : BitVec 6) (i : BitVec 12) (s : State) : Host.Outcome State Fault Refusal :=
  stemPure (.slti d a i) d [a] (fun v => boolWord (decide ((opAt v 0).toInt < (sext12 i).toInt))) s

/-- SLTNI (spec 06, Table 6.3; 02, R43). -/
def execSltni (d a : BitVec 6) (i : BitVec 12) (s : State) : Host.Outcome State Fault Refusal :=
  stemPure (.sltni d a i) d [a] (fun v => boolWord (decide ((opAt v 0).toNat < (sext12 i).toNat))) s

/-- MULI (spec 06, Table 6.3; 02, R43). -/
def execMuli (d a : BitVec 6) (i : BitVec 12) (s : State) : Host.Outcome State Fault Refusal :=
  stemPure (.muli d a i) d [a] (fun v => opAt v 0 * sext12 i) s

/-- SHLI (spec 06, Table 6.3; 02, R43). -/
def execShli (d a c : BitVec 6) (s : State) : Host.Outcome State Fault Refusal :=
  stemPure (.shli d a c) d [a] (fun v => shlWord (opAt v 0) c.toNat) s

/-- SHRI (spec 06, Table 6.3; 02, R43). -/
def execShri (d a c : BitVec 6) (s : State) : Host.Outcome State Fault Refusal :=
  stemPure (.shri d a c) d [a] (fun v => shrWord (opAt v 0) c.toNat) s

/-- SHAI (spec 06, Table 6.3; 02, R43). -/
def execShai (d a c : BitVec 6) (s : State) : Host.Outcome State Fault Refusal :=
  stemPure (.shai d a c) d [a] (fun v => shaWord (opAt v 0) c.toNat) s

/-- LDHI: SignExt(imm18) << 12 (spec 02, R44). -/
def execLdhi (d : BitVec 6) (i : BitVec 18) (s : State) : Host.Outcome State Fault Refusal :=
  stemPure (.ldhi d i) d [] (fun _ => shlWord (i.signExtend 64) 12) s

/-- PCADD: PC + (SignExt(imm18) << 12) (spec 02, R44). -/
def execPcadd (d : BitVec 6) (i : BitVec 18) (s : State) : Host.Outcome State Fault Refusal :=
  stemWord { ins := .pcadd d i, dst := some d } s (fun dr _ t => .ok t (dr.pc.setWidth 64 + shlWord (i.signExtend 64) 12) none)

end Sys2Proof.Machine
end

