-- ==== Sys2Proof/Machine/StemMem.lean ====
section
/-!
DEFINITION. Stem words that reach memory, the bench, the cloche and the Tendril: loads and stores, acquires and releases, stale loads, atomics,
fences, CHK and CLDROP, the Tendril words, SHOOT, CLSAVE and CLREST (spec 06, R120 to R124; 11, R231 to R236; 12, R257 to R259; 15, R273 to
R279; 16, R285 to R296; 17, R311, R312; 23, R395 to R397; 29, R452, R453). -/
namespace Sys2Proof.Machine

/-! ## Address checks (spec 06, R121) -/

/-- Outcome of the address checks of a stem access. -/
inductive Checked where
  | ok (pa : Nat) (t : Trans)
  | stop (b : Body)
/-- EA, alignment, translation, permission, key; the first failure is taken. -/
def stemCheck (s : State) (d : Drill) (k : Kind) (ea size : Nat) : Checked :=
  let tv : Word := BitVec.ofNat 64 ea
  if 2 ^ 56 ≤ ea then .stop (.trap cTranslation tv 0 [])
  else if ea % size ≠ 0 then .stop (.trap cAlign tv 0 [])
  else match translate s s.cur d k false ea with
    | .miss => .stop (.wait .walk (askWalk s s.cur d k ea))
    | .fault c => .stop (.trap c tv 0 [])
    | .hit pa t => .ok pa t
/-- EA of an S-M word: ga plus off5 times the size (spec 02, R48). -/
def stemEa (a : Word) (o : BitVec 5) (size : Nat) : Nat := (a + BitVec.ofNat 64 (o.toNat * size)).toNat
/-- A loaded value widened to 64 bits. -/
def widen (signed : Bool) (size x : Nat) : Word := if signed then wordOf (signOf (8 * size) x) else BitVec.ofNat 64 x

/-! ## Pool memory (spec 29, R452 to R454, R470) -/

/-- A pool access is refused by a failed window, or by a port that is down. -/
def poolDown (s : State) (pa : Nat) : Bool :=
  match poolWindow s pa with
  | none => true
  | some w => bitOf (tabGet 0 s.mgmt.pwin (2 * w)).toNat 62 || !decide (windowPort s w ∈ s.cxlUp) || (dieAt s (windowPort s w)).failed
/-- The remote access of a stream's element, if one is on its way or answered. -/
def remoteOf (s : State) (slot : Nat) (leaf : Bool) (idx : Nat) : Option (Nat × Remote) :=
  s.remotes.find? (fun r => decide (r.2.slot = slot ∧ r.2.leaf = leaf ∧ r.2.idx = idx ∧ r.2.kind < 2))
/-- A remote access is sent: to a hub as a message, to a pool device as a notice. -/
def sendRemote (s : State) (r : Remote) : State :=
  let id := s.nextId
  let s1 := { s with nextId := id + 1, remotes := tabPut s.remotes id r }
  if tierOf r.pa = some 3 then notify s1 (.toPool ((poolWindow s r.pa).getD 0) r.pa r.kind) else post s1 (.homeAtomic id)
/-- The answer of a remote access is used up. -/
def dropRemote (s : State) (id : Nat) : State := { s with remotes := tabDel s.remotes id }
/-- Whether a drill has pool stores that the pool has not completed (spec 29, R453). -/
def poolStoresOut (s : State) (slot : Nat) : Bool := s.remotes.any (fun r => decide (r.2.slot = slot ∧ r.2.kind = 2))
/-- A word of a stream whose one element goes out of the cluster: it is sent once, and answers when the answer is back. -/
def remoteWord (s : State) (slot : Nat) (r : Remote) (k : State → Nat → Body) : Body :=
  match remoteOf s slot r.leaf r.idx with
  | some (id, x) =>
    (match x.answer with
      | none => .wait (.atomic id) s
      | some (v, bad) => if bad then .trapIn (dropRemote s id) cPoison (BitVec.ofNat 64 (r.pa / 32 * 32)) 0 [] else k (dropRemote s id) v)
  | none => let id := s.nextId; .wait (.atomic id) (sendRemote s r)

/-! ## Loads and stores -/

/-- LSTAMP follows the wts of a load (spec 15, R267). -/
def raiseL (s : State) (slot wts : Nat) : State := onDrill s slot (fun d => { d with lstamp := max d.lstamp wts })
/-- The load of one element at a checked address. `pool64` is an LD.i64, the one word that takes pages from the hub window (spec 17, R311);
`acq` is an acquire of die scope or wider (spec 15, R273). -/
def stemLoad (s : State) (d : Drill) (pa : Nat) (t : Trans) (size : Nat) (signed byMod acq stale pool64 : Bool) : Body :=
  let slot := s.cur
  let dt := if acq then d.dt + 1 else d.dt
  let rise (u : State) (wts : Nat) : State := raiseL (if acq then onDrill u slot (fun e => { e with dt := max (max e.dt dt) wts }) else u) slot wts
  if inHubWindow pa then
    let z := pa % 0x10000 / 8
    if pool64 && d.super && !bitOf t.word1.toNat 5 && decide (homeOf s pa = dieOf slot ∧ pa % 0x10000 < 24) then
      match tabGet [] (dieAt s (dieOf slot)).pool z with
      | p :: r => .ok (onDie s (dieOf slot) (fun x => { x with pool := tabSet [] x.pool z r })) (BitVec.ofNat 64 p) none
      | [] => .wait (.pool (dieOf slot) z 0) (notify s (.poolEmpty (dieOf slot) z))
    else .ok (rise s 0) 0 none
  else if tierOf pa = some 3 then
    if poolDown s pa then .trap cPoison (BitVec.ofNat 64 (pa / 32 * 32)) 0 []
    else remoteWord s slot { slot, leaf := false, kind := 1, pa, size } (fun u v => .ok (rise u 0) (widen signed size v) none)
  else match placeOf s slot pa t false with
    | .wait w u => .wait w u
    | .at u pa shr =>
      let els : List El := [{ idx := 0, pa, n := size, act := .load }]
      let (plan, full) := if stale then stalePlan u slot d false els (fun _ => shr) else ([], false)
      match accessWord u slot false byMod dt els (fun _ => shr) plan with
      | (u1, some w) => .wait w (if full then onDrill u1 slot (fun e => { e with ovf := true }) else u1)
      | (u1, none) =>
        match drillAt u1 slot with
        | none => .ok u1 0 none
        | some e =>
          match gotOf e false 0 with
          | (_, some a) => .trap cPoison (BitVec.ofNat 64 a) 0 []
          | (v, none) =>
            let u2 := rise u1 (gotWts e false)
            let u3 := makeEntries (if full then onDrill u2 slot (fun x => { x with ovf := true }) else u2) slot d false (gotEnts e false)
            .ok u3 (widen signed size v) none
/-- The store of one element at a checked address, with the DT it carries. -/
def stemStore (s : State) (d : Drill) (pa : Nat) (t : Trans) (size : Nat) (byMod : Bool) (dt : Nat) (x : Word) (k : State → Body) : Body :=
  let slot := s.cur
  if inHubWindow pa then k s
  else if tierOf pa = some 3 then (if poolDown s pa then k s else k (sendRemote s { slot, leaf := false, kind := 2, pa, size, arg := x.toNat % 2 ^ (8 * size), dt := d.dt }))
  else match placeOf s slot pa t true with
    | .wait w u => .wait w u
    | .at u pa shr =>
      match accessWord u slot false byMod dt [{ idx := 0, pa, n := size, act := .store x.toNat }] (fun _ => shr) [] with
      | (u1, some w) => .wait w u1
      | (u1, none) => k u1

/-- A load word: LD, LDN, LDA or LDC (spec 06, R120; 15, R277; 16, R296). -/
def stemLoadWord (i : Instr) (d a : BitVec 6) (la : BitVec 4) (o : BitVec 5) (size : Nat) (signed byMod acq stale pool64 : Bool) (s : State) : Host.Outcome State Fault Refusal :=
  stemWord { ins := i, srcs := [a], dst := some d, la := la.toNat } s (fun dr v t =>
    match stemCheck t dr .load (stemEa (opAt v 0) o size) size with
    | .stop b => b
    | .ok pa tr => stemLoad t dr pa tr size signed byMod acq stale pool64)
/-- A store word: ga is popped before gs (spec 06, R120). -/
def stemStoreWord (i : Instr) (g a : BitVec 6) (o : BitVec 5) (size : Nat) (byMod : Bool) (s : State) : Host.Outcome State Fault Refusal :=
  stemWord { ins := i, srcs := [a, g] } s (fun dr v t =>
    match stemCheck t dr .store (stemEa (opAt v 0) o size) size with
    | .stop b => b
    | .ok pa tr => stemStore t dr pa tr size byMod dr.dt (opAt v 1) (fun u => .ok u 0 none))
/-- Whether a stream has performed part of the word in progress. -/
def begun (d : Drill) (leaf : Bool) : Bool := d.got.any (fun g => decide (g.leaf = leaf)) || d.asked.any (fun a => decide (a.1 = leaf))
/-- The waits of a release at a scope (spec 15, R274): stamps at die scope and wider, pool completions at system scope. -/
def releaseWait (s : State) (slot scope : Nat) : Bool := decide (3 ≤ scope) && (storesOut s slot || (decide (scope = 5) && poolStoresOut s slot))
/-- DT after the waits of a release. -/
def releaseDt (d : Drill) (scope : Nat) : Nat := if 3 ≤ scope then max d.dt d.pstamp else d.dt
/-- A release store (spec 15, R277). -/
def stemReleaseWord (i : Instr) (g a : BitVec 6) (c : BitVec 3) (o : BitVec 5) (size : Nat) (s : State) : Host.Outcome State Fault Refusal :=
  stemWord { ins := i, srcs := [a, g], release := true } s (fun dr v t =>
    match stemCheck t dr .store (stemEa (opAt v 0) o size) size with
    | .stop b => b
    | .ok pa tr =>
      if !begun dr false && releaseWait t t.cur c.toNat then .wait .stores t
      else stemStore t dr pa tr size false (releaseDt dr c.toNat) (opAt v 1) (fun u => .ok (onDrill u t.cur (fun e => { e with dt := max e.dt (releaseDt dr c.toNat) })) 0 none))

/-- LD.i8 (spec 06, R120). -/
def execLdI8 (d a : BitVec 6) (l : BitVec 4) (y : BitVec 1) (o : BitVec 5) (s : State) : Host.Outcome State Fault Refusal :=
  stemLoadWord (.ldI8 d a l y o) d a l o 1 true (decide (y = 1)) false false false s
/-- LD.i16. -/
def execLdI16 (d a : BitVec 6) (l : BitVec 4) (y : BitVec 1) (o : BitVec 5) (s : State) : Host.Outcome State Fault Refusal :=
  stemLoadWord (.ldI16 d a l y o) d a l o 2 true (decide (y = 1)) false false false s
/-- LD.i32. -/
def execLdI32 (d a : BitVec 6) (l : BitVec 4) (y : BitVec 1) (o : BitVec 5) (s : State) : Host.Outcome State Fault Refusal :=
  stemLoadWord (.ldI32 d a l y o) d a l o 4 true (decide (y = 1)) false false false s
/-- LD.i64. -/
def execLdI64 (d a : BitVec 6) (l : BitVec 4) (y : BitVec 1) (o : BitVec 5) (s : State) : Host.Outcome State Fault Refusal :=
  stemLoadWord (.ldI64 d a l y o) d a l o 8 true (decide (y = 1)) false false true s
/-- LDN.n8. -/
def execLdnN8 (d a : BitVec 6) (l : BitVec 4) (y : BitVec 1) (o : BitVec 5) (s : State) : Host.Outcome State Fault Refusal :=
  stemLoadWord (.ldnN8 d a l y o) d a l o 1 false (decide (y = 1)) false false false s
/-- LDN.n16. -/
def execLdnN16 (d a : BitVec 6) (l : BitVec 4) (y : BitVec 1) (o : BitVec 5) (s : State) : Host.Outcome State Fault Refusal :=
  stemLoadWord (.ldnN16 d a l y o) d a l o 2 false (decide (y = 1)) false false false s
/-- LDN.n32. -/
def execLdnN32 (d a : BitVec 6) (l : BitVec 4) (y : BitVec 1) (o : BitVec 5) (s : State) : Host.Outcome State Fault Refusal :=
  stemLoadWord (.ldnN32 d a l y o) d a l o 4 false (decide (y = 1)) false false false s
/-- ST.i8. -/
def execStI8 (g a : BitVec 6) (y : BitVec 1) (o : BitVec 5) (s : State) : Host.Outcome State Fault Refusal :=
  stemStoreWord (.stI8 g a y o) g a o 1 (decide (y = 1)) s
/-- ST.i16. -/
def execStI16 (g a : BitVec 6) (y : BitVec 1) (o : BitVec 5) (s : State) : Host.Outcome State Fault Refusal :=
  stemStoreWord (.stI16 g a y o) g a o 2 (decide (y = 1)) s
/-- ST.i32. -/
def execStI32 (g a : BitVec 6) (y : BitVec 1) (o : BitVec 5) (s : State) : Host.Outcome State Fault Refusal :=
  stemStoreWord (.stI32 g a y o) g a o 4 (decide (y = 1)) s
/-- ST.i64. -/
def execStI64 (g a : BitVec 6) (y : BitVec 1) (o : BitVec 5) (s : State) : Host.Outcome State Fault Refusal :=
  stemStoreWord (.stI64 g a y o) g a o 8 (decide (y = 1)) s
/-- LDA.n32 (spec 15, R277). -/
def execLdaN32 (d a : BitVec 6) (l : BitVec 4) (c : BitVec 3) (o : BitVec 5) (s : State) : Host.Outcome State Fault Refusal :=
  stemLoadWord (.ldaN32 d a l c o) d a l o 4 false false (decide (3 ≤ c.toNat)) false false s
/-- LDA.i64. -/
def execLdaI64 (d a : BitVec 6) (l : BitVec 4) (c : BitVec 3) (o : BitVec 5) (s : State) : Host.Outcome State Fault Refusal :=
  stemLoadWord (.ldaI64 d a l c o) d a l o 8 true false (decide (3 ≤ c.toNat)) false false s
/-- STL.i32 (spec 15, R277). -/
def execStlI32 (g a : BitVec 6) (c : BitVec 3) (o : BitVec 5) (s : State) : Host.Outcome State Fault Refusal := stemReleaseWord (.stlI32 g a c o) g a c o 4 s
/-- STL.i64. -/
def execStlI64 (g a : BitVec 6) (c : BitVec 3) (o : BitVec 5) (s : State) : Host.Outcome State Fault Refusal := stemReleaseWord (.stlI64 g a c o) g a c o 8 s
/-- LDC.n32 (spec 16, R296). -/
def execLdcN32 (d a : BitVec 6) (l : BitVec 4) (o : BitVec 5) (s : State) : Host.Outcome State Fault Refusal :=
  stemLoadWord (.ldcN32 d a l o) d a l o 4 false false false true false s
/-- LDC.i64. -/
def execLdcI64 (d a : BitVec 6) (l : BitVec 4) (o : BitVec 5) (s : State) : Host.Outcome State Fault Refusal :=
  stemLoadWord (.ldcI64 d a l o) d a l o 8 true false false true false s

/-! ## The bench (spec 06, R124) -/

/-- The checks of a bench access of n bytes aligned to `al`: range, alignment, first-touch fill. -/
def stemBench (s : State) (d : Drill) (ea n al : Nat) (k : State → Nat → Nat → Body) : Body :=
  let tv : Word := BitVec.ofNat 64 ea
  match benchPlace s s.cur ea with
  | none => .trap cBench tv 0 []
  | some (core, off) =>
    if !benchIn s s.cur ea n then .trap cBench tv 0 []
    else if ea % al ≠ 0 then .trap cAlign tv 0 []
    else match benchFills s s.cur d.super core off n with
      | .error c => .trap c tv 0 []
      | .ok u => k u core off
/-- A bench read finds poison. -/
def benchBad (s : State) (core off n : Nat) (k : Body) : Body :=
  match benchPoison s core off n with
  | some sec => .trap cPoison (BitVec.ofNat 64 (core % 48 * 0x80000 + sec * 32)) 0 []
  | none => k
def stemBenchLoad (i : Instr) (d a : BitVec 6) (l : BitVec 4) (o : BitVec 5) (size : Nat) (s : State) : Host.Outcome State Fault Refusal :=
  stemWord { ins := i, srcs := [a], dst := some d, la := l.toNat } s (fun dr v t =>
    stemBench t dr (stemEa (opAt v 0) o size) size size (fun u core off => benchBad u core off size (.ok u (BitVec.ofNat 64 (benchRead u core off size)) none)))
def stemBenchStore (i : Instr) (g a : BitVec 6) (o : BitVec 5) (size : Nat) (s : State) : Host.Outcome State Fault Refusal :=
  stemWord { ins := i, srcs := [a, g] } s (fun dr v t =>
    stemBench t dr (stemEa (opAt v 0) o size) size size (fun u core off => .ok (benchWrite u core off size ((opAt v 1).toNat % 2 ^ (8 * size))) 0 none))
/-- LDB.n32, LDB.i64, STB.i32, STB.i64. -/
def execLdbN32 (d a : BitVec 6) (l : BitVec 4) (o : BitVec 5) (s : State) : Host.Outcome State Fault Refusal := stemBenchLoad (.ldbN32 d a l o) d a l o 4 s
def execLdbI64 (d a : BitVec 6) (l : BitVec 4) (o : BitVec 5) (s : State) : Host.Outcome State Fault Refusal := stemBenchLoad (.ldbI64 d a l o) d a l o 8 s
def execStbI32 (g a : BitVec 6) (o : BitVec 5) (s : State) : Host.Outcome State Fault Refusal := stemBenchStore (.stbI32 g a o) g a o 4 s
def execStbI64 (g a : BitVec 6) (o : BitVec 5) (s : State) : Host.Outcome State Fault Refusal := stemBenchStore (.stbI64 g a o) g a o 8 s

/-! ## Atomics (spec 11, R231 to R236; 26, R417, R418) -/

/-- Whether a store of the drill to a line is still on its way to the hub: an atomic that goes beyond the cluster follows it (R234). -/
def lineStoresOut (s : State) (slot line : Nat) : Bool := s.stores.any (fun p => decide (p.2.slot = slot ∧ p.2.line = line))
/-- One stem atomic. -/
def stemAmo (i : Instr) (d a b : BitVec 6) (c : BitVec 3) (z : BitVec 1) (op : Nat) (s : State) : Host.Outcome State Fault Refusal :=
  stemWord { ins := i, srcs := (if op = 9 then [a, b, d] else [a, b]), dst := some d } s (fun dr v t =>
    let size := if z = 1 then 8 else 4
    let w := 8 * size
    let arg := (opAt v 1).toNat % 2 ^ w
    let cmp := (opAt v 2).toNat % 2 ^ w
    match stemCheck t dr .store (opAt v 0).toNat size with
    | .stop x => x
    | .ok pa tr =>
      let done (u : State) (old : Nat) : Body :=
        let ev := event u u.cur 1 (widen true size old).toNat (fun _ => true)
        .ok ev.1 (BitVec.ofNat 64 ev.2) none
      if !begun dr false && (remoteOf t t.cur false 0).isNone && replayHolds t t.cur then .wait .replay t
      else if inHubWindow pa then done t 0
      else if tierOf pa = some 3 then
        if op ≠ 0 ∧ op ≠ 8 ∧ op ≠ 9 then .trap cPermission (opAt v 0) 0 []
        else if poolDown t pa then .trap cPoison (BitVec.ofNat 64 (pa / 32 * 32)) 0 []
        else remoteWord t t.cur { slot := t.cur, leaf := false, kind := 0, op, pa, size, arg, cmp } done
      else match placeOf t t.cur pa tr true with
        | .wait x u => .wait x u
        | .at u pa shr =>
          if shr ∧ 3 ≤ c.toNat then
            if (remoteOf u u.cur false 0).isNone ∧ lineStoresOut u u.cur (pa / 128) then .wait .stores u
            else
              let hub := if c.toNat = 3 then dieOf u.cur else homeOf u pa
              remoteWord u u.cur { slot := u.cur, leaf := false, kind := 0, op, pa, size, arg, cmp, hub, dt := if hub = dieOf u.cur then dr.dt else 0 } done
          else
            match accessWord u u.cur false false dr.dt [{ idx := 0, pa, n := size, act := .amo op arg cmp }] (fun _ => shr) [] with
            | (u1, some x) => .wait x u1
            | (u1, none) =>
              match drillAt u1 u1.cur with
              | none => done u1 0
              | some e => match gotOf e false 0 with
                | (_, some sec) => .trapIn (clearGot u1 u1.cur false) cPoison (BitVec.ofNat 64 sec) 0 []
                | (old, none) => done (raiseL u1 u1.cur (gotWts e false)) old)
/-- AMO.add and its siblings, CAS (spec 11, R235, Table 11.10). -/
def execAmoAdd (d a b : BitVec 6) (c : BitVec 3) (z : BitVec 1) (s : State) : Host.Outcome State Fault Refusal := stemAmo (.amoAdd d a b c z) d a b c z 0 s
def execAmoAnd (d a b : BitVec 6) (c : BitVec 3) (z : BitVec 1) (s : State) : Host.Outcome State Fault Refusal := stemAmo (.amoAnd d a b c z) d a b c z 1 s
def execAmoOr (d a b : BitVec 6) (c : BitVec 3) (z : BitVec 1) (s : State) : Host.Outcome State Fault Refusal := stemAmo (.amoOr d a b c z) d a b c z 2 s
def execAmoXor (d a b : BitVec 6) (c : BitVec 3) (z : BitVec 1) (s : State) : Host.Outcome State Fault Refusal := stemAmo (.amoXor d a b c z) d a b c z 3 s
def execAmoMin (d a b : BitVec 6) (c : BitVec 3) (z : BitVec 1) (s : State) : Host.Outcome State Fault Refusal := stemAmo (.amoMin d a b c z) d a b c z 4 s
def execAmoMax (d a b : BitVec 6) (c : BitVec 3) (z : BitVec 1) (s : State) : Host.Outcome State Fault Refusal := stemAmo (.amoMax d a b c z) d a b c z 5 s
def execAmoMinn (d a b : BitVec 6) (c : BitVec 3) (z : BitVec 1) (s : State) : Host.Outcome State Fault Refusal := stemAmo (.amoMinn d a b c z) d a b c z 6 s
def execAmoMaxn (d a b : BitVec 6) (c : BitVec 3) (z : BitVec 1) (s : State) : Host.Outcome State Fault Refusal := stemAmo (.amoMaxn d a b c z) d a b c z 7 s
def execAmoSwap (d a b : BitVec 6) (c : BitVec 3) (z : BitVec 1) (s : State) : Host.Outcome State Fault Refusal := stemAmo (.amoSwap d a b c z) d a b c z 8 s
def execCas (d a b : BitVec 6) (c : BitVec 3) (z : BitVec 1) (s : State) : Host.Outcome State Fault Refusal := stemAmo (.cas d a b c z) d a b c z 9 s
/-- HOME_ATOMIC: the hub that is the point of coherence holds the line in M and performs the atomic; its write is stamped (spec 26, R418). -/
def execHomeAtomic (id : Nat) (s : State) : Host.Outcome State Fault Refusal :=
  match tabFind s.remotes id with
  | none => .next s
  | some r =>
    let line := r.pa / 128
    match needRight s r.hub line true (.homeAtomic id) with
    | some t => .next t
    | none =>
      if !reachable s line then .next (post s (.atomicResponse id 0 true))
      else
        let s := holdLine s r.hub line
        let (x, p) := hubData s r.hub line
        let old := bitsOf x.toNat (8 * (r.pa % 128)) (8 * r.size)
        if bitOf p.toNat (r.pa % 128 / 32) then .next (post s (.atomicResponse id 0 true))
        else
          let (d1, g) := hubOp (dieAt s r.hub) (clusterOf r.slot) line true
          let wr := amoWrite (8 * r.size) r.op old r.arg r.cmp
          let w := if wr.isSome then max (g.rts + 1) r.dt else g.wts
          if stampLimit < w then .next (exhaust s r.hub (.homeAtomic id))
          else
            let d2 := if wr.isSome then raiseHs (regionPut d1 { g with wts := w, rts := w }) w else d1
            let s1 := putDie s r.hub d2
            let s2 := match wr with
              | some y => hubTake s1 r.hub line (byteMask (r.pa % 128) r.size) (BitVec.ofNat 1024 (y * 2 ^ (8 * (r.pa % 128)))) 0
              | none => s1
            .next (post { s2 with remotes := tabPut s2.remotes id { r with stamp := w, wts := g.wts } } (.atomicResponse id (BitVec.ofNat 64 old) false))
/-- ATOMIC_RESPONSE: the answer passes the issuing die's hub, which raises the drill's stamps (spec 26, R417; 15, R280); the cluster's copy of
the line no longer serves loads. -/
def execAtomicResponse (id : Nat) (old : Word) (psn : Bool) (s : State) : Host.Outcome State Fault Refusal :=
  match tabFind s.remotes id with
  | none => .next s
  | some r =>
    let h := (dieAt s (dieOf r.slot)).hs + 1
    let own := decide (r.hub = dieOf r.slot)
    let s1 := { s with remotes := tabPut s.remotes id { r with answer := some (old.toNat, psn) } }
    let s2 := onDrill s1 r.slot (fun d =>
      if own then { d with lstamp := max d.lstamp r.wts, pstamp := max d.pstamp r.stamp }
      else { d with dt := max d.dt h, lstamp := max d.lstamp h, pstamp := max d.pstamp h })
    let s3 := onCopy s2 (clusterOf r.slot) (r.pa / 128) (fun x => if x.shared then { x with have' := 0 } else x)
    .next (wake s3 (fun w => match w with | .atomic _ => true | _ => false))

/-! ## Fences, CHK, CLDROP (spec 15, R279; 16, R291, R292) -/

/-- FENCE of a scope and a kind: 0 full, 1 acquire, 2 release. -/
def execFence (c : BitVec 3) (k : BitVec 2) (s : State) : Host.Outcome State Fault Refusal :=
  stemWord { ins := .fence c k, release := decide (k ≠ 1) } s (fun d _ t =>
    if k ≠ 1 ∧ releaseWait t t.cur c.toNat then .wait .stores t
    else
      let dt1 := if k ≠ 1 then releaseDt d c.toNat else d.dt
      let dt2 := if k ≠ 2 ∧ 3 ≤ c.toNat then max (dt1 + 1) d.lstamp else dt1
      .ok (putDrill t t.cur { d with dt := dt2 }) 0 none)
/-- CHK (spec 16, R291): with no entry unresolved it completes at once. -/
def execChk (o : BitVec 24) (s : State) : Host.Outcome State Fault Refusal :=
  stemWord { ins := .chk o, ctl := true } s (fun d _ t =>
    let es := clEntries t t.cur
    let dest := wordOf ((d.pc.toNat : Int) + 4 * o.toInt)
    if es.any (fun e => decide (e.2.state = 1)) then .wait (.chk (es.map (·.1)) (dest.setWidth 56) (d.pc + 4)) t
    else
      let u := onDrill (dropEntries t t.cur (fun _ => true)) t.cur (fun e => { e with ovf := false })
      .ok u 0 (if es.any (fun e => decide (e.2.state = 2)) then some dest else none))
/-- CLDROP (spec 16, R292). -/
def execCldrop (a : BitVec 6) (s : State) : Host.Outcome State Fault Refusal :=
  stemWord { ins := .cldrop a, srcs := [a] } s (fun d v t =>
    let x := (opAt v 0).toNat
    if 2 ^ 56 ≤ x then .ok (onDrill (dropEntries t t.cur (fun _ => true)) t.cur (fun e => { e with ovf := false })) 0 none
    else match translateNow t (coreOf t.cur) d.job d.super .load x with
      | (.hit pa _, u) => .ok (dropEntries u t.cur (fun e => decide (e.2.line = pa / 128))) 0 none
      | (_, u) => .ok u 0 none)

/-! ## Tendril words (spec 12, R257 to R259) -/

/-- An access of a Tendril word: presented once; its answer once it is there. -/
def tendrilAccess (s : State) (d : Drill) (pa kind : Nat) (k : State → Nat → Body) : Body :=
  let tile := pa / 2048
  match d.got.find? (fun g => decide (g.leaf = false ∧ g.tile = tile)) with
  | some g => k s ((tabFind g.vals 0).getD (0, none)).1
  | none => if (false, tile) ∈ d.asked then .wait .access s else .wait .access (present s { slot := s.cur, leaf := false, tile, byMod := false, kind })
/-- Whether a physical address is one that no tile holds: hub windows and pool memory (spec 17, R311; 29, R452). -/
def neverCached (pa : Nat) : Bool := inHubWindow pa || decide (tierOf pa = some 3)
/-- TDIST (R258): −1 on any failure of its address. -/
def execTdist (d a : BitVec 6) (l : BitVec 4) (o : BitVec 5) (s : State) : Host.Outcome State Fault Refusal :=
  stemWord { ins := .tdist d a l o, srcs := [a], dst := some d, la := l.toNat } s (fun dr v t =>
    let ea := stemEa (opAt v 0) o 8
    if 2 ^ 56 ≤ ea then .ok t (BitVec.allOnes 64) none
    else match translate t t.cur dr .load false ea with
      | .miss => .wait .walk (askWalk t t.cur dr .load ea)
      | .fault _ => .ok t (BitVec.allOnes 64) none
      | .hit pa _ => if neverCached pa then .ok t (BitVec.allOnes 64) none else tendrilAccess t dr pa 1 (fun u x => .ok u (BitVec.ofNat 64 x) none))
/-- TTOUCH (R258). -/
def execTtouch (a : BitVec 6) (o : BitVec 5) (s : State) : Host.Outcome State Fault Refusal :=
  stemWord { ins := .ttouch a o, srcs := [a] } s (fun dr v t =>
    let ea := stemEa (opAt v 0) o 8
    if 2 ^ 56 ≤ ea then .ok t 0 none
    else match translate t t.cur dr .load false ea with
      | .miss => .wait .walk (askWalk t t.cur dr .load ea)
      | .fault _ => .ok t 0 none
      | .hit pa _ => if neverCached pa then .ok t 0 none else tendrilAccess t dr pa 4 (fun u _ => .ok u 0 none))
/-- TSTAKE and TUNSTAKE (R259); memory that no tile holds answers as touched and not staked, and as absent. -/
def stakeWord (i : Instr) (d a : BitVec 6) (o : BitVec 5) (kind none' : Nat) (s : State) : Host.Outcome State Fault Refusal :=
  stemWord { ins := i, srcs := [a], dst := some d } s (fun dr v t =>
    match stemCheck t dr .load (stemEa (opAt v 0) o 8) 1 with
    | .stop b => b
    | .ok pa _ => if neverCached pa then .ok t (BitVec.ofNat 64 none') none else tendrilAccess t dr pa kind (fun u x => .ok u (BitVec.ofNat 64 x) none))
def execTstake (d a : BitVec 6) (o : BitVec 5) (s : State) : Host.Outcome State Fault Refusal := stakeWord (.tstake d a o) d a o 2 2 s
def execTunstake (d a : BitVec 6) (o : BitVec 5) (s : State) : Host.Outcome State Fault Refusal := stakeWord (.tunstake d a o) d a o 3 3 s

/-! ## SHOOT (spec 17, R312; 26, R421) -/

/-- Whether a core lies in the scope of a shootdown of a drill. -/
def shootCore (slot scope core : Nat) : Bool :=
  if scope ≤ 2 then decide (clusterOfCore core = clusterOf slot) else if scope = 3 then decide (core / 192 = dieOf slot) else true
/-- Every unresolved cloche entry of the job's drills on cores that p accepts is struck (spec 17, R312: any beyond those named are false strikes). -/
def strikeEntries (s : State) (p : Nat → Bool) (job : Nat) : State :=
  let mine (core ctx : Nat) : Bool := match drillAt s (16 * core + ctx) with | some d => decide (d.job = job) | none => false
  let s1 := { s with cores := s.cores.map (fun c => if p c.1 then (c.1, { c.2 with cloche := c.2.cloche.map (fun e =>
    if e.2.state = 1 ∧ mine c.1 e.2.ctx = true then (e.1, { e.2 with state := 2 }) else e) }) else c) }
  let s2 := wake s1 (fun w => decide (w = .verdicts))
  (s2.drills.filter (fun e => p (coreOf e.1) && decide (e.2.job = job))).foldl (fun t e => chkPost t e.1) s2
/-- A copy command of the drills that p accepts uses a translation of a job that overlaps a range. -/
def copiesUse (s : State) (p : Nat → Bool) (job lo len : Nat) : Bool :=
  s.clusters.any (fun c => c.2.engines.any (fun e => e.2.any (fun x => p x.slot && decide (x.job = job) && x.trans.any (fun t => transOverlaps t lo len))))
/-- SHOOT: the release, the removals of the issuing die, and the wait for the other dies and for stores that used what is removed. -/
def execShoot (a b : BitVec 6) (c : BitVec 3) (s : State) : Host.Outcome State Fault Refusal :=
  stemWord { ins := .shoot a b c, srcs := [a, b], priv := true } s (fun d v t =>
    let scope := c.toNat
    let slot := t.cur
    match t.shoots.find? (fun x => decide (x.2.slot = slot)) with
    | some (id, x) =>
      if x.await.isEmpty && x.stores.all (fun p => (tabFind t.stores p).isNone) && !copiesUse t (fun k => decide (4 ≤ scope ∨ (3 ≤ scope ∧ dieOf k = dieOf slot) ∨ clusterOf k = clusterOf slot)) x.job x.lo x.len then .ok { t with shoots := tabDel t.shoots id } 0 none
      else .wait (.shoot id) t
    | none =>
      if releaseWait t slot scope then .wait .stores t
      else
        let job := d.job
        let lo := (opAt v 0).toNat
        let len := (opAt v 1).toNat
        let here (core : Nat) : Bool := shootCore slot (min scope 3) core
        let t1 := onDrill t slot (fun e => { e with dt := max e.dt (releaseDt d scope) })
        let t2 := strikeEntries (dropTrans t1 here (fun k => decide (3 ≤ scope ∧ k = dieOf slot)) job lo len) here job
        let busy := copiesUse t2 (fun k => decide (4 ≤ scope ∨ (3 ≤ scope ∧ dieOf k = dieOf slot) ∨ clusterOf k = clusterOf slot)) job lo len
        if scope ≤ 2 ∧ !busy then .ok t2 0 none
        else
          let id := t2.nextId
          let others := if 4 ≤ scope then (below 4).filter (fun k => decide (k ≠ dieOf slot) && !(dieAt t2 k).failed) else []
          let st := if scope ≤ 2 then [] else (t2.stores.filter (fun p => match drillAt t2 p.2.slot with | some e => decide (e.job = job ∧ (4 ≤ scope ∨ dieOf p.2.slot = dieOf slot)) | none => false)).map (·.1)
          if others.isEmpty && st.isEmpty && !busy then .ok t2 0 none
          else .wait (.shoot id) (postAll { t2 with nextId := id + 1, shoots := tabPut t2.shoots id { slot, job, lo, len, scope, await := others, stores := st } }
            (others.map (fun k => Msg.shootRemote k id))))
/-- SHOOT_REMOTE: another die removes, strikes and acknowledges (spec 26, R421). -/
def execShootRemote (die id : Nat) (s : State) : Host.Outcome State Fault Refusal :=
  match tabFind s.shoots id with
  | none => .next s
  | some x =>
    let here (core : Nat) : Bool := decide (core / 192 = die)
    let s1 := strikeEntries (dropTrans s here (fun k => decide (k = die)) x.job x.lo x.len) here x.job
    let s2 := { s1 with shoots := tabPut s1.shoots id { x with await := x.await.filter (fun k => decide (k ≠ die)) } }
    .next (wake s2 (fun w => match w with | .shoot _ => true | _ => false))

/-! ## CLSAVE and CLREST (spec 23, R395 to R397) -/

/-- The two words of a save slot (spec 16, Table 16.1). -/
def entryWords (e : ClEntry) : Nat × Nat := (e.state.toNat * 2 ^ 62 + e.ctx * 2 ^ 52 + e.line * 128, e.wts)
/-- The save block of entries: header, then 32 slots. -/
def saveBlock (es : List ClEntry) (ovf : Bool) : Nat :=
  let ws := es.map entryWords
  es.length + (if ovf then 256 else 0) + packFields 128 (fun i => match ws[i]? with | some w => w.1 + w.2 * 2 ^ 64 | none => 0) 32 * 2 ^ 128
/-- CLSAVE: every unresolved or struck entry goes to the block and is freed. -/
def execClsave (a : BitVec 6) (s : State) : Host.Outcome State Fault Refusal :=
  stemWord { ins := .clsave a, srcs := [a], priv := true } s (fun d v t =>
    stemBench t d (opAt v 0).toNat 528 16 (fun u core off =>
      let es := (clEntries u u.cur).map (·.2)
      let u1 := benchWrite u core off 528 (saveBlock es d.ovf)
      .ok (onDrill (dropEntries u1 u.cur (fun _ => true)) u.cur (fun e => { e with ovf := false })) 0 none))
/-- A save slot that CLREST may restore: state unresolved or struck, no reserved bit. -/
def slotOk (w0 w1 : Nat) : Bool := decide ((bitsOf w0 62 2 = 1 ∨ bitsOf w0 62 2 = 2) ∧ bitsOf w0 56 6 = 0 ∧ bitsOf w0 0 7 = 0 ∧ bitsOf w1 48 16 = 0)
/-- CLREST: the entries come back struck, once the drill holds none and the core has room. -/
def execClrest (a : BitVec 6) (s : State) : Host.Outcome State Fault Refusal :=
  stemWord { ins := .clrest a, srcs := [a], priv := true } s (fun d v t =>
    stemBench t d (opAt v 0).toNat 528 16 (fun u core off => benchBad u core off 528 (
      let x := benchRead u core off 528
      let n := bitsOf x 0 6
      let w (i : Nat) : Nat × Nat := (bitsOf x (128 + 128 * i) 64, bitsOf x (192 + 128 * i) 64)
      if bitsOf x 6 2 ≠ 0 ∨ bitsOf x 9 119 ≠ 0 ∨ 32 < n ∨ !((below n).all (fun i => slotOk (w i).1 (w i).2)) then .trap cClSave (opAt v 0) 0 []
      else if !(clEntries u u.cur).isEmpty ∨ 128 < (coreAt u (coreOf u.cur)).cloche.length + n then .wait .verdicts u
      else
        let u1 := (below n).foldl (fun (r : State) i =>
          let e : ClEntry := { state := 2, ctx := ctxOf u.cur, line := bitsOf (w i).1 7 45, wts := bitsOf (w i).2 0 48 }
          onCore { r with nextId := r.nextId + 1 } (coreOf u.cur) (fun c => { c with cloche := tabPut c.cloche r.nextId e })) u
        .ok (onDrill u1 u.cur (fun e => { e with ovf := bitOf x 8 })) 0 none)))

end Sys2Proof.Machine
end

