-- ==== Sys2Proof/Machine/Barrier.lean ====
section
/-!
DEFINITION. Barrier words in the bench: the instructions, tile arrivals and error phases of engines, and the wakes of parked drills
(spec 11, R223 to R230). -/
namespace Sys2Proof.Machine

/-- The fields of a barrier word (spec 11, Table 11.3). -/
structure Bar where
  ph : Bool
  err : Bool
  fc : Nat
  exp : Nat
  arr : Nat
  tt : Nat
  tc : Nat
  deriving DecidableEq, Repr
def barOf (x : Nat) : Bar :=
  { ph := bitOf x 63, err := bitOf x 62, fc := bitsOf x 56 6, exp := bitsOf x 44 12, arr := bitsOf x 32 12, tt := bitsOf x 16 16, tc := bitsOf x 0 16 }
def barBits (b : Bar) : Nat :=
  (if b.ph then 2 ^ 63 else 0) + (if b.err then 2 ^ 62 else 0) + b.fc * 2 ^ 56 + b.exp * 2 ^ 44 + b.arr * 2 ^ 32 + b.tt * 2 ^ 16 + b.tc
def barArmed (b : Bar) : Bool := decide (b.exp ≠ 0 ∨ b.tt ≠ 0)
/-- Completion judged after an arrival: the word, and whether the phase ended (spec 11, R224). -/
def barJudge (b : Bar) : Bar × Bool :=
  if barArmed b ∧ b.exp ≤ b.arr ∧ b.tt ≤ b.tc then
    let ovl := decide (b.exp < b.arr ∨ b.tt < b.tc)
    ({ b with ph := !b.ph, arr := 0, tc := 0, err := ovl, fc := if ovl then 1 else 0 }, true)
  else (b, false)
/-- A drill arrival of n: changes nothing when ERR is set or n is 0. -/
def barArrive (b : Bar) (n : Nat) : Bar × Bool := if b.err ∨ n = 0 then (b, false) else barJudge { b with arr := min (b.arr + n) 4095 }
/-- A tile arrival (spec 11, R225); an unarmed word counts it and judges nothing. -/
def barTile (b : Bar) : Bar × Bool := if b.err then (b, false) else barJudge { b with tc := min (b.tc + 1) 65535 }
/-- The error phase (spec 11, R225). -/
def barError (b : Bar) (fc : Nat) : Bar := { b with ph := !b.ph, err := true, fc := fc, arr := 0, tc := 0 }

/-- Every drill parked on a barrier word is to wake (spec 11, R228): its wake is recorded with the word as it stands. -/
def barWakes (s : State) (core off : Nat) (x : Nat) : State :=
  let hit (d : Drill) : Bool := match d.stemWait with | .barw c o _ none => decide (c = core ∧ o = off) | _ => false
  let slots := (s.drills.filter (fun e => hit e.2)).map (·.1)
  slots.foldl (fun t k => post (onDrill t k (fun d => match d.stemWait with
    | .barw c o g _ => { d with stemWait := .barw c o g (some (BitVec.ofNat 64 x)) }
    | _ => d)) (.barwWake k)) s
/-- A barrier word replaced, with its waiters woken where its phase ended. -/
def barStore (s : State) (core off : Nat) (b : Bar × Bool) : State :=
  let s1 := benchWrite s core off 8 (barBits b.1)
  if b.2 then barWakes s1 core off (barBits b.1) else s1
/-- The tile arrival of an engine operation at a bench address of its cluster (spec 11, R225). -/
def tileArrival (s : State) (slot a : Nat) : State :=
  match benchPlace s slot a with
  | some (core, off) => barStore s core off (barTile (barOf (benchRead s core off 8)))
  | none => s
/-- The error phase that an engine operation completes. -/
def errorPhase (s : State) (slot a fc : Nat) : State :=
  match benchPlace s slot a with
  | some (core, off) => barStore s core off (barError (barOf (benchRead s core off 8)) fc, true)
  | none => s

/-- A barrier instruction: the word is checked as R124 checks it, then updated. -/
def barWord (i : Instr) (d a b : BitVec 6) (release : Bool) (s : State) (f : State → Drill → Nat → Nat → Nat → Word → Body) : Host.Outcome State Fault Refusal :=
  stemWord { ins := i, srcs := [a, b], dst := some d, release } s (fun dr v t =>
    stemBench t dr (opAt v 0).toNat 8 8 (fun u core off => benchBad u core off 8 (f u dr core off (benchRead u core off 8) (opAt v 1))))
/-- BARI: PH, EXP and TT come from the template, the rest is cleared; no waiter wakes. -/
def execBari (d a b : BitVec 6) (s : State) : Host.Outcome State Fault Refusal :=
  barWord (.bari d a b) d a b true s (fun u _ core off w g =>
    let x := barOf g.toNat
    .ok (benchWrite u core off 8 (barBits { x with err := false, fc := 0, arr := 0, tc := 0 })) (BitVec.ofNat 64 w) none)
/-- BARA. -/
def execBara (d a b : BitVec 6) (s : State) : Host.Outcome State Fault Refusal :=
  barWord (.bara d a b) d a b true s (fun u _ core off w g => .ok (barStore u core off (barArrive (barOf w) (g.toNat % 4096))) (BitVec.ofNat 64 w) none)
/-- BARW: a word whose wake has reached it completes with the word as its completion left it, or as it stands after a restore (spec 11, R227,
R230); otherwise it returns at once on a completed phase, an error or an unarmed word, and else the drill parks. -/
def execBarw (d a b : BitVec 6) (s : State) : Host.Outcome State Fault Refusal :=
  barWord (.barw d a b) d a b false s (fun u dr core off w g =>
    let x := barOf w
    if dr.wake && decide (dr.wkind = 2) then .ok u (dr.woke.getD (BitVec.ofNat 64 w)) none
    else if (x.ph != bitOf g.toNat 0) || x.err || !barArmed x then .ok u (BitVec.ofNat 64 w) none
    else .wait (.barw core off d.toNat none) u)
/-- BART. -/
def execBart (d a b : BitVec 6) (s : State) : Host.Outcome State Fault Refusal :=
  barWord (.bart d a b) d a b false s (fun u _ _ _ w _ => .ok u (BitVec.ofNat 64 w) none)
/-- BARW_WAKE: the wake reaches the drill (spec 11, R228). -/
def execBarwWake (slot : Nat) (s : State) : Host.Outcome State Fault Refusal :=
  match drillAt s slot with
  | none => .next s
  | some d =>
    match d.stemWait with
    | .barw _ _ _ (some x) => .next (onDrill s slot (fun e => { e with stemWait := .none, wake := true, wkind := 2, woke := some x }))
    | _ => .next s

end Sys2Proof.Machine
end

