-- ==== Sys2Proof/Machine/Splits.lean ====
section
/-!
DEFINITION. The split table: lanes that leave, rejoining, switch points, routine start and end (spec 09, R174 to R185; 01, R18). -/
namespace Sys2Proof.Machine

def entryFree (e : SplitEntry) : Bool := decide (e.state = 0)
/-- Ready, running or waiting at an LJOIN. -/
def entryLive (e : SplitEntry) : Bool := decide (e.state = 1 ∨ e.state = 2 ∨ e.state = 3)

/-- Step 2 of R185 for entry i standing at P with depth d: the lanes of the entries still awaited. In a recomputation an entry that
stands at P and has not issued the LJOIN stays awaited (DEDUCED, log 12, from Table 9.4). -/
def awaited (c : LeafCtx) (i : Nat) (p : VAddr) (d : BitVec 4) (old : LaneMask) : LaneMask :=
  c.splits.foldl (fun m x =>
    let e := x.2
    if x.1 ≠ i ∧ entryLive e = true ∧ (d.toNat < e.depth.toNat ∨ (e.depth = d ∧ e.pc.toNat < p.toNat)) then m ||| e.sm
    else if x.1 ≠ i ∧ (e.state = 1 ∨ e.state = 2) ∧ e.depth = d ∧ e.pc = p then m ||| (e.sm &&& old) else m) 0

/-- The rejoin mask of an entry again: a waiter whose mask is empty becomes ready after its LJOIN (spec 09, R185). -/
def rejoinStep (a : LeafCtx) (x : Nat × SplitEntry) : LeafCtx :=
  let e := splitAt a x.1
  if e.state = 3 then
    let rj := awaited a x.1 e.pc e.depth e.rj
    if rj = 0 then putSplit a x.1 { e with state := 1, pc := e.pc + 12, rj := 0 } else putSplit a x.1 { e with rj := rj }
  else a
/-- One recomputation of the rejoin masks. -/
def rejoinPass (c : LeafCtx) : LeafCtx := c.splits.foldl rejoinStep c
def rejoinAll (c : LeafCtx) (n : Nat) : LeafCtx :=
  match n with
  | 0 => c
  | k + 1 => rejoinAll (rejoinPass c) k
/-- The rejoin masks after entries changed. -/
def rejoin (c : LeafCtx) : LeafCtx := rejoinAll c 16

/-- Lanes leave a context; an entry left without lanes becomes free (spec 09, R174, R178). -/
def ctxDrop (c : LeafCtx) (m : LaneMask) : LeafCtx :=
  rejoin { c with splits := c.splits.filterMap (fun x =>
    let e := { x.2 with em := x.2.em &&& ~~~m, sm := x.2.sm &&& ~~~m, rj := x.2.rj &&& ~~~m }
    if e.sm = 0 then none else some (x.1, e)) }
/-- Lanes leave the drill (spec 09, R174). -/
def dropLanes (d : Drill) (m : LaneMask) : Drill :=
  if m = 0 then d else { d with live := d.live &&& ~~~m, user := ctxDrop d.user m, sup := ctxDrop d.sup m }

/-- Every entry is free or ended: the routine is over (spec 09, R178). -/
def routineOver (c : LeafCtx) : Bool := c.splits.all (fun e => decide (e.2.state = 0 ∨ e.2.state = 4))
/-- The first ready entry in cyclic index order after i (spec 09, R181). -/
def nextReady (c : LeafCtx) (i : Nat) : Option Nat :=
  ((below 16).map (fun k => (i + 1 + k) % 16)).find? (fun j => decide ((splitAt c j).state = 1))
/-- Entry j runs. -/
def runEntry (c : LeafCtx) (j : Nat) : LeafCtx := putSplit { c with run := j } j { splitAt c j with state := 2 }
/-- The stream given up by entry i goes to the next ready entry (spec 09, R182). -/
def giveUp (c : LeafCtx) (i : Nat) : LeafCtx :=
  let c' := rejoin c
  match nextReady c' i with
  | some j => runEntry c' j
  | none => c'
/-- Entry i merges with every entry that satisfies p: the lowest index holds the unions, the others become free
(spec 09, R181). -/
def mergeInto (c : LeafCtx) (i : Nat) (p : Nat → SplitEntry → Bool) : LeafCtx × Nat :=
  let e := splitAt c i
  let others := c.splits.filter (fun x => decide (x.1 ≠ i) && p x.1 x.2)
  let low := others.foldl (fun a x => min a x.1) i
  let sm := others.foldl (fun a x => a ||| x.2.sm) e.sm
  let em := others.foldl (fun a x => a ||| x.2.em) e.em
  let c1 := others.foldl (fun a x => { a with splits := tabDel a.splits x.1 }) { c with splits := tabDel c.splits i }
  (putSplit c1 low { e with sm := sm, em := em }, low)
/-- A switch point reached by the running entry, which stands at its next PC (spec 09, R181). -/
def switchPoint (c : LeafCtx) : LeafCtx :=
  let i := c.run
  let e := splitAt c i
  let c0 := putSplit c i { e with state := 1 }
  let (c1, low) := mergeInto c0 i (fun _ x => decide (x.state = 1 ∧ x.pc = e.pc ∧ x.depth = e.depth ∧ x.rs = e.rs))
  let c2 := rejoin c1
  match nextReady c2 low with
  | some j => runEntry c2 j
  | none => runEntry c2 low

/-- The head entry of the queue starts as a routine (spec 01, R18; 09, R177); with no live lane it ends at once (R36). -/
def startRoutine (c : LeafCtx) (live : LaneMask) : LeafCtx :=
  if routineRuns c then c
  else match c.queue with
    | [] => c
    | q :: r =>
      let sp : Tab SplitEntry := if live = 0 then [] else [(0, { state := 2, pc := q.entry, em := live, sm := live })]
      { c with queue := r, s := tabDel q.regs 0, fmode := q.fmode, clo := q.clo, run := 0, splits := sp }

/-- The routine ends if it is over: every entry becomes free (spec 09, R177, R178), its cloche entries count as those of an ended
routine (spec 16, R294), and the waits on it and the next queued entry are served. -/
def endRoutine (s : State) (slot : Nat) : State :=
  match drillAt s slot with
  | none => s
  | some d =>
    let c := leafCtx d
    if !routineOver c then s
    else
      let s1 := putDrill s slot (onLeaf d (fun c => { c with splits := [], run := 0 }))
      let s2 := onCore s1 (coreOf slot) (fun k => { k with cloche := k.cloche.map (fun e =>
        if e.2.ctx = ctxOf slot ∧ e.2.leaf = true then (e.1, { e.2 with routineEnded := true }) else e) })
      let s3 := if c.queue.isEmpty then s2 else post s2 (.routineStart slot)
      let s4 := if d.stemWait = .lwait then post s3 (.lwaitRelease slot) else s3
      if d.stemWait = .exited then post s4 (.drillRetire slot) else s4

end Sys2Proof.Machine
end

