-- ==== Sys2Proof/Machine/LeafWord.lean ====
section
/-!
DEFINITION. The pipeline of every leaf word: legality, register budget, hoses granted, release gate, parking, effect, pops, pushes, results,
windows and flags, next PC of the running split (spec 03, R57 to R75; 07, R137 to R141; 09, R181 to R188; 10, R196; 11, R218). -/
namespace Sys2Proof.Machine

/-! ## Operands (spec 03, R57 to R61) -/

/-- Where a source field of a leaf word gets its value. -/
inductive Src where
  | nothing
  | vec (f : Nat)
  | sca (f : Nat)
  deriving DecidableEq, Repr
/-- A source as the word reads it: a vector register with the one above it, a scalar, or nothing. -/
inductive Opd where
  | nothing
  | vec (lo hi : Vec)
  | sca (x : Word)
  deriving DecidableEq, Repr

/-- The source that a field of a role names. -/
def srcOf (r : Role) (flag : Bool) (x : Nat) : Src :=
  match r with
  | .vec => .vec x
  | .vec32 => .vec x
  | .vecReg => .vec x
  | .vecSrc => .vec x
  | .vecOf _ => .vec x
  | .vecOrScalar => if flag then .sca x else .vec x
  | .idxOrScalar => if flag then .sca x else .vec x
  | .scalar => .sca x
  | .scalarSb => .sca x
  | .scalarPair => .nothing
  | .res => .nothing
  | .mask => .nothing
  | .tile => .nothing
  | .tilePair => .nothing
  | .group _ => .nothing
  | .groupEven _ => .nothing
/-- Words whose vd is a data source: VST, VSTB, VSTL, VCAS (spec 03, R59). -/
def vdIsSource (op : Nat) : Bool := decide (op = 0x201 ∨ op = 0x203 ∨ op = 0x207 ∨ op = 0x20A)
/-- Words whose vd is no destination. -/
def vdOnlySource (op : Nat) : Bool := decide (op = 0x201 ∨ op = 0x203 ∨ op = 0x207)
/-- Words with a barrier scalar in imm32[4:0] (spec 03, R70). -/
def hasBarrier (op : Nat) : Bool := decide (op = 0x300 ∨ op = 0x301 ∨ op = 0x303 ∨ op = 0x304)
/-- The sources of a word in the order in which they are read: va, vb, vc, vd, imm32 (spec 03, R59). -/
def leafSrcs (op : Nat) (w : LeafWord) (h : Shape) : List Src :=
  let md := w.md.toNat
  let c : Src := if op = 0x20B then .sca w.vc.toNat else srcOf h.vc false w.vc.toNat
  [srcOf h.va (bitOf md 0) w.va.toNat, srcOf h.vb (bitOf md 1) w.vb.toNat, c,
    if vdIsSource op then .vec w.vd.toNat else .nothing, if hasBarrier op then .sca (w.imm.toNat % 32) else .nothing]
/-- The hose that a source pops. -/
def srcHose (x : Src) : Option Nat :=
  match x with
  | .nothing => none
  | .vec f => if 240 ≤ f then some (f - 224) else none
  | .sca f => if 16 ≤ f then some (f - 16) else none
def srcHoses (l : List Src) : List Nat := l.filterMap srcHose
/-- The hose that a word pushes. -/
def leafPushes (op : Nat) (w : LeafWord) (h : Shape) : List Nat :=
  let x := w.vd.toNat
  if vdOnlySource op then []
  else match h.vd with
    | .vec => if 240 ≤ x then [x - 224] else []
    | .vec32 => if 240 ≤ x then [x - 224] else []
    | .scalar => if 16 ≤ x then [x - 16] else []
    | _ => []
/-- The value of a source, after the pops of the sources before it. -/
def srcValue (s : State) (d : Drill) (earlier : List Nat) (x : Src) : Opd :=
  let split := (leafCtx d).run
  match x with
  | .nothing => .nothing
  | .vec f => if 240 ≤ f then .vec (((hoseQ s d (f - 224)).drop (countOf earlier (f - 224))).headD 0) 0 else .vec (vRead d split f) (vRead d split (f + 1))
  | .sca f => if 16 ≤ f then .sca ((((hoseQ s d (f - 16)).drop (countOf earlier (f - 16))).headD 0).setWidth 64) else .sca (sRead d split f)
def srcValues (s : State) (d : Drill) (earlier : List Nat) (l : List Src) : List Opd :=
  match l with
  | [] => []
  | x :: r => srcValue s d earlier x :: srcValues s d (earlier ++ (srcHose x).toList) r
/-- Operand n of a word. -/
def opd (v : List Opd) (n : Nat) : Opd := v.getD n .nothing
/-- The element of lane l of an operand of w bits (spec 07, R137, R139). -/
def elem (w : Nat) (x : Opd) (l : Nat) : Nat :=
  match x with
  | .nothing => 0
  | .vec lo hi => if w = 64 then lane lo l + lane hi l * 2 ^ 32 else lane lo l % 2 ^ w
  | .sca y => y.toNat % 2 ^ w
/-- A scalar operand. -/
def scaOf (x : Opd) : Word := match x with | .sca y => y | .vec .. => 0 | .nothing => 0
/-- A 32-bit vector operand. -/
def vecOf (x : Opd) : Vec := match x with | .vec lo _ => lo | .sca y => vecOfLanes (fun _ => y.toNat) | .nothing => 0

/-! ## Register budget (spec 10, R196) -/

/-- The registers that a field names, one past the highest; 0 where it names none. -/
def topReg (r : Role) (bits : Nat) (flag : Bool) (x : Nat) : Nat :=
  let one (b : Nat) : Nat := if 240 ≤ x then 0 else if b = 64 then x + 2 else x + 1
  match r with
  | .vec => one bits
  | .vec32 => one 32
  | .vecReg => one 32
  | .vecSrc => one bits
  | .vecOf b => one b
  | .vecOrScalar => if flag then 0 else one bits
  | .idxOrScalar => if flag then 0 else one 32
  | .group n => x + n
  | .groupEven n => x + n
  | .res => 0
  | .scalar => 0
  | .scalarSb => 0
  | .scalarPair => 0
  | .mask => 0
  | .tile => 0
  | .tilePair => 0
def overBudget (w : LeafWord) (h : Shape) (budget : Nat) : Bool :=
  let bits := typeBits w.ty.toNat
  let md := w.md.toNat
  decide (8 * budget < max (max (topReg h.vd bits false w.vd.toNat) (topReg h.va bits (bitOf md 0) w.va.toNat))
    (max (topReg h.vb bits (bitOf md 1) w.vb.toNat) (topReg h.vc bits false w.vc.toNat)))

/-! ## Results -/

/-- A result of a leaf word. -/
inductive LeafWrite where
  /-- Lanes m of a vector field. -/
  | vec (f : Nat) (m : LaneMask) (x : Vec)
  /-- A scalar field. -/
  | sca (f : Nat) (x : Word)
  /-- A mask register. -/
  | msk (k : Nat) (x : LaneMask)
  deriving DecidableEq, Repr
/-- What the body of a leaf word answers. -/
inductive LeafBody where
  /-- The word completes: effects, results, flags, and how the drill's leaf context moves on. -/
  | ok (s : State) (ws : List LeafWrite) (flags : Nat) (mv : Drill → Drill)
  /-- The word completes, and then a trap is taken (spec 11, R238). -/
  | okTrap (s : State) (ws : List LeafWrite) (mv : Drill → Drill) (code : Nat) (tval : Word) (lanes : LaneMask) (tea : Tab Word)
  /-- A precise fault; the word has no effect. -/
  | trap (code : Nat) (tval : Word) (lanes : LaneMask) (tea : Tab Word)
  /-- A precise fault after which this state stands. -/
  | trapIn (s : State) (code : Nat) (tval : Word) (lanes : LaneMask) (tea : Tab Word)
  /-- The stream waits; the word has no effect but the requests it has sent. -/
  | wait (w : Wait) (s : State)

/-- A context after an entry changed: waiting entries look at their rejoin masks again (spec 09, R185). -/
def settleJoin (c : LeafCtx) : LeafCtx := if c.splits.any (fun e => decide (e.2.state = 3)) then rejoin c else c
/-- The running entry goes on at an address. -/
def goTo (dest : VAddr) (d : Drill) : Drill := onLeaf d (fun c => settleJoin (putSplit c c.run { runSplit c with pc := dest }))
/-- The running entry goes on at the next word. -/
def nextWord (d : Drill) : Drill := goTo ((runSplit (leafCtx d)).pc + 12) d
/-- The entry that now holds the lanes of entry o. -/
def heirOf (c c' : LeafCtx) (o : Nat) : Nat :=
  let m := (splitAt c o).sm
  if (splitAt c' o).sm &&& m ≠ 0 then o else match c'.splits.find? (fun e => decide (e.2.sm &&& m ≠ 0)) with | some e => e.1 | none => o
/-- Windows follow the lanes of their split when entries merge (spec 09, R181, R184). -/
def heirWins (c : LeafCtx) (d : Drill) : Drill :=
  { d with wins := d.wins.map (fun p => if p.kind = 0 then p else { p with owner := heirOf c (leafCtx d) p.owner }) }

/-- One result enters its register, or opens a window of `la` words. -/
def leafResult (split la : Nat) (r : Drill × List PendWrite) (x : LeafWrite) : Drill × List PendWrite :=
  let (d, opened) := r
  match x with
  | .msk k m => (kPut d k m, opened)
  | .vec f m v =>
    if 240 ≤ f then r
    else if la = 0 then (vWrite d split f m v, opened)
    else
      let own := (d.wins.filter (fun p => decide (p.kind = 1 ∧ p.reg = f ∧ p.owner = split))).foldl (fun a p => a ||| p.lanes) (0 : LaneMask)
      (commitWhere d (fun p => decide (p.kind = 1 ∧ p.reg = f ∧ p.owner ≠ split)), opened ++ [{ kind := 1, owner := split, reg := f, lanes := m &&& ~~~own, value := v, left := la }])
  | .sca f v =>
    if 16 ≤ f ∨ f = 0 then r
    else if la = 0 then (sWrite d split f v, opened)
    else if d.wins.any (fun p => decide (p.kind = 2 ∧ p.reg = f ∧ p.owner = split)) then r
    else (commitWhere d (fun p => decide (p.kind = 2 ∧ p.reg = f)), opened ++ [{ kind := 2, owner := split, reg := f, lanes := 0, value := v.setWidth 1024, left := la }])
/-- The entry that a result pushes to a hose, with zero in the lanes it does not write (spec 01, R23). -/
def leafPush (x : LeafWrite) : Option (Nat × Vec) :=
  match x with
  | .vec f m v => if 240 ≤ f then some (f - 224, vecOfLanes (fun l => if inMask m l then lane v l else 0)) else none
  | .sca f v => if 16 ≤ f then some (f - 16, v.setWidth 1024) else none
  | .msk _ _ => none

/-- The shape of a leaf word's issue. -/
structure LeafPlan where
  op : Nat
  w : LeafWord
  /-- Can transfer control (spec 01, R31). -/
  ctl : Bool := false
  /-- A release under R294. -/
  release : Bool := false
  /-- The issue-time checks of R71 and R363 fail. -/
  late : State → Bool := fun _ => false

/-- The registers of a drill after a word's results, flags and windows (spec 05, R93; 01, R31). -/
def leafRegs (p : LeafPlan) (ws : List LeafWrite) (flags : Nat) (d : Drill) : Drill :=
  let split := (leafCtx d).run
  let r := ws.foldl (leafResult split p.w.la.toNat) (d, [])
  orFlags (passWord r.1 true split p.ctl r.2) (BitVec.ofNat 8 flags)
/-- A leaf word completes: pops, pushes, results, windows, flags, next PC; a routine that is over ends. -/
def leafDone (s : State) (slot : Nat) (p : LeafPlan) (pops : List Nat) (ws : List LeafWrite) (flags : Nat) (mv : Drill → Drill) : State :=
  let s1 := hoseMoves s slot pops (ws.filterMap leafPush)
  let s2 := onDrill s1 slot (fun d =>
    let d1 := heirWins (leafCtx d) (mv (leafRegs p ws flags d))
    { d1 with
      leafWait := .none, walked := d.walked.filter (fun w => !w.1), asked := d.asked.filter (fun w => !w.1), granted := d.granted.filter (fun w => !w.1),
      got := d.got.filter (fun g => !g.leaf), claims := d.claims.filter (fun c => !c.1), lastLeaf := some s.cycle })
  endRoutine s2 slot

/-- Bits [95:32] of a leaf word, as TVAL carries them (spec 23, Table 23.1). -/
def leafHigh (p : LeafPlan) : Word := BitVec.ofNat 64 ((packLeaf p.op p.w).toNat / 2 ^ 32)

/-- A leaf word of the running split of the drill whose turn it is (spec 03, R75). -/
def leafWord (p : LeafPlan) (s : State) (body : Drill → LaneMask → List Opd → State → LeafBody) : Host.Outcome State Fault Refusal :=
  let slot := s.cur
  match drillAt s slot with
  | none => .next s
  | some d =>
    if !wfLeaf p.op p.w || p.late s then .next (leafTrap s slot cIllegal (leafHigh p) 0 [])
    else match leafShape p.op p.w with
      | none => .next s
      | some h =>
        if overBudget p.w h d.budget then .next (leafTrap s slot cBudget 0 0 [])
        else
          let srcs := leafSrcs p.op p.w h
          let pops := srcHoses srcs
          let pushes := leafPushes p.op p.w h
          match hoseDenied d true pops pushes with
          | some k => .next (leafTrap s slot cHose (BitVec.ofNat 64 k) 0 [])
          | none =>
            match (if p.release then releaseGate s slot d true else none) with
            | some (.wait w t) => .next (streamPark t slot true w [])
            | some (.trap c v _ _) => .next (leafTrap s slot c v 0 [])
            | some (.ok t _ _) => .next t
            | some (.trapIn t _ _ _ _) => .next t
            | none =>
              if !hosesReady s slot true d pops pushes then .next (streamPark s slot true .hose [])
              else
                match body d (effMask d p.w.k.toNat) (srcValues s d [] srcs) s with
                | .trap c v m tea => .next (leafTrap s slot c v m tea)
                | .trapIn t c v m tea => .next (leafTrap t slot c v m tea)
                | .wait w t => .next (streamPark t slot true w pops)
                | .ok t ws fl mv => .next (leafDone t slot p pops ws fl mv)
                | .okTrap t ws mv c v m tea => .next (leafTrap (leafDone t slot p pops ws 0 mv) slot c v m tea)

/-! ## Lane-wise words (spec 07, R137 to R140) -/

/-- A w-bit result as its lane holds it: sign-extended for i types (spec 07, R137). -/
def laneBits (ty x : Nat) : Nat := if isSignedTy ty then wrapTo 32 (signOf (typeBits ty) x) else x
/-- Elements of a type written to a vector field in the lanes of m. -/
def vecWrites (ty f : Nat) (m : LaneMask) (xs : List Nat) : List LeafWrite :=
  if typeBits ty = 64 then
    [.vec f m (vecOfLanes (fun l => xs.getD l 0 % 2 ^ 32)), .vec (f + 1) m (vecOfLanes (fun l => xs.getD l 0 / 2 ^ 32))]
  else [.vec f m (vecOfLanes (fun l => laneBits ty (xs.getD l 0)))]
/-- The flags of a list of results. -/
def orAll (xs : List Nat) : Nat := xs.foldl (fun a x => a ||| x) 0
/-- The results of a function in the active lanes; 0 elsewhere. -/
def onLanes (m : LaneMask) (f : Nat → Nat × Nat) : List (Nat × Nat) := (below 32).map (fun l => if inMask m l then f l else (0, 0))
/-- Results and flags of every active lane to vd. -/
def laneOut (s : State) (w : LeafWord) (ty : Nat) (m : LaneMask) (f : Nat → Nat × Nat) : LeafBody :=
  let r := onLanes m f
  .ok s (vecWrites ty w.vd.toNat m (r.map (·.1))) (orAll (r.map (·.2))) nextWord
/-- A lane-wise word: f of the routine's FMODE and of the elements a, b and c gives a result and flags. -/
def laneWord (op : Nat) (w : LeafWord) (f : Nat → Nat → Nat → Nat → Nat × Nat) (s : State) : Host.Outcome State Fault Refusal :=
  leafWord { op, w } s (fun d m v t =>
    let b := typeBits w.ty.toNat
    laneOut t w w.ty.toNat m (fun l => f (leafCtx d).fmode.toNat (elem b (opd v 0) l) (elem b (opd v 1) l) (elem b (opd v 2) l)))

/-- A fault of lanes: TVAL, mask and TEA of the failing lanes, by their EA (spec 08, R159). -/
def laneFault (code : Nat) (ea : Nat → Nat) (bad : List Nat) : LeafBody :=
  .trap code (BitVec.ofNat 64 (ea (bad.headD 0))) (maskOf (fun l => decide (l ∈ bad))) (bad.map (fun l => (l, BitVec.ofNat 64 (ea l))))

end Sys2Proof.Machine
end

