-- ==== Sys2Proof/Machine/LeafInt.lean ====
section
/-!
DEFINITION. Leaf integer words, selection, comparison, masks, scalars, moves and cross-lane words (spec 07, R142, R143, R149 to R151, R155, R156; 08,
R170 to R173; 09, R174). -/
namespace Sys2Proof.Machine

/-! ## Integer arithmetic (spec 07, R142, Table 7.2) -/

/-- An element as the exact integer of its type. -/
def intVal (ty x : Nat) : Int := if isSignedTy ty then signOf (typeBits ty) x else (x : Int)
/-- An exact result wrapped to its type, or saturated where the word names FMODE.SAT and it is 1 (spec 05, R87, R88). -/
def intFit (fm ty : Nat) (x : Int) : Nat × Nat :=
  let b := typeBits ty
  if bitOf fm 5 then
    let r := satTo (intMin (isSignedTy ty) b) (intMax (isSignedTy ty) b) x
    (wrapTo b r.1, r.2)
  else (wrapTo b x, 0)
/-- An integer word whose exact result may saturate. -/
def intWord (op : Nat) (w : LeafWord) (f : Int → Int → Int → Int) (s : State) : Host.Outcome State Fault Refusal :=
  let ty := w.ty.toNat
  laneWord op w (fun fm a b c => intFit fm ty (f (intVal ty a) (intVal ty b) (intVal ty c))) s
/-- A word on the bits of its elements: f of the width and of a and b. -/
def bitWord (op : Nat) (w : LeafWord) (f : Nat → Nat → Nat → Nat) (s : State) : Host.Outcome State Fault Refusal :=
  let b := typeBits w.ty.toNat
  laneWord op w (fun _ x y _ => (f b x y % 2 ^ b, 0)) s

/-- VADD. -/
def execVadd (w : LeafWord) (s : State) : Host.Outcome State Fault Refusal := intWord 0x001 w (fun a b _ => a + b) s
/-- VSUB. -/
def execVsub (w : LeafWord) (s : State) : Host.Outcome State Fault Refusal := intWord 0x002 w (fun a b _ => a - b) s
/-- VMUL. -/
def execVmul (w : LeafWord) (s : State) : Host.Outcome State Fault Refusal := intWord 0x003 w (fun a b _ => a * b) s
/-- VMULH: the high half of the exact product. -/
def execVmulh (w : LeafWord) (s : State) : Host.Outcome State Fault Refusal :=
  let ty := w.ty.toNat
  bitWord 0x004 w (fun b x y => wrapTo b (intVal ty x * intVal ty y / (2 ^ b : Nat))) s
/-- VMAD: a × b + c, formed exactly. -/
def execVmad (w : LeafWord) (s : State) : Host.Outcome State Fault Refusal := intWord 0x005 w (fun a b c => a * b + c) s
/-- VAND. -/
def execVand (w : LeafWord) (s : State) : Host.Outcome State Fault Refusal := bitWord 0x006 w (fun _ a b => a &&& b) s
/-- VOR. -/
def execVor (w : LeafWord) (s : State) : Host.Outcome State Fault Refusal := bitWord 0x007 w (fun _ a b => a ||| b) s
/-- VXOR. -/
def execVxor (w : LeafWord) (s : State) : Host.Outcome State Fault Refusal := bitWord 0x008 w (fun _ a b => a ^^^ b) s
/-- VNOT. -/
def execVnot (w : LeafWord) (s : State) : Host.Outcome State Fault Refusal := bitWord 0x009 w (fun n a _ => 2 ^ n - 1 - a) s
/-- VSHL by b[log2 w − 1 : 0]. -/
def execVshl (w : LeafWord) (s : State) : Host.Outcome State Fault Refusal := bitWord 0x00A w (fun n a b => a * 2 ^ (b % n)) s
/-- VSHR, zeros in for i and n alike. -/
def execVshr (w : LeafWord) (s : State) : Host.Outcome State Fault Refusal := bitWord 0x00B w (fun n a b => a / 2 ^ (b % n)) s
/-- VSHA, copies of the top bit in for i and n alike. -/
def execVsha (w : LeafWord) (s : State) : Host.Outcome State Fault Refusal := bitWord 0x00C w (fun n a b => wrapTo n (signOf n a / (2 ^ (b % n) : Nat))) s
/-- VMIN. -/
def execVmin (w : LeafWord) (s : State) : Host.Outcome State Fault Refusal :=
  let ty := w.ty.toNat
  bitWord 0x00D w (fun _ a b => if intVal ty a ≤ intVal ty b then a else b) s
/-- VMAX. -/
def execVmax (w : LeafWord) (s : State) : Host.Outcome State Fault Refusal :=
  let ty := w.ty.toNat
  bitWord 0x00E w (fun _ a b => if intVal ty a ≤ intVal ty b then b else a) s
/-- VABS. -/
def execVabs (w : LeafWord) (s : State) : Host.Outcome State Fault Refusal := intWord 0x00F w (fun a _ _ => (a.natAbs : Int)) s
/-- VNEG. -/
def execVneg (w : LeafWord) (s : State) : Host.Outcome State Fault Refusal := intWord 0x010 w (fun a _ _ => 0 - a) s
/-- VCLZ. -/
def execVclz (w : LeafWord) (s : State) : Host.Outcome State Fault Refusal := bitWord 0x011 w (fun n a _ => leadZeros n a) s
/-- VPOPC. -/
def execVpopc (w : LeafWord) (s : State) : Host.Outcome State Fault Refusal := bitWord 0x012 w (fun n a _ => popCount n a) s
/-- VSEL: bits moved unchanged by the selector register; k0 reads EM (spec 07, R143). -/
def execVsel (w : LeafWord) (s : State) : Host.Outcome State Fault Refusal :=
  leafWord { op := 0x013, w } s (fun d m v t =>
    let b := typeBits w.ty.toNat
    let sel := kGet d w.vc.toNat
    laneOut t w w.ty.toNat m (fun l => (if inMask sel l then elem b (opd v 0) l else elem b (opd v 1) l, 0)))

/-! ## Comparison (spec 07, R149, Table 7.6) -/

/-- A comparison of integers. -/
def intCond (c : Nat) (a b : Int) : Bool :=
  if c = 0 then decide (a = b) else if c = 1 then decide (a ≠ b) else if c = 2 then decide (a < b) else if c = 3 then decide (a ≤ b)
  else if c = 4 then decide (b < a) else decide (b ≤ a)
/-- A comparison of floating-point values, with its NV. -/
def floatCond (c : Nat) (a b : FVal) : Bool × Nat :=
  let nan := isNaN a || isNaN b
  let nv := if isSNaN a || isSNaN b || (nan && decide (2 ≤ c ∧ c ≤ 5)) then flNV else 0
  let r := if c = 6 then nan else if c = 7 then !nan else if nan then decide (c = 1)
    else if c = 0 then valEq a b else if c = 1 then !valEq a b else if c = 2 then valLt a b else if c = 3 then !valLt b a else if c = 4 then valLt b a else !valLt a b
  (r, nv)
/-- VCMP: kd receives the condition of the active lanes and 0 elsewhere. -/
def execVcmp (w : LeafWord) (s : State) : Host.Outcome State Fault Refusal :=
  leafWord { op := 0x080, w } s (fun d m v t =>
    let ty := w.ty.toNat
    let b := typeBits ty
    let c := w.md.toNat / 4
    let daz := bitOf (leafCtx d).fmode.toNat 3
    let r := (below 32).map (fun l =>
      if !inMask m l then (false, 0)
      else
        let x := elem b (opd v 0) l
        let y := elem b (opd v 1) l
        if isFloatTy ty then floatCond c (dazVal (fmtOf ty) daz x) (dazVal (fmtOf ty) daz y) else (intCond c (intVal ty x) (intVal ty y), 0))
    .ok t [.msk w.vd.toNat (maskOf (fun l => (r.getD l (false, 0)).1))] (orAll (r.map (·.2))) nextWord)

/-! ## Masks (spec 07, R150, R151) -/

/-- A word that writes a k register from k registers. -/
def maskWord (op : Nat) (w : LeafWord) (f : LaneMask → LaneMask → LaneMask) (s : State) : Host.Outcome State Fault Refusal :=
  leafWord { op, w } s (fun d _ _ t => .ok t [.msk w.vd.toNat (f (kGet d w.va.toNat) (kGet d w.vb.toNat))] 0 nextWord)
/-- KAND. -/
def execKand (w : LeafWord) (s : State) : Host.Outcome State Fault Refusal := maskWord 0x140 w (fun a b => a &&& b) s
/-- KOR. -/
def execKor (w : LeafWord) (s : State) : Host.Outcome State Fault Refusal := maskWord 0x141 w (fun a b => a ||| b) s
/-- KXOR. -/
def execKxor (w : LeafWord) (s : State) : Host.Outcome State Fault Refusal := maskWord 0x142 w (fun a b => a ^^^ b) s
/-- KNOT. -/
def execKnot (w : LeafWord) (s : State) : Host.Outcome State Fault Refusal := maskWord 0x143 w (fun a _ => ~~~a) s
/-- KMOV. -/
def execKmov (w : LeafWord) (s : State) : Host.Outcome State Fault Refusal := maskWord 0x144 w (fun a _ => a) s
/-- KPOPC. -/
def execKpopc (w : LeafWord) (s : State) : Host.Outcome State Fault Refusal :=
  leafWord { op := 0x145, w } s (fun d _ _ t => .ok t [.sca w.vd.toNat (BitVec.ofNat 64 (popCount 32 (kGet d w.va.toNat).toNat))] 0 nextWord)
/-- LMASK: EM of the running split becomes ka AND the split's lanes. -/
def execLmask (w : LeafWord) (s : State) : Host.Outcome State Fault Refusal :=
  leafWord { op := 0x146, w } s (fun d _ _ t =>
    let x := kGet d w.va.toNat
    .ok t [] 0 (fun e => nextWord (onLeaf e (fun c => putSplit c c.run { runSplit c with em := x &&& (runSplit c).sm }))))
/-- LGETM: kd receives EM. -/
def execLgetm (w : LeafWord) (s : State) : Host.Outcome State Fault Refusal :=
  leafWord { op := 0x147, w } s (fun d _ _ t => .ok t [.msk w.vd.toNat (kGet d 0)] 0 nextWord)

/-! ## Leaf scalars (spec 07, R155, Table 7.7) -/

/-- A word that writes a scalar field from scalars. -/
def scalarWord (op : Nat) (w : LeafWord) (f : Word → Word → Word) (s : State) : Host.Outcome State Fault Refusal :=
  leafWord { op, w } s (fun _ _ v t => .ok t [.sca w.vd.toNat (f (scaOf (opd v 0)) (scaOf (opd v 1)))] 0 nextWord)
/-- SADD. -/
def execSadd (w : LeafWord) (s : State) : Host.Outcome State Fault Refusal := scalarWord 0x0C0 w (fun a b => a + b) s
/-- SADDI. -/
def execSaddi (w : LeafWord) (s : State) : Host.Outcome State Fault Refusal := scalarWord 0x0C1 w (fun a _ => a + w.imm.signExtend 64) s
/-- SSUB. -/
def execSsub (w : LeafWord) (s : State) : Host.Outcome State Fault Refusal := scalarWord 0x0C2 w (fun a b => a - b) s
/-- SMUL. -/
def execSmul (w : LeafWord) (s : State) : Host.Outcome State Fault Refusal := scalarWord 0x0C3 w (fun a b => a * b) s
/-- SSHL. -/
def execSshl (w : LeafWord) (s : State) : Host.Outcome State Fault Refusal := scalarWord 0x0C4 w (fun a b => shlWord a (b.toNat % 64)) s
/-- SMOV. -/
def execSmov (w : LeafWord) (s : State) : Host.Outcome State Fault Refusal := scalarWord 0x0C5 w (fun a _ => a) s

/-! ## Moves (spec 07, R156) -/

/-- VMOV. -/
def execVmov (w : LeafWord) (s : State) : Host.Outcome State Fault Refusal :=
  leafWord { op := 0x100, w } s (fun _ m v t => let b := typeBits w.ty.toNat; laneOut t w w.ty.toNat m (fun l => (elem b (opd v 0) l, 0)))
/-- The FP64 bits of an FP32 value, exactly; a NaN keeps its quiet bit. -/
def widenF32 (x : Nat) : Nat :=
  match unpack fmtF32 x with
  | .nan n fr _ => signBit fmtF64 n + (2 ^ 11 - 1) * 2 ^ 52 + fr * 2 ^ 29
  | v => (roundVal fmtF64 1 false false v).1
/-- The element that VMOVI writes. -/
def immElem (ty x : Nat) : Nat :=
  if ty = 7 then wrapTo 64 (signOf 32 x) else if ty = 12 then widenF32 x else x % 2 ^ typeBits ty
/-- VMOVI. -/
def execVmovi (w : LeafWord) (s : State) : Host.Outcome State Fault Refusal :=
  leafWord { op := 0x101, w } s (fun _ m _ t => laneOut t w w.ty.toNat m (fun _ => (immElem w.ty.toNat w.imm.toNat, 0)))
/-- VLANE. -/
def execVlane (w : LeafWord) (s : State) : Host.Outcome State Fault Refusal :=
  leafWord { op := 0x102, w } s (fun _ m _ t => .ok t [.vec w.vd.toNat m (vecOfLanes id)] 0 nextWord)
/-- VBCS. -/
def execVbcs (w : LeafWord) (s : State) : Host.Outcome State Fault Refusal :=
  leafWord { op := 0x103, w } s (fun _ m v t => let b := typeBits w.ty.toNat; laneOut t w w.ty.toNat m (fun l => (elem b (opd v 0) l, 0)))
/-- An element extended to a scalar by its type. -/
def toScalar (ty x : Nat) : Word := if isSignedTy ty then wordOf (signOf (typeBits ty) x) else BitVec.ofNat 64 x
/-- VEXS: 0 from a lane that is not live. -/
def execVexs (w : LeafWord) (s : State) : Host.Outcome State Fault Refusal :=
  leafWord { op := 0x104, w } s (fun d _ v t =>
    let n := w.imm.toNat % 32
    let ty := w.ty.toNat
    .ok t [.sca w.vd.toNat (if inMask d.live n then toScalar ty (elem (typeBits ty) (opd v 0) n) else 0)] 0 nextWord)

/-! ## Cross-lane words (spec 08, R170 to R173) -/

/-- SrcLane(va, j) (R170): 0 from a lane that is not live. -/
def srcLane (d : Drill) (b : Nat) (x : Opd) (j : Nat) : Nat := if inMask d.live j then elem b x j else 0
/-- A shuffle word: lane l takes its source lane, or keeps va[l] where none is given (Table 8.4). -/
def shuffleWord (op : Nat) (w : LeafWord) (j : List Opd → Nat → Option Nat) (s : State) : Host.Outcome State Fault Refusal :=
  leafWord { op, w } s (fun d m v t =>
    let b := typeBits w.ty.toNat
    laneOut t w w.ty.toNat m (fun l => (match j v l with | some k => srcLane d b (opd v 0) k | none => elem b (opd v 0) l, 0)))
/-- VSHUF. -/
def execVshuf (w : LeafWord) (s : State) : Host.Outcome State Fault Refusal := shuffleWord 0x180 w (fun v l => some (elem 32 (opd v 1) l % 32)) s
/-- VSHFUP. -/
def execVshfup (w : LeafWord) (s : State) : Host.Outcome State Fault Refusal := shuffleWord 0x181 w (fun _ l => if l < w.imm.toNat % 32 then none else some (l - w.imm.toNat % 32)) s
/-- VSHFDN. -/
def execVshfdn (w : LeafWord) (s : State) : Host.Outcome State Fault Refusal := shuffleWord 0x182 w (fun _ l => if 31 < l + w.imm.toNat % 32 then none else some (l + w.imm.toNat % 32)) s
/-- VBCL. -/
def execVbcl (w : LeafWord) (s : State) : Host.Outcome State Fault Refusal := shuffleWord 0x183 w (fun _ _ => some (w.imm.toNat % 32)) s
/-- The elements of the active lanes, ascending. -/
def activeElems (w : LeafWord) (m : LaneMask) (x : Opd) : List Nat := (lanesOf m).map (elem (typeBits w.ty.toNat) x)
/-- VVOTE: mode 0 all, 1 any, 2 uniform. -/
def execVvote (w : LeafWord) (s : State) : Host.Outcome State Fault Refusal :=
  leafWord { op := 0x184, w } s (fun _ m v t =>
    let xs := activeElems w m (opd v 0)
    let mode := w.md.toNat / 4
    let r := if mode = 0 then xs.all (fun x => decide (x ≠ 0)) else if mode = 1 then xs.any (fun x => decide (x ≠ 0)) else xs.all (fun x => decide (x = xs.headD 0))
    .ok t [.sca w.vd.toNat (boolWord r)] 0 nextWord)
/-- VBALLOT. -/
def execVballot (w : LeafWord) (s : State) : Host.Outcome State Fault Refusal :=
  leafWord { op := 0x185, w } s (fun _ m v t =>
    .ok t [.msk w.vd.toNat (maskOf (fun l => inMask m l && decide (elem (typeBits w.ty.toNat) (opd v 0) l ≠ 0)))] 0 nextWord)
/-- One step of a scan or reduction (R173): value and flags. Operations 0 add, 1 min, 2 max, 3 and, 4 or, 5 xor. -/
def scanOp (ty op mode : Nat) (daz ftz : Bool) (acc x : Nat) : Nat × Nat :=
  let b := typeBits ty
  if isFloatTy ty then
    let f := fmtOf ty
    if op = 0 then sumRound f mode ftz true [unpack f acc, dazVal f daz x] [some (unpack f acc), some (dazVal f daz x)]
    else minMax f (decide (op = 2)) daz true acc x
  else if op = 0 then ((acc + x) % 2 ^ b, 0)
  else if op = 1 then (if intVal ty acc ≤ intVal ty x then acc else x, 0)
  else if op = 2 then (if intVal ty acc ≤ intVal ty x then x else acc, 0)
  else if op = 3 then (acc &&& x, 0)
  else if op = 4 then (acc ||| x, 0)
  else (acc ^^^ x, 0)
/-- A first element as the scan holds it: DAZ applies to it. -/
def scanFirst (ty : Nat) (daz : Bool) (x : Nat) : Nat :=
  if isFloatTy ty ∧ daz = true ∧ bitsOf x ((fmtOf ty).p - 1) (fmtOf ty).eb = 0 then x / 2 ^ (typeBits ty - 1) * 2 ^ (typeBits ty - 1) else x
/-- A value as it is written: a NaN result is canonical (spec 05, R90; DEDUCED for a first element, log 60). -/
def scanOut (ty x : Nat) : Nat := if isFloatTy ty && isNaN (unpack (fmtOf ty) x) then canonNaN (fmtOf ty) else x
/-- The running values over the active lanes in ascending order, each with its lane, and the flags. -/
def scanRun (ty op mode : Nat) (daz ftz : Bool) (xs : List (Nat × Nat)) : List (Nat × Nat) × Nat :=
  (xs.foldl (fun (a : List (Nat × Nat) × Nat × Option Nat) x =>
    match a.2.2 with
    | none => let y := scanFirst ty daz x.2; ([(x.1, y)], 0, some y)
    | some acc => let r := scanOp ty op mode daz ftz acc x.2; (a.1 ++ [(x.1, r.1)], a.2.1 ||| r.2, some r.1)) ([], 0, none))
  |> fun r => (r.1, r.2.1)
/-- The identity of an empty VRED (Table 8.5). -/
def redIdentity (ty op : Nat) : Nat :=
  let b := typeBits ty
  if isFloatTy ty then (if op = 0 then 0 else infBits (fmtOf ty) (decide (op = 2)))
  else if op = 1 then wrapTo b (intMax (isSignedTy ty) b)
  else if op = 2 then wrapTo b (intMin (isSignedTy ty) b)
  else if op = 3 then 2 ^ b - 1
  else 0
/-- The scan of a word over its active lanes. -/
def wordScan (w : LeafWord) (d : Drill) (m : LaneMask) (x : Opd) : List (Nat × Nat) × Nat :=
  let ty := w.ty.toNat
  let fm := (leafCtx d).fmode.toNat
  scanRun ty (w.md.toNat / 4) (modeOf w.rnd.toNat fm) (bitOf fm 3) (bitOf fm 4) ((lanesOf m).map (fun l => (l, elem (typeBits ty) x l)))
/-- VSCAN. -/
def execVscan (w : LeafWord) (s : State) : Host.Outcome State Fault Refusal :=
  leafWord { op := 0x186, w } s (fun d m v t =>
    let r := wordScan w d m (opd v 0)
    .ok t (vecWrites w.ty.toNat w.vd.toNat m ((below 32).map (fun l => scanOut w.ty.toNat (tabGet 0 r.1 l)))) r.2 nextWord)
/-- VRED. -/
def execVred (w : LeafWord) (s : State) : Host.Outcome State Fault Refusal :=
  leafWord { op := 0x187, w } s (fun d m v t =>
    let r := wordScan w d m (opd v 0)
    let x := match r.1.getLast? with | some y => scanOut w.ty.toNat y.2 | none => redIdentity w.ty.toNat (w.md.toNat / 4)
    .ok t [.sca w.vd.toNat (toScalar w.ty.toNat x)] r.2 nextWord)

end Sys2Proof.Machine
end

