-- ==== Sys2Proof/Machine/LeafControl.lean ====
section
/-!
DEFINITION. The nine leaf control words (spec 09, R179 to R187; 03, R69). -/
namespace Sys2Proof.Machine

/-- The target of a control word: its own address plus 12 times the signed imm32 (spec 03, R69). -/
def leafTarget (d : Drill) (w : LeafWord) : Word := wordOf (((runSplit (leafCtx d)).pc.toNat : Int) + 12 * w.imm.toInt)
/-- The running entry goes to an address; a transfer at or below its own PC is a switch point (spec 09, R181). -/
def jumpTo (dest : VAddr) (d : Drill) : Drill :=
  onLeaf d (fun c =>
    let e := runSplit c
    let c1 := putSplit c c.run { e with pc := dest }
    if dest.toNat ≤ e.pc.toNat then switchPoint c1 else settleJoin c1)
/-- A taken transfer: its target is checked, and a failure is precise at the transfer (spec 09, R180). -/
def takeTo (s : State) (d : Drill) (dest : Word) (mv : VAddr → Drill → Drill) : LeafBody :=
  if leafTargetOk s d dest.toNat then .ok s [] 0 (mv (dest.setWidth 56)) else .trap cFetch dest 0 []
/-- The lowest-numbered free entry. -/
def freeEntry (c : LeafCtx) : Option Nat := (below 16).find? (fun i => decide ((splitAt c i).state = 0))
/-- A divided branch: entry y takes the lanes of the taken set to the target (spec 09, R179). -/
def divide (y : Nat) (taken : LaneMask) (dest : VAddr) (d : Drill) : Drill :=
  onLeaf d (fun c =>
    let x := runSplit c
    let c1 := putSplit c y { x with state := 1, pc := dest, em := taken, sm := taken }
    let c2 := putSplit c1 c.run { x with pc := x.pc + 12, em := x.em &&& ~~~taken, sm := x.sm &&& ~~~taken }
    if dest.toNat ≤ x.pc.toNat then switchPoint c2 else settleJoin c2)
/-- LBR. -/
def execLbr (w : LeafWord) (s : State) : Host.Outcome State Fault Refusal :=
  leafWord { op := 0x280, w, ctl := true } s (fun d m _ t =>
    let x := runSplit (leafCtx d)
    if m = 0 then .ok t [] 0 nextWord
    else if m = x.em then takeTo t d (leafTarget d w) jumpTo
    else match freeEntry (leafCtx d) with
      | some y => takeTo t d (leafTarget d w) (divide y m)
      | none => if leafTargetOk t d (leafTarget d w).toNat then .trap cSplitFull 0 0 [] else .trap cFetch (leafTarget d w) 0 [])
/-- A condition of SBR: 0 eq, 1 ne, 2 lt, 3 ge, 4 ltn, 5 gen. -/
def scalarCond (c : Nat) (a b : Word) : Bool :=
  if c = 0 then decide (a = b) else if c = 1 then decide (a ≠ b) else if c = 2 then decide (a.toInt < b.toInt) else if c = 3 then decide (b.toInt ≤ a.toInt)
  else if c = 4 then decide (a.toNat < b.toNat) else decide (b.toNat ≤ a.toNat)
/-- SBR. -/
def execSbr (w : LeafWord) (s : State) : Host.Outcome State Fault Refusal :=
  leafWord { op := 0x281, w, ctl := true } s (fun d _ v t =>
    if scalarCond (w.md.toNat / 4) (scaOf (opd v 0)) (scaOf (opd v 1)) then takeTo t d (leafTarget d w) jumpTo else .ok t [] 0 nextWord)
/-- LJMP. -/
def execLjmp (w : LeafWord) (s : State) : Host.Outcome State Fault Refusal :=
  leafWord { op := 0x282, w, ctl := true } s (fun d _ _ t => takeTo t d (leafTarget d w) jumpTo)
/-- The running entry enters a routine at an address. -/
def callTo (dest : VAddr) (d : Drill) : Drill :=
  onLeaf d (fun c => let e := runSplit c; settleJoin (putSplit c c.run { e with rs := tabSet 0 e.rs e.depth.toNat (e.pc + 12), depth := e.depth + 1, pc := dest }))
/-- LCALL. -/
def execLcall (w : LeafWord) (s : State) : Host.Outcome State Fault Refusal :=
  leafWord { op := 0x283, w, ctl := true } s (fun d _ _ t =>
    let e := runSplit (leafCtx d)
    if e.depth = 8 then .trap cCallDepth (e.depth.setWidth 64) 0 [] else takeTo t d (leafTarget d w) callTo)
/-- The running entry returns. -/
def returnTo (dest : VAddr) (d : Drill) : Drill :=
  onLeaf d (fun c => let e := runSplit c; settleJoin (putSplit c c.run { e with rs := tabDel e.rs (e.depth.toNat - 1), depth := e.depth - 1, pc := dest }))
/-- LRET. -/
def execLret (w : LeafWord) (s : State) : Host.Outcome State Fault Refusal :=
  leafWord { op := 0x284, w, ctl := true } s (fun d _ _ t =>
    let e := runSplit (leafCtx d)
    if e.depth = 0 then .trap cCallDepth 0 0 [] else takeTo t d ((tabGet 0 e.rs (e.depth.toNat - 1)).setWidth 64) returnTo)
/-- LJOIN: merge with the waiters at this address, then wait for the lanes of the rejoin mask or go on (spec 09, R185). -/
def joinHere (c : LeafCtx) : LeafCtx :=
  let e := runSplit c
  let (c1, low) := mergeInto c c.run (fun _ x => decide (x.state = 3 ∧ x.pc = e.pc ∧ x.depth = e.depth ∧ x.rs = e.rs))
  let rj := awaited c1 low e.pc e.depth 0
  let m := splitAt c1 low
  if rj = 0 then settleJoin (putSplit { c1 with run := low } low { m with pc := e.pc + 12, state := 2, rj := 0 })
  else giveUp (putSplit c1 low { m with state := 3, rj := rj }) low
def execLjoin (w : LeafWord) (s : State) : Host.Outcome State Fault Refusal :=
  leafWord { op := 0x285, w } s (fun _ _ _ t => .ok t [] 0 (fun d => onLeaf d joinHere))
/-- LYIELD. -/
def execLyield (w : LeafWord) (s : State) : Host.Outcome State Fault Refusal :=
  leafWord { op := 0x286, w, ctl := true } s (fun _ _ _ t => .ok t [] 0 (fun d => onLeaf d (fun c => switchPoint (putSplit c c.run { runSplit c with pc := (runSplit c).pc + 12 }))))
/-- LEND: the split ends, its return stack discarded, and gives up the stream (spec 09, R186, R187). -/
def execLend (w : LeafWord) (s : State) : Host.Outcome State Fault Refusal :=
  leafWord { op := 0x287, w, ctl := true } s (fun _ _ _ t => .ok t [] 0 (fun d => onLeaf d (fun c => giveUp (putSplit c c.run { runSplit c with state := 4, depth := 0, rs := [] }) c.run)))
/-- The lanes of m leave the drill; the running entry goes on, or gives up the stream when it has no lane left (spec 09, R174, R178). -/
def exitLanes (m : LaneMask) (d : Drill) : Drill :=
  let d1 := onLeaf d (fun c => putSplit c c.run { runSplit c with pc := (runSplit c).pc + 12 })
  let d2 := dropLanes d1 m
  onLeaf d2 (fun c => if (runSplit c).state = 0 then giveUp c c.run else settleJoin c)
/-- LEXIT. -/
def execLexit (w : LeafWord) (s : State) : Host.Outcome State Fault Refusal :=
  leafWord { op := 0x288, w, ctl := true } s (fun _ m _ t => .ok t [] 0 (exitLanes m))

end Sys2Proof.Machine
end

