-- ==== Sys2Proof/Machine/LeafFloat.lean ====
section
/-!
DEFINITION. Leaf floating-point words, conversions and block scales (spec 07, R144 to R148, R152 to R154; 05, R90 to R102). -/
namespace Sys2Proof.Machine

/-! ## Rounded words (spec 07, R144, R145, Tables 7.3, 7.4) -/

/-- The settings of a leaf floating-point word: format, mode, DAZ, FTZ, DNAN. -/
structure FloatEnv where
  f : Fmt
  mode : Nat
  daz : Bool
  ftz : Bool
  canon : Bool
  deriving DecidableEq, Repr
def floatEnv (w : LeafWord) (fm : Nat) : FloatEnv :=
  { f := fmtOf w.ty.toNat, mode := modeOf w.rnd.toNat fm, daz := bitOf fm 3, ftz := bitOf fm 4, canon := bitOf fm 6 }
/-- The value of an input. -/
def inVal (e : FloatEnv) (x : Nat) : FVal := dazVal e.f e.daz x
/-- A word that rounds one exact sum of terms. -/
def sumOf (e : FloatEnv) (ins : List FVal) (terms : List (Option FVal)) : Nat × Nat := sumRound e.f e.mode e.ftz e.canon ins terms
/-- A magnitude rounded into the format. -/
def magOut (e : FloatEnv) (neg : Bool) (m : Nat × Int × Bool) : Nat × Nat := roundFin e.f e.mode e.ftz neg m.1 m.2.1 m.2.2
/-- An invalid operation without a NaN input. -/
def invalidOut (e : FloatEnv) : Nat × Nat := (canonNaN e.f, flNV)
/-- a ÷ b. -/
def divOut (e : FloatEnv) (a b : FVal) : Nat × Nat :=
  match a, b with
  | .nan .., _ => nanResult e.f e.canon [a, b]
  | _, .nan .. => nanResult e.f e.canon [a, b]
  | .inf _, .inf _ => invalidOut e
  | .inf n, .fin n' _ _ => (infBits e.f (n != n'), 0)
  | .fin n _ _, .inf n' => (zeroBits e.f (n != n'), 0)
  | .fin n m x, .fin n' m' x' =>
    if m' = 0 then (if m = 0 then invalidOut e else (infBits e.f (n != n'), flDZ))
    else if m = 0 then (zeroBits e.f (n != n'), 0)
    else magOut e (n != n') (divMag (e.f.p + 4) m x m' x')
/-- √a. -/
def sqrtOut (e : FloatEnv) (a : FVal) : Nat × Nat :=
  match a with
  | .nan .. => nanResult e.f e.canon [a]
  | .inf n => if n then invalidOut e else (infBits e.f false, 0)
  | .fin n m x => if m = 0 then (zeroBits e.f n, 0) else if n then invalidOut e else magOut e false (sqrtMag (e.f.p + 4) m x)
/-- 1 ÷ a. -/
def rcpOut (e : FloatEnv) (a : FVal) : Nat × Nat := divOut e (.fin false 1 0) a
/-- 1 ÷ √a. -/
def rsqOut (e : FloatEnv) (a : FVal) : Nat × Nat :=
  match a with
  | .nan .. => nanResult e.f e.canon [a]
  | .inf n => if n then invalidOut e else (zeroBits e.f false, 0)
  | .fin n m x => if m = 0 then (infBits e.f n, flDZ) else if n then invalidOut e else magOut e false (rsqrtMag (e.f.p + 4) m x)
/-- 2^a. -/
def exp2Out (e : FloatEnv) (a : FVal) : Nat × Nat :=
  match a with
  | .nan .. => nanResult e.f e.canon [a]
  | .inf n => (if n then zeroBits e.f false else infBits e.f false, 0)
  | .fin n m x => magOut e false (exp2Mag (e.f.p + 4) n m x)
/-- log2 a. -/
def log2Out (e : FloatEnv) (a : FVal) : Nat × Nat :=
  match a with
  | .nan .. => nanResult e.f e.canon [a]
  | .inf n => if n then invalidOut e else (infBits e.f false, 0)
  | .fin n m x => if m = 0 then (infBits e.f true, flDZ) else if n then invalidOut e else
      (let r := log2Mag (e.f.p + 4) m x; roundFin e.f e.mode e.ftz r.1 r.2.1 r.2.2.1 r.2.2.2)
/-- A lane-wise floating-point word. -/
def floatWord (op : Nat) (w : LeafWord) (f : FloatEnv → FVal → FVal → FVal → Nat × Nat) (s : State) : Host.Outcome State Fault Refusal :=
  laneWord op w (fun fm a b c => let e := floatEnv w fm; f e (inVal e a) (inVal e b) (inVal e c)) s

/-- VFADD. -/
def execVfadd (w : LeafWord) (s : State) : Host.Outcome State Fault Refusal := floatWord 0x040 w (fun e a b _ => sumOf e [a, b] [some a, some b]) s
/-- VFSUB. -/
def execVfsub (w : LeafWord) (s : State) : Host.Outcome State Fault Refusal := floatWord 0x041 w (fun e a b _ => sumOf e [a, b] [some a, some (negVal b)]) s
/-- VFMUL. -/
def execVfmul (w : LeafWord) (s : State) : Host.Outcome State Fault Refusal := floatWord 0x042 w (fun e a b _ => sumOf e [a, b] [mulVal a b]) s
/-- VFMA: a × b + c. -/
def execVfma (w : LeafWord) (s : State) : Host.Outcome State Fault Refusal := floatWord 0x043 w (fun e a b c => sumOf e [a, b, c] [mulVal a b, some c]) s
/-- VFMS: a × b − c. -/
def execVfms (w : LeafWord) (s : State) : Host.Outcome State Fault Refusal := floatWord 0x044 w (fun e a b c => sumOf e [a, b, c] [mulVal a b, some (negVal c)]) s
/-- VFNMA: c − a × b. -/
def execVfnma (w : LeafWord) (s : State) : Host.Outcome State Fault Refusal := floatWord 0x045 w (fun e a b c => sumOf e [a, b, c] [mulVal (negVal a) b, some c]) s
/-- VFDIV. -/
def execVfdiv (w : LeafWord) (s : State) : Host.Outcome State Fault Refusal := floatWord 0x046 w (fun e a b _ => divOut e a b) s
/-- VFSQRT. -/
def execVfsqrt (w : LeafWord) (s : State) : Host.Outcome State Fault Refusal := floatWord 0x047 w (fun e a _ _ => sqrtOut e a) s
/-- VFRCP. -/
def execVfrcp (w : LeafWord) (s : State) : Host.Outcome State Fault Refusal := floatWord 0x048 w (fun e a _ _ => rcpOut e a) s
/-- VFRSQ. -/
def execVfrsq (w : LeafWord) (s : State) : Host.Outcome State Fault Refusal := floatWord 0x049 w (fun e a _ _ => rsqOut e a) s
/-- VFEXP2. -/
def execVfexp2 (w : LeafWord) (s : State) : Host.Outcome State Fault Refusal := floatWord 0x04A w (fun e a _ _ => exp2Out e a) s
/-- VFLOG2. -/
def execVflog2 (w : LeafWord) (s : State) : Host.Outcome State Fault Refusal := floatWord 0x04B w (fun e a _ _ => log2Out e a) s
/-- VFMIN (spec 07, R146). -/
def execVfmin (w : LeafWord) (s : State) : Host.Outcome State Fault Refusal := laneWord 0x04C w (fun fm a b _ => let e := floatEnv w fm; minMax e.f false e.daz e.canon a b) s
/-- VFMAX (spec 07, R146). -/
def execVfmax (w : LeafWord) (s : State) : Host.Outcome State Fault Refusal := laneWord 0x04D w (fun fm a b _ => let e := floatEnv w fm; minMax e.f true e.daz e.canon a b) s
/-- VFABS: the sign bit cleared (spec 07, R147). -/
def execVfabs (w : LeafWord) (s : State) : Host.Outcome State Fault Refusal := laneWord 0x04E w (fun _ a _ _ => (a % 2 ^ (typeBits w.ty.toNat - 1), 0)) s
/-- VFNEG: the sign bit inverted. -/
def execVfneg (w : LeafWord) (s : State) : Host.Outcome State Fault Refusal := laneWord 0x04F w (fun _ a _ _ => (a ^^^ 2 ^ (typeBits w.ty.toNat - 1), 0)) s
/-- The class of the bits of a value (Table 7.5). -/
def classOf (f : Fmt) (x : Nat) : Nat :=
  match unpack f x with
  | .nan _ fr wd => if bitOf fr (wd - 1) then 9 else 8
  | .inf n => if n then 0 else 7
  | .fin n m _ =>
    if m = 0 then (if n then 3 else 4)
    else if bitsOf x (f.p - 1) f.eb = 0 then (if n then 2 else 5)
    else if n then 1 else 6
/-- VFCLASS: an n32 with one bit set; the high register of an FP64 pair receives 0 (spec 07, R148). -/
def execVfclass (w : LeafWord) (s : State) : Host.Outcome State Fault Refusal :=
  leafWord { op := 0x050, w } s (fun _ m v t =>
    let ty := w.ty.toNat
    let r := vecOfLanes (fun l => if inMask m l then 2 ^ classOf (fmtOf ty) (elem (typeBits ty) (opd v 0) l) else 0)
    .ok t (.vec w.vd.toNat m r :: (if typeBits ty = 64 then [.vec (w.vd.toNat + 1) m 0] else [])) 0 nextWord)

/-! ## Conversions (spec 07, R152; 05, R97 to R99) -/

/-- One element converted from one type to another: value and flags. -/
def convert (dst src mode fm x : Nat) : Nat × Nat :=
  let daz := bitOf fm 3
  let ftz := bitOf fm 4
  let canon := bitOf fm 6
  let fromInt (y : Int) : Nat × Nat := if isFloatTy dst then roundVal (fmtOf dst) mode ftz canon (ofInt y) else intFit fm dst y
  if src = 13 then
    let t := t2Val (x % 4)
    let r := fromInt t.1
    (r.1, r.2 ||| t.2)
  else if isIntTy src then fromInt (intVal src x)
  else
    let v := dazVal (fmtOf src) daz x
    if isFloatTy dst then roundVal (fmtOf dst) mode ftz canon v
    else
      let r := floatToInt mode (isSignedTy dst) (typeBits dst) v
      (wrapTo (typeBits dst) r.1, r.2)
/-- VCVT. -/
def execVcvt (w : LeafWord) (s : State) : Host.Outcome State Fault Refusal :=
  leafWord { op := 0x088, w } s (fun d m v t =>
    let src := w.imm.toNat % 32
    let fm := (leafCtx d).fmode.toNat
    let b := if src = 13 then 32 else typeBits src
    laneOut t w w.ty.toNat m (fun l => convert w.ty.toNat src (modeOf w.rnd.toNat fm) fm (elem b (opd v 0) l)))

/-! ## Block scales (spec 07, R153, R154) -/

/-- The FP32 block of lane l in the group from register r. -/
def blockF32 (d : Drill) (r n l : Nat) : List Nat := (upFrom r n).map (fun k => lane (vRead d (leafCtx d).run k) l)
/-- Element i of lane l's Q8 block in the group from register r, as an i8. -/
def blockQ8 (d : Drill) (r n l : Nat) : List Int :=
  (below n).map (fun i => signOf 8 (bitsOf (lane (vRead d (leafCtx d).run (r + i / 4)) l) (8 * (i % 4)) 8))
/-- A Q8 block as the lane of each register of its group holds it. -/
def packQ8 (q : List Int) (j : Nat) : Nat := packFields 8 (fun i => wrapTo 8 (q.getD (4 * j + i) 0)) 4
/-- Registers first to first + n − 1 written in the lanes of m from each lane's list. -/
def groupWrites (first n : Nat) (m : LaneMask) (per : List (List Nat)) : List LeafWrite :=
  (below n).map (fun j => .vec (first + j) m (vecOfLanes (fun l => (per.getD l []).getD j 0)))
/-- Each active lane's list, and nothing for the others. -/
def perLane (m : LaneMask) (f : Nat → List Nat × Nat × Nat) : List (List Nat × Nat × Nat) := (below 32).map (fun l => if inMask m l then f l else ([], 0, 0))
/-- The results of a block word: group, scale register where one is written, flags. -/
def blockOut (s : State) (vd regs : Nat) (sc : Option Nat) (m : LaneMask) (r : List (List Nat × Nat × Nat)) : LeafBody :=
  .ok s (groupWrites vd regs m (r.map (·.1)) ++ (match sc with | some k => [.vec k m (vecOfLanes (fun l => (r.getD l ([], 0, 0)).2.1))] | none => []))
    (orAll (r.map (fun x => x.2.2))) nextWord
/-- VQBLK. -/
def execVqblk (w : LeafWord) (s : State) : Host.Outcome State Fault Refusal :=
  leafWord { op := 0x08A, w } s (fun d m _ t =>
    let n := blockLen (w.imm.toNat % 4)
    let fm := (leafCtx d).fmode.toNat
    let mode := modeOf w.rnd.toNat fm
    blockOut t w.vd.toNat (n / 4) (some w.vc.toNat) m (perLane m (fun l =>
      let xs := (blockF32 d w.va.toNat n l).map (dazVal fmtF32 (bitOf fm 3))
      let e := e8Of xs
      let q := xs.map (quantOne mode e.1)
      ((below (n / 4)).map (packQ8 (q.map (·.1))), e.1, e.2 ||| orAll (q.map (·.2))))))
/-- VDQB. -/
def execVdqb (w : LeafWord) (s : State) : Host.Outcome State Fault Refusal :=
  leafWord { op := 0x08B, w } s (fun d m v t =>
    let n := blockLen (w.imm.toNat % 4)
    let fm := (leafCtx d).fmode.toNat
    let mode := modeOf w.rnd.toNat fm
    blockOut t w.vd.toNat n none m (perLane m (fun l =>
      let e := elem 8 (opd v 1) l
      let r := (blockQ8 d w.va.toNat n l).map (fun q =>
        if e = 0 then (0, 0) else if e = 255 then (canonNaN fmtF32, flQP)
        else roundFin fmtF32 mode (bitOf fm 4) (decide (q < 0)) q.natAbs ((e : Int) - 127) false)
      (r.map (·.1), 0, orAll (r.map (·.2))))))
/-- Requant of a block (spec 05, R102): elements, scale and flags. -/
def requant (mode eo en : Nat) (q : List Int) : List Int × Nat × Nat :=
  if eo = 255 ∨ en = 255 then (q.map (fun _ => 0), 255, flQP)
  else if eo = 0 ∨ en = 0 then (q.map (fun _ => 0), en, 0)
  else
    let r := q.map (requantOne mode eo en)
    (r.map (·.1), en, orAll (r.map (·.2)))
/-- VREQB. -/
def execVreqb (w : LeafWord) (s : State) : Host.Outcome State Fault Refusal :=
  leafWord { op := 0x089, w } s (fun d m v t =>
    let n := blockLen (w.imm.toNat % 4)
    let mode := modeOf w.rnd.toNat (leafCtx d).fmode.toNat
    blockOut t w.vd.toNat (n / 4) (some w.vc.toNat) m (perLane m (fun l =>
      let r := requant mode (elem 8 (opd v 1) l) (elem 8 (opd v 2) l) (blockQ8 d w.va.toNat n l)
      ((below (n / 4)).map (packQ8 r.1), r.2.1, r.2.2))))

end Sys2Proof.Machine
end

