-- ==== Sys2Proof/Machine/Work.lean ====
section
/-!
DEFINITION. Beds, launches, graphs, phases and jobs: handles, records, completion counters, phases and their lines, the seed tray, and the
instructions that use them (spec 10, R190 to R215; 15, R283; 26, R425). -/
namespace Sys2Proof.Machine

/-! ## Objects and handles (spec 10, Table 10.1, R191, R192). Levels: 0 bed, 1 launch, 2 graph, 3 phase, 4 job -/

def entryLimit : Nat := 2 ^ 20
/-- A new object takes the lowest unused hub entry, with a new generation; when none is unused, the entries of complete objects are
reused. The index of the object is answered. -/
def newObj (s : State) (o : Obj) : State × Nat :=
  let objs := if s.objs.length < entryLimit then s.objs else s.objs.filter (fun e => !e.2.complete)
  let idx := ((below (objs.length + 1)).find? (fun i => (tabFind objs i).isNone)).getD 0
  let gen := match tabFind s.gens idx with | some g => (g + 1) % 2 ^ 20 | none => 0
  ({ s with objs := tabPut objs idx { o with gen }, gens := tabPut s.gens idx gen }, idx)
/-- The handle of an object. -/
def handleOf (s : State) (idx : Nat) : Nat :=
  match objAt s idx with
  | some o => o.lvl * 2 ^ 61 + o.job % 2 ^ 16 * 2 ^ 40 + o.gen * 2 ^ 20 + idx
  | none => 0
/-- The object of a level that contains an object. -/
def ancestor (s : State) (lvl idx : Nat) : Option Nat :=
  match objAt s idx with
  | none => none
  | some o =>
    if o.lvl = lvl then some idx
    else if lvl = 4 then some (jobAt s o.job).obj
    else if o.lvl = 0 then (if lvl = 1 then some o.up else match objAt s o.up with
      | some l => if lvl = 2 then some l.up else if lvl = 3 then some l.phase else none
      | none => none)
    else if o.lvl = 1 then (if lvl = 2 then some o.up else if lvl = 3 then some o.phase else none)
    else if o.lvl = 2 ∧ lvl = 3 then some o.up
    else none
/-- What a handle names for an instruction of a level (spec 10, R192). -/
inductive Named where
  | bad
  | stale
  | obj (idx : Nat)
  deriving DecidableEq, Repr
/-- A handle that is not 0 resolved at a level for a job. -/
def resolve (s : State) (job lvl h : Nat) : Named :=
  let l := h / 2 ^ 61
  if 4 < l ∨ lvl < l ∨ bitsOf h 56 5 ≠ 0 ∨ bitsOf h 40 16 ≠ job % 2 ^ 16 then .bad
  else match objAt s (h % 2 ^ 20) with
    | none => .stale
    | some o => if o.gen = bitsOf h 20 20 ∧ o.lvl = l then (match ancestor s lvl (h % 2 ^ 20) with | some i => .obj i | none => .stale) else .stale
/-- A handle as a drill names it: 0 is its own object at the level. -/
def resolveFor (s : State) (d : Drill) (lvl h : Nat) : Named :=
  if h = 0 then (match ancestor s lvl d.bed with | some i => .obj i | none => .stale) else resolve s d.job lvl h
/-- The job's own object and its root phase, made when its first launch is created. -/
def ensureJob (s : State) (jn die : Nat) : State :=
  let j := jobAt s jn
  if (match objAt s j.obj with | some o => decide (o.lvl = 4 ∧ o.job = jn) && !o.complete | none => false) then s
  else
    let (s1, a) := newObj s { lvl := 4, job := jn, die }
    let (s2, b) := newObj s1 { lvl := 3, job := jn, die, root := true, up := a }
    onJob s2 jn (fun x => { x with obj := a, rootPhase := b })

/-! ## Completion (spec 10, R190, R200, R201; 15, R283) -/

/-- PHWAITs on a phase go on. -/
def phaseWaiters (s : State) (idx : Nat) : State :=
  (s.drills.filter (fun e => decide (e.2.stemWait = .phwait idx))).foldl (fun t e => post t (.phwaitRelease e.1)) s
/-- A phase is complete; its line is free. -/
def completePhase (s : State) (idx : Nat) : State :=
  match objAt s idx with
  | none => s
  | some o =>
    let s1 := onObj s idx (fun x => { x with complete := true, err := x.err || x.cancelled, count := 0 })
    let s2 := if o.root then s1 else { s1 with lines := tabDel s1.lines o.line }
    wake (phaseWaiters s2 idx) (fun w => decide (w = .entry))
/-- The job completes when its launches have and it was ended or cancelled; its root phase completes with it. -/
def jobDone (s : State) (jn : Nat) : State :=
  let i := (jobAt s jn).obj
  match objAt s i with
  | none => s
  | some o =>
    if o.lvl = 4 ∧ o.job = jn ∧ o.count = 0 ∧ !o.complete ∧ (o.cancelled ∨ o.released) then
      let s1 := onObj s i (fun x => { x with complete := true })
      onObj (completePhase s1 (jobAt s jn).rootPhase) (jobAt s jn).rootPhase (fun x => { x with err := x.err || o.cancelled })
    else s
/-- The graph completes when its counter is 0 and none of its drills remains. -/
def graphDone (s : State) (idx : Nat) : State :=
  onObj s idx (fun o => if o.count = 0 ∧ o.liveDrills = 0 then { o with complete := true } else o)
/-- An object takes a stamp (spec 15, R283). -/
def stampObj (s : State) (idx stamp : Nat) : State := onObj s idx (fun o => { o with stamp := max o.stamp stamp })
/-- The arrival of a launch at its phase's destination. -/
def sendArrival (s : State) (phase dest : Nat) (err : Bool) : State :=
  match objAt s phase with
  | none => s
  | some p =>
    if p.root then s
    else match p.dests[dest]? with
      | some (_, dev, die, _) => if dev = 0 then post s (.phaseArrival phase dest err) else notify s (.toDevice dev die dest)
      | none => s
/-- A cancelled phase completes, in error, with its last launch (R201, R211). -/
def phaseOver (s : State) (idx : Nat) : State :=
  match objAt s idx with
  | none => s
  | some o =>
    if o.lvl = 3 ∧ o.cancelled ∧ !o.complete ∧ !o.root ∧ s.objs.all (fun x => decide (x.2.lvl ≠ 1 ∨ x.2.phase ≠ idx) || x.2.complete) then completePhase s idx else s
/-- Launches that list a launch are tried again. -/
def retestDeps (s : State) : State :=
  (s.objs.filter (fun o => decide (o.2.lvl = 1 ∧ o.2.deps ≠ []) && !o.2.released && !o.2.complete)).foldl (fun t o => post t (.launchDependenceRelease o.1)) s
/-- A launch is complete: it counts in its graph and job, its arrival is sent, and those that depend on it are tried. -/
def completeLaunch (s : State) (idx : Nat) : State :=
  match objAt s idx with
  | none => s
  | some o =>
    if o.complete then s
    else
      let job := (jobAt s o.job).obj
      let s1 := onObj s idx (fun x => { x with complete := true, count := 0 })
      let s2 := onObj (stampObj s1 o.up o.stamp) o.up (fun g => { g with count := g.count - 1 })
      let s3 := onObj (stampObj (stampObj s2 o.phase o.stamp) job o.stamp) job (fun g => { g with count := g.count - 1 })
      let s4 := sendArrival (graphDone s3 o.up) o.phase (bitsOf (o.words.getD 6 0).toNat 57 6) o.cancelled
      wake (retestDeps (jobDone (phaseOver s4 o.phase) o.job)) (fun w => decide (w = .entry))
/-- A launch whose counter may have reached 0. -/
def launchDone (s : State) (idx : Nat) : State :=
  match objAt s idx with
  | some o => if o.count = 0 ∧ (o.released ∨ o.cancelled) then completeLaunch s idx else s
  | none => s
/-- A bed whose counter has reached 0 is complete. -/
def bedDone (s : State) (idx : Nat) : State :=
  match objAt s idx with
  | none => s
  | some o =>
    if o.count ≠ 0 ∨ o.complete then s
    else
      let s1 := onObj s idx (fun x => { x with complete := true, hoses := [] })
      launchDone (onObj (stampObj s1 o.up o.stamp) o.up (fun l => { l with count := l.count - 1 })) o.up

/-! ## Phases (spec 10, R199 to R201, R213; 26, R425) -/

/-- A phase with every line raised is complete. -/
def phaseDone (s : State) (idx : Nat) : State :=
  match objAt s idx with
  | some o => if !o.complete && !o.root && o.dests.all (fun x => x.2.2.2) then completePhase s idx else s
  | none => s
/-- Counter of a phase: destinations not at zero, plus 1 until the tree confirms. -/
def phaseCount (o : Obj) : Nat := if o.complete then 0 else (o.dests.filter (fun x => decide (x.1 ≠ 0))).length + 1
/-- An arrival counted at its destination. -/
def arrive (s : State) (obj dest : Nat) (err : Bool) : State :=
  match objAt s obj with
  | none => s
  | some o =>
    match o.dests[dest]? with
    | none => s
    | some (n, dev, die, up) =>
      let bad := err || o.complete || decide (n = 0)
      let s1 := onObj s obj (fun x => { x with err := x.err || bad, dests := x.dests.set dest (n - 1, dev, die, up) })
      if n = 1 ∧ dev = 0 then post s1 (.phaseLineRaise obj dest) else s1
/-- PHASE_ARRIVAL (R200). -/
def execPhaseArrival (obj dest : Nat) (err : Bool) (s : State) : Host.Outcome State Fault Refusal := .next (arrive s obj dest err)
/-- DEVICE_PHASE_ARRIVAL: from another device (spec 26, R425). -/
def execDevicePhaseArrival (obj dest : Nat) (err : Bool) (s : State) : Host.Outcome State Fault Refusal := .next (arrive s obj dest err)
/-- A store tagged with a phase is on its way through a die's hub. -/
def phaseTraffic (s : State) (obj die : Nat) : Bool :=
  s.stores.any (fun p => decide (dieOfCl p.2.cl = die) && (match drillAt s p.2.slot with | some d => decide (ancestor s 3 d.bed = some obj) | none => false))
/-- PHASE_LINE_RAISE (R201). -/
def execPhaseLineRaise (obj dest : Nat) (s : State) : Host.Outcome State Fault Refusal :=
  match objAt s obj with
  | none => .next s
  | some o =>
    match o.dests[dest]? with
    | some (0, 0, die, false) =>
      if o.complete || phaseTraffic s obj die then .next s
      else .next (phaseDone (onObj s obj (fun x => { x with dests := x.dests.set dest (0, 0, die, true) })) obj)
    | _ => .next s
/-- PHASE_LINE_SIDEBAND: a line raised on another device (spec 26, R425). -/
def execPhaseLineSideband (obj dest : Nat) (s : State) : Host.Outcome State Fault Refusal :=
  match objAt s obj with
  | none => .next s
  | some o =>
    match o.dests[dest]? with
    | some (n, dev, die, false) => if dev = 0 || o.complete then .next s else .next (phaseDone (onObj s obj (fun x => { x with dests := x.dests.set dest (n, dev, die, true) })) obj)
    | _ => .next s
/-- PHWAIT_RELEASE: the word issues again (R214). -/
def execPhwaitRelease (slot : Nat) (s : State) : Host.Outcome State Fault Refusal :=
  .next (onDrill s slot (fun d => match d.stemWait with | .phwait _ => { d with stemWait := .none } | _ => d))

/-! ## Reads of records by a hub (spec 13, R262; 17, R309) -/

/-- n bytes of a job's virtual memory as a hub reads them, or the cause and TVAL of the first fault. -/
def hubRead (s : State) (core jn : Nat) (super : Bool) (va n : Nat) : Except (Nat × Nat) (State × Nat) :=
  let first := va / 32
  let pieces := upFrom first ((va + n + 31) / 32 - first)
  pieces.foldl (fun a q => match a with
    | .error e => .error e
    | .ok (t, acc) =>
      let lo := max va (32 * q)
      let hi := min (va + n) (32 * (q + 1))
      if 2 ^ 56 ≤ lo then .error (cTranslation, lo)
      else match translateNow t core jn super .load lo with
        | (.hit pa _, u) => if freshPsn u pa || !reachable u (pa / 128) then .error (cPoison, pa / 32 * 32) else .ok (u, acc + freshRead u pa (hi - lo) * 2 ^ (8 * (lo - va)))
        | (.fault c, _) => .error (c, lo)
        | (.miss, _) => .error (cTranslation, lo)) (.ok (s, 0))

/-! ## Launches (spec 10, R193 to R198, R210) -/

/-- Role group i of word 5. -/
def groupOf (w5 i : Nat) : Nat := bitsOf w5 (16 * i) 16
def groupCount (g : Nat) : Nat := bitsOf g 0 6
def groupOk (g : Nat) : Bool :=
  if groupCount g = 0 then decide (g = 0) else decide (bitsOf g 6 3 = 0 ∧ groupCount g ≤ 32 ∧ 1 ≤ bitsOf g 9 5 ∧ bitsOf g 9 5 ≤ 30)
/-- The launch record is valid but for its phase (spec 10, Table 10.2, R194). -/
def recordOk (w : List Nat) : Bool :=
  let f (i : Nat) : Nat := w.getD i 0
  let sb := f 1
  let lb := f 2
  let slim := sb + bitsOf (f 3) 0 32
  let drills := bitsOf (f 4) 32 6
  let twin := bitOf (f 4) 44
  decide (bitsOf (f 0) 56 8 = 0 ∧ bitsOf sb 56 8 = 0 ∧ bitsOf lb 56 8 = 0 ∧ bitsOf (f 4) 48 16 = 0 ∧ bitOf (f 6) 63 = false)
  && decide (sb % 64 = 0 ∧ lb % 64 = 0 ∧ slim ≤ 2 ^ 56 ∧ lb + bitsOf (f 3) 32 32 ≤ 2 ^ 56)
  && decide (f 0 % 4 = 0 ∧ sb ≤ f 0 ∧ f 0 < slim)
  && decide (1 ≤ bitsOf (f 4) 38 6 ∧ bitsOf (f 4) 38 6 ≤ 32 ∧ 1 ≤ drills ∧ drills ≤ (if twin then 32 else 16) ∧ 1 ≤ bitsOf (f 4) 0 32)
  && (below 4).all (fun i => groupOk (groupOf (f 5) i))
  && decide ((below 4).foldl (fun a i => a + groupCount (groupOf (f 5) i)) 0 = drills)
  && decide (bitsOf (f 6) 0 48 % 8 = 0)
/-- The phase that a record names: its object, or a phase that has completed, or none where the handle is bad. -/
def recordPhase (s : State) (job own h : Nat) : Option (Option Nat) :=
  if h = 0 then some (some own)
  else if h / 2 ^ 61 ≠ 3 then none
  else match resolve s job 3 h with
    | .obj i => some (some i)
    | .stale => some none
    | .bad => none
/-- DEST against the phase (R194). -/
def destOk (s : State) (phase : Option Nat) (dest : Nat) : Bool :=
  match phase with
  | none => true
  | some i => match objAt s i with
    | some o => if o.root then decide (dest = 0) else decide (dest < o.dests.length)
    | none => true
/-- How a listed handle stands: done, done and cancelled, or not yet. -/
inductive Dep where
  | done | cancelled | open'
  deriving DecidableEq, Repr
def depState (s : State) (job h : Nat) : Dep :=
  match resolve s job 1 h with
  | .obj i => (match objAt s i with | some o => if o.complete then (if o.cancelled then .cancelled else .done) else .open' | none => .done)
  | _ => .done
/-- A record read and checked: its words, phase and list, or what stops it. -/
inductive Record where
  | ok (s : State) (words : List Nat) (phase : Option Nat) (deps : List Nat)
  | invalid
  | fault (code tval : Nat)
/-- A launch record at a virtual address read for a job. `own` is the issuing drill's launch and phase; a queue has only the root phase. -/
def readRecord (s : State) (core jn : Nat) (super : Bool) (va : Nat) (ownLaunch : Option Nat) (ownPhase : Nat) : Record :=
  match hubRead s core jn super va 64 with
  | .error (c, v) => .fault c v
  | .ok (s1, x) =>
    let w := (below 8).map (fun i => bitsOf x (64 * i) 64)
    let w6 := w.getD 6 0
    let n := bitsOf w6 48 8
    match hubRead s1 core jn super (bitsOf w6 0 48) (8 * n) with
    | .error (c, v) => if recordOk w then .fault c v else .invalid
    | .ok (s2, y) =>
      let deps := (below n).map (fun i => let h := bitsOf y (64 * i) 64; if h = 0 then (match ownLaunch with | some l => handleOf s2 l | none => 2 ^ 63) else h)
      match recordPhase s2 jn ownPhase (w.getD 7 0) with
      | none => .invalid
      | some ph => if recordOk w && destOk s2 ph (bitsOf w6 57 6) && deps.all (fun h => decide (resolve s2 jn 1 h ≠ .bad)) then .ok s2 w ph deps else .invalid
/-- Launches of a die that are not complete. -/
def openLaunches (s : State) (die : Nat) : Nat := (s.objs.filter (fun o => decide (o.2.lvl = 1 ∧ o.2.die = die) && !o.2.complete)).length
def launchEntries : Nat := 4096
/-- A launch is created in its graph and phase; with nothing to wait for it is released at once, and it completes at once when a listed launch
was cancelled (R198). Its index is answered. -/
def createLaunch (s : State) (die jn addr : Nat) (words : List Nat) (phase : Option Nat) (deps : List Nat) (graph : Option Nat) (dt : Nat) : State × Nat :=
  let ph := phase.getD entryLimit
  let (s1, g) := match graph with | some g => (s, g) | none => newObj s { lvl := 2, job := jn, die, up := ph }
  let st := deps.map (depState s1 jn)
  let dead := decide (Dep.cancelled ∈ st)
  let o : Obj := { lvl := 1, job := jn, die, count := (if dead then 0 else bitsOf (words.getD 4 0) 0 32), cancelled := dead, up := g, addr, words := words.map (BitVec.ofNat 64), deps := deps.map (BitVec.ofNat 64), released := st.all (fun x => decide (x = .done)), phase := ph, dt }
  let (s2, i) := newObj s1 o
  let s3 := onObj (onObj s2 g (fun x => { x with count := x.count + 1 })) (jobAt s2 jn).obj (fun x => { x with count := x.count + 1 })
  (if dead then completeLaunch s3 i else s3, i)
/-- LAUNCH (R210). -/
def execLaunch (d a : BitVec 6) (s : State) : Host.Outcome State Fault Refusal :=
  stemWord { ins := .launch d a, srcs := [a], dst := some d, release := true } s (fun dr v t =>
    let slot := t.cur
    let va := (opAt v 0).toNat
    if va % 64 ≠ 0 then .trap cAlign (opAt v 0) 0 []
    else if releaseWait t slot 4 then .wait .stores t
    else
      let own := ancestor t 1 dr.bed
      match readRecord t (coreOf slot) dr.job dr.super va own ((ancestor t 3 dr.bed).getD entryLimit) with
      | .fault c x => .trap c (BitVec.ofNat 64 x) 0 []
      | .invalid => .trap cLaunch (opAt v 0) 0 []
      | .ok u words ph deps =>
        if launchEntries ≤ openLaunches u (dieOf slot) then .wait .entry u
        else
          let dt := releaseDt dr 4
          let graph := if bitOf (words.getD 6 0) 56 then none else ancestor u 2 dr.bed
          let (u1, i) := createLaunch u (dieOf slot) dr.job va words ph deps graph (max dt dr.pstamp)
          .ok (onDrill u1 slot (fun e => { e with dt := max e.dt dt })) (BitVec.ofNat 64 (handleOf u1 i)) none)
/-- LAUNCH_DEPENDENCE_RELEASE (R198): a launch is released when its list is complete, or cancelled with a listed one. -/
def execLaunchDependenceRelease (obj : Nat) (s : State) : Host.Outcome State Fault Refusal :=
  match objAt s obj with
  | none => .next s
  | some o =>
    if o.lvl ≠ 1 ∨ o.released ∨ o.complete then .next s
    else
      let st := o.deps.map (fun h => depState s o.job h.toNat)
      if Dep.cancelled ∈ st then .next (completeLaunch (onObj s obj (fun x => { x with cancelled := true, count := 0 })) obj)
      else if st.all (fun x => decide (x = .done)) then .next (launchDone (onObj s obj (fun x => { x with released := true })) obj)
      else .next s

/-! ## CNTRD, PHOPEN, PHWAIT -/

/-- DT after an acquire that observes a stamp (spec 15, R273, R283). -/
def observe (s : State) (slot stamp : Nat) : State := onDrill s slot (fun d => { d with dt := max (d.dt + 1) stamp })
def ownHs (s : State) (slot : Nat) : Nat := (dieAt s (dieOf slot)).hs + 1
/-- CNTRD (R212). -/
def execCntrd (d a : BitVec 6) (l : BitVec 3) (s : State) : Host.Outcome State Fault Refusal :=
  stemWord { ins := .cntrd d a l, srcs := [a], dst := some d } s (fun dr v t =>
    match resolveFor t dr l.toNat (opAt v 0).toNat with
    | .bad => .trap cHandle (opAt v 0) 0 []
    | .stale => .ok (observe t t.cur (ownHs t t.cur)) 0 none
    | .obj i => match objAt t i with
      | none => .ok (observe t t.cur (ownHs t t.cur)) 0 none
      | some o => if o.complete then .ok (observe t t.cur o.stamp) 0 none else .ok t (BitVec.ofNat 64 (if o.lvl = 3 then phaseCount o else o.count)) none)
/-- A phase header and its destinations read and checked (spec 10, Table 10.3); none where the phase-header fault is due. -/
def readHeader (s : State) (core jn : Nat) (super : Bool) (va : Nat) : Option (State × List (Nat × Nat × Nat × Bool)) :=
  if va % 64 ≠ 0 then none
  else match hubRead s core jn super va 64 with
    | .error _ => none
    | .ok (s1, x) =>
      let n := bitsOf x 0 8
      let tab := bitsOf x 64 56
      if bitsOf x 8 56 ≠ 0 ∨ bitsOf x 120 8 ≠ 0 ∨ bitsOf x 128 384 ≠ 0 ∨ n = 0 ∨ 64 < n ∨ tab % 8 ≠ 0 then none
      else match hubRead s1 core jn super tab (8 * n) with
        | .error _ => none
        | .ok (s2, y) =>
          let es := (below n).map (fun i => bitsOf y (64 * i) 64)
          if es.all (fun e => decide (bitsOf e 48 16 = 0 ∧ bitsOf e 2 2 = 0)) then some (s2, es.map (fun e => (bitsOf e 16 32, bitsOf e 4 12, bitsOf e 0 2, false))) else none
/-- PHOPEN (R213): the phase takes a free line; destinations already at zero raise theirs. -/
def execPhopen (d a : BitVec 6) (s : State) : Host.Outcome State Fault Refusal :=
  stemWord { ins := .phopen d a, srcs := [a], dst := some d } s (fun dr v t =>
    let slot := t.cur
    match readHeader t (coreOf slot) dr.job dr.super (opAt v 0).toNat with
    | none => .trap cPhaseHeader (opAt v 0) 0 []
    | some (u, dests) =>
      match (below 16).find? (fun k => (tabFind u.lines k).isNone) with
      | none => .wait .entry u
      | some k =>
        let (u1, i) := newObj u { lvl := 3, job := dr.job, die := dieOf slot, dests, line := k, up := (jobAt u dr.job).obj }
        let u2 := { u1 with lines := tabPut u1.lines k i }
        let zero := (below dests.length).filter (fun n => match dests[n]? with | some (0, 0, _, _) => true | _ => false)
        .ok (postAll u2 (zero.map (fun n => Msg.phaseLineRaise i n))) (BitVec.ofNat 64 (handleOf u2 i)) none)
/-- PHWAIT (R214). -/
def execPhwait (a : BitVec 6) (s : State) : Host.Outcome State Fault Refusal :=
  stemWord { ins := .phwait a, srcs := [a] } s (fun dr v t =>
    let h := (opAt v 0).toNat
    if h ≠ 0 ∧ h / 2 ^ 61 ≠ 3 then .trap cHandle (opAt v 0) 0 []
    else match resolveFor t dr 3 h with
      | .bad => .trap cHandle (opAt v 0) 0 []
      | .stale => .ok (observe t t.cur (ownHs t t.cur)) 0 none
      | .obj i => match objAt t i with
        | none => .ok (observe t t.cur (ownHs t t.cur)) 0 none
        | some o =>
          if !o.complete then .wait (.phwait i) t
          else if o.err then .trap cPhaseError (opAt v 0) 0 []
          else .ok (observe t t.cur o.stamp) 0 none)

/-! ## The seed tray (spec 10, R206, R207, R215) -/

def trayPlaces : Nat := 65536
/-- A job's entries in rank order: by key, then by insertion. -/
def rankIn (e : Nat × TrayEnt) (l : List (Nat × TrayEnt)) : List (Nat × TrayEnt) :=
  match l with
  | [] => [e]
  | x :: r => if e.2.key < x.2.key then e :: x :: r else x :: rankIn e r
def ranked (tray : List TrayEnt) (job : Nat) : List (Nat × TrayEnt) :=
  ((below tray.length).zip tray).foldl (fun l e => if e.2.job = job then rankIn e l else l) []
/-- TRAYPUT (R215). -/
def execTrayput (a b : BitVec 6) (s : State) : Host.Outcome State Fault Refusal :=
  stemWord { ins := .trayput a b, srcs := [a, b], release := true } s (fun dr v t =>
    let die := dieOf t.cur
    let tray := (dieAt t die).tray
    if releaseWait t t.cur 3 then .wait .stores t
    else if (jobAt t dr.job).quota ≤ (ranked tray dr.job).length ∨ trayPlaces ≤ tray.length then .wait .trayput t
    else
      let dt := releaseDt dr 3
      let e : TrayEnt := { job := dr.job, key := (opAt v 0).toNat % 2 ^ 15, val := (opAt v 1).toNat % 2 ^ 48, dt }
      let u := onDie (onDrill t t.cur (fun x => { x with dt := max x.dt dt })) die (fun x => { x with tray := x.tray ++ [e] })
      .ok (wake u (fun w => decide (w = .replay))) 0 none)
/-- gd of a TRAYTAKE. -/
def trayWord (e : TrayEnt) : Nat := 2 ^ 63 + e.key * 2 ^ 48 + e.val
/-- TRAYTAKE (R215, R207): an entry of rank below 32, or of rank 0 when fewer are present; in replay the recorded one (spec 24, R407). -/
def execTraytake (d : BitVec 6) (s : State) : Host.Outcome State Fault Refusal :=
  stemWord { ins := .traytake d, dst := some d } s (fun dr _ t =>
    let die := dieOf t.cur
    let l := ranked (dieAt t die).tray dr.job
    let rank := if l.length < 32 then 0 else (Config.trayPick t.tick).toNat
    let pick : Option (Nat × TrayEnt) := match forced t t.cur 2 with
      | some 0 => none
      | some x => l.find? (fun e => decide (trayWord e.2 = x))
      | none => l[rank]?
    let due := match forced t t.cur 2 with | some x => decide (x ≠ 0) | none => false
    match pick with
    | none => if due then .wait .replay t else .ok (event t t.cur 2 0 (fun v => decide (v = 0))).1 0 none
    | some (n, e) =>
      let u := onDie { t with tick := t.tick + 1 } die (fun x => { x with tray := x.tray.eraseIdx n })
      let waiting := u.drills.filter (fun k => decide (dieOf k.1 = die ∧ k.2.job = dr.job ∧ k.2.stemWait = .trayput))
      let u1 := waiting.foldl (fun w k => post w (.trayputResume k.1)) u
      let u2 := (event u1 t.cur 2 (trayWord e) (fun v => decide (v = trayWord e))).1
      .ok (observe u2 t.cur e.dt) (BitVec.ofNat 64 (trayWord e)) none)
/-- TRAYPUT_RESUME: the word issues again. -/
def execTrayputResume (slot : Nat) (s : State) : Host.Outcome State Fault Refusal :=
  .next (onDrill s slot (fun d => if d.stemWait = .trayput then { d with stemWait := .none } else d))

end Sys2Proof.Machine
end

