-- ==== Sys2Proof/Machine/Queues.lean ====
section
/-!
DEFINITION. Queues of commands, semaphores and mailboxes (spec 10, R208, R209; 29, R456 to R458; 26, R424). -/
namespace Sys2Proof.Machine

/-- The core through whose caches a die hub translates. -/
def hubCore (die : Nat) : Nat := 192 * die
/-- The status line of a mailbox pair. -/
def statusAt (s : State) (die pair : Nat) : Nat := (dieAt s die).mailBase + 256 * pair + 128
def queueAt (s : State) (die q : Nat) : Option Queue := tabFind (dieAt s die).queues q
def onQueue (s : State) (die q : Nat) (f : Queue → Queue) : State :=
  onDie s die (fun d => match tabFind d.queues q with | some x => { d with queues := tabPut d.queues q (f x) } | none => d)
/-- HEAD and ERR written to the status line, as a release at system scope. -/
def writeStatus (s : State) (die q : Nat) : State :=
  match queueAt s die q with
  | none => s
  | some x => coherentWrite s (statusAt s die x.pair) 8 (x.head % 2 ^ 32 + x.err * 2 ^ 32)
/-- The queue halts with an error code. -/
def haltQueue (s : State) (die q err : Nat) : State := notify (writeStatus (onQueue s die q (fun x => { x with err })) die q) (.queueHalt die q err)
/-- The command at the head of a queue: its words, or the halt that reading it causes; none while the ring is empty. -/
inductive Command where
  | idle
  | bad
  | words (s : State) (op : Nat) (w : List Nat)
def headCommand (s : State) (die q : Nat) : Command :=
  match queueAt s die q with
  | none => .idle
  | some x =>
    if x.err ≠ 0 ∨ x.head % 2 ^ 32 = x.tail % 2 ^ 32 then .idle
    else match hubRead s (hubCore die) x.job false (x.ring.toNat + 64 * (x.head % 2 ^ x.log2n)) 64 with
      | .error _ => .bad
      | .ok (t, y) => .words t (bitsOf y 56 8) ((below 8).map (fun i => bitsOf y (64 * i) 64))
/-- The words from n on are zero, and so is A where the command has none. -/
def restZero (w : List Nat) (n : Nat) : Bool := (w.drop n).all (fun x => decide (x = 0))
/-- The next command of a queue is taken up; a ring that cannot be read halts it, as does an unknown OP. -/
def queueKick (s : State) (die q : Nat) : State :=
  match headCommand s die q with
  | .idle => s
  | .bad => haltQueue s die q 2
  | .words t op _ =>
    if op = 0 then post t (.queueNop die q)
    else if op = 1 then post t (.queueLaunch die q)
    else if op = 2 then post t (.queueWait die q)
    else if op = 3 then post t (.queueSignal die q)
    else if op = 4 then post t (.queueXfer die q)
    else haltQueue t die q 1
/-- A command has completed: HEAD is written, and the next one is taken up. -/
def commandDone (s : State) (die q : Nat) : State := queueKick (writeStatus (onQueue s die q (fun x => { x with head := (x.head + 1) % 2 ^ 32, xfer := false })) die q) die q
/-- A command of a queue runs when it stands at the head with its OP; `used` words may be set. -/
def withCommand (s : State) (die q op used : Nat) (k : State → Queue → List Nat → State) : Host.Outcome State Fault Refusal :=
  match headCommand s die q, queueAt s die q with
  | .words t o w, some x => if o ≠ op then .next s else if restZero w used && (decide (used ≠ 0) || decide (w.getD 0 0 = 0)) then .next (k t x w) else .next (haltQueue t die q 1)
  | _, _ => .next s

/-- QUEUE_NOP (R457). -/
def execQueueNop (die q : Nat) (s : State) : Host.Outcome State Fault Refusal := withCommand s die q 0 0 (fun t _ _ => commandDone t die q)
/-- QUEUE_LAUNCH (R457, R458): a launch in the job's root phase; it waits for a free launch entry. -/
def execQueueLaunch (die q : Nat) (s : State) : Host.Outcome State Fault Refusal :=
  withCommand s die q 1 1 (fun t x w =>
    let va := bitsOf (w.getD 0 0) 0 56
    if va % 64 ≠ 0 then haltQueue t die q 2
    else
      let t1 := ensureJob t x.job die
      match readRecord t1 (hubCore die) x.job false va none (jobAt t1 x.job).rootPhase with
      | .fault _ _ => haltQueue t die q 2
      | .invalid => haltQueue t die q 2
      | .ok u words ph deps =>
        if launchEntries ≤ openLaunches u die then t
        else
          let (u1, i) := createLaunch u die x.job va words ph deps none 0
          commandDone (onQueue u1 die q (fun y => { y with launches := y.launches ++ [handleOf u1 i] })) die q)
/-- The VALUE of a semaphore at a virtual address, with its NSIG word's record; none on a fault. -/
def semRead (s : State) (die job va : Nat) : Option (State × Nat) :=
  if va % 64 ≠ 0 then none else match hubRead s (hubCore die) job false va 64 with | .ok r => some r | .error _ => none
/-- QUEUE_WAIT (R457). -/
def execQueueWait (die q : Nat) (s : State) : Host.Outcome State Fault Refusal :=
  withCommand s die q 2 2 (fun t x w =>
    match semRead t die x.job (bitsOf (w.getD 0 0) 0 56) with
    | none => haltQueue t die q 2
    | some (u, r) => if w.getD 1 0 ≤ bitsOf r 0 64 then commandDone u die q else u)
/-- Every queue that stands at a WAIT tests its semaphore again. -/
def retestWaits (s : State) : State :=
  s.dies.foldl (fun t d => d.2.queues.foldl (fun u q => match headCommand u d.1 q.1 with | .words _ 2 _ => post u (.queueWait d.1 q.1) | _ => u) t) s
/-- A launch that an earlier command created has completed. -/
def launchOver (s : State) (job h : Nat) : Bool := match resolve s job 1 h with | .obj i => (match objAt s i with | some o => o.complete | none => true) | _ => true
/-- QUEUE_SIGNAL (R457, R208). -/
def execQueueSignal (die q : Nat) (s : State) : Host.Outcome State Fault Refusal :=
  withCommand s die q 3 2 (fun t x w =>
    if !x.launches.all (launchOver t x.job) then t
    else
      let va := bitsOf (w.getD 0 0) 0 56
      match semRead t die x.job va with
      | none => haltQueue t die q 2
      | some (u, r) => match translateNow u (hubCore die) x.job false .store va with
        | (.hit pa _, u1) => retestWaits (commandDone (coherentWrite u1 pa 8 (max (bitsOf r 0 64) (w.getD 1 0))) die q)
        | (_, u1) => haltQueue u1 die q 2)
/-- QUEUE_XFER (R457; 26, R424): the transfer goes out once; XFER_COMPLETE ends the command. -/
def execQueueXfer (die q : Nat) (s : State) : Host.Outcome State Fault Refusal :=
  withCommand s die q 4 3 (fun t x w =>
    let n := w.getD 2 0
    let dev := bitsOf (w.getD 1 0) 52 12
    if x.xfer then t
    else if n < 128 ∨ 2 ^ 30 < n ∨ n % 128 ≠ 0 ∨ dev = 0 then haltQueue t die q 1
    else if t.hokuxUp.isEmpty then haltQueue t die q 3
    else
      let va := bitsOf (w.getD 0 0) 0 56
      let pages := upFrom (va / 65536) ((va + n + 65535) / 65536 - va / 65536)
      let ok := pages.all (fun p => match translateNow t (hubCore die) x.job false .load (max va (65536 * p)) with | (.hit _ _, _) => decide (max va (65536 * p) < 2 ^ 56) | _ => false)
      if ok then notify (onQueue t die q (fun y => { y with xfer := true })) (.xferSent dev (bitsOf (w.getD 1 0) 0 52) n) else haltQueue t die q 2)
/-- XFER_COMPLETE: the other device has performed the writes, or cannot be reached. -/
def execXferComplete (die q : Nat) (ok : Bool) (s : State) : Host.Outcome State Fault Refusal :=
  match queueAt s die q with
  | some x => if x.xfer then (if ok then .next (commandDone s die q) else .next (haltQueue (onQueue s die q (fun y => { y with xfer := false })) die q 3)) else .next s
  | none => .next s
/-- INCOMING_XFER: bytes from another device are written at a physical address (spec 26, R424). -/
def execIncomingXfer (addr : Nat) (data : List (BitVec 8)) (s : State) : Host.Outcome State Fault Refusal :=
  let ok := (below data.length).all (fun i => (tierOf (addr + i)).isSome && !inHubWindow (addr + i))
  if !ok then .fault .absentAddress
  else .next (coherentWrite s addr data.length (packFields 8 (fun i => (data.getD i 0).toNat) data.length))

/-! ## Mapping and mailboxes (spec 10, R208, R209; 29, R456) -/

/-- The fields of a mailbox line are in their ranges. -/
def mailOk (v : Vec) : Bool :=
  let x := v.toNat
  decide (bitsOf x 120 8 = 0 ∧ bitsOf x 165 11 = 0 ∧ bitsOf x 192 832 = 0 ∧ bitsOf x 64 56 % 64 = 0 ∧ 4 ≤ bitsOf x 160 5 ∧ bitsOf x 160 5 ≤ 20)
/-- QUEUE_SLOT_MAP: firmware maps the queue of a mailbox pair into a free slot, where it goes on from the HEAD of its status line, or unmaps
it. -/
def execQueueSlotMap (die pair : Nat) (mapped : Bool) (s : State) : Host.Outcome State Fault Refusal :=
  let d := dieAt s die
  let have' := d.queues.find? (fun q => decide (q.2.pair = pair))
  if mapped then
    let v := tabGet 0 d.mailLine pair
    let x := v.toNat
    match have', (below 64).find? (fun q => (tabFind d.queues q).isNone) with
    | none, some q =>
      if !mailOk v then .next s
      else
        let st := freshRead s (statusAt s die pair) 8
        let n : Queue := { qid := bitsOf x 128 32, job := bitsOf x 176 16, ring := BitVec.ofNat 56 (bitsOf x 64 56), log2n := bitsOf x 160 5, tail := bitsOf x 0 32, head := bitsOf st 0 32, err := bitsOf st 32 8, pair }
        .next (queueKick (putDie s die { d with queues := tabPut d.queues q n }) die q)
    | _, _ => .next s
  else match have' with
    | some q => .next (putDie s die { d with queues := tabDel d.queues q.1 })
    | none => .next s
/-- MAILBOX_WRITE: the host writes a mailbox line; a SEQ that differs from the one last seen makes the Gardener act: a mapped queue's TAIL
follows the line (R456). -/
def execMailboxWrite (die pair : Nat) (data : Vec) (s : State) : Host.Outcome State Fault Refusal :=
  if 64 ≤ pair then .next s
  else
    let s1 := coherentPut s (((dieAt s die).mailBase + 256 * pair) / 128) (BitVec.allOnes 128) data 0
    let seq := bitsOf data.toNat 32 32
    if tabGet 0 (dieAt s1 die).seqSeen pair = seq then .next s1
    else
      let s2 := notify (onDie s1 die (fun d => { d with seqSeen := tabSet 0 d.seqSeen pair seq, mailLine := tabPut d.mailLine pair data })) (.mailbox die pair)
      match (dieAt s2 die).queues.find? (fun q => decide (q.2.pair = pair)) with
      | some q => .next (queueKick (onQueue s2 die q.1 (fun x => { x with tail := bitsOf data.toNat 0 32 })) die q.1)
      | none => .next s2
/-- Cycles of 100 µs (spec 00, R9). -/
def cycles100us : Nat := 300000
/-- SIGNALLER_UNMAPPED_EVENT (R209): a mapped queue stands at a wait below its target, and no registered signaller is mapped. -/
def execSignallerUnmappedEvent (die q : Nat) (s : State) : Host.Outcome State Fault Refusal :=
  match headCommand s die q, queueAt s die q with
  | .words t 2 w, some x =>
    (match semRead t die x.job (bitsOf (w.getD 0 0) 0 56) with
    | none => .next s
    | some (u, r) =>
      let n := min (bitsOf r 448 4) 12
      let sigs := (below n).map (fun i => bitsOf r (64 + 32 * i) 32)
      let live := s.dies.any (fun d => d.2.queues.any (fun y => decide (y.2.qid ∈ sigs)))
      if w.getD 1 0 ≤ bitsOf r 0 64 ∨ live ∨ (x.raisedAt ≠ 0 ∧ s.cycle + 1 < x.raisedAt + cycles100us) then .next s
      else .next (notify (onQueue u die q (fun y => { y with raisedAt := s.cycle + 1 })) (.signallerUnmapped die q)))
  | _, _ => .next s

end Sys2Proof.Machine
end

