-- ==== Sys2Proof/Machine/Copy.lean ====
section
/-!
DEFINITION. The copy engines: operands, checks at issue, moving, retirement, gathers and the waits on the counters (spec 18). -/
namespace Sys2Proof.Machine

/-! ## Operands (spec 18, Table 18.1) -/

/-- What an address operand names. -/
inductive Space where
  | virt (va : Nat)
  | bench (a : Nat)
  | port (h : Nat)
  deriving DecidableEq, Repr
/-- The space that a value names; none where the copy-operand fault is due. -/
def spaceOf (x : Word) : Option Space :=
  let n := x.toNat
  let top := bitsOf n 60 4
  if top = 0 then some (.virt n)
  else if top = 8 then (if bitsOf n 25 35 = 0 then some (.bench (n % 2 ^ 25)) else none)
  else if top = 12 then (if bitsOf n 2 58 = 0 then some (.port (28 + n % 4)) else none)
  else none
def isPort (x : Space) : Bool := match x with | .port _ => true | _ => false
/-- Bytes that the swizzle moves (spec 08, R167): where byte x of the bench stands in swizzle z. -/
def physOf (x z : Nat) : Nat :=
  let r := x % 2048 / 128
  let f := if z = 0 then 0 else if z = 1 then r % 8 else if z = 2 then r / 2 % 8 else r / 4
  x / 128 * 128 + ((x % 128 / 16) ^^^ f) * 16 + x % 16

/-! ## Translations of a range -/

/-- The translations of n bytes from va, checked as loads or stores (spec 17, R309); the first failure, with the first address on its page. -/
def transRange (s : State) (core jn : Nat) (super : Bool) (k : Kind) (va n fuel : Nat) : Except (Nat × Nat) (State × List Trans) :=
  match fuel with
  | 0 => .ok (s, [])
  | f + 1 =>
    if n = 0 then .ok (s, [])
    else if 2 ^ 56 ≤ va then .error (cTranslation, va)
    else match translateNow s core jn super k va with
      | (.hit _ t, s1) =>
        let next := if t.pte = none then (t.page + 1) * 2 ^ t.shift else (va / 2 ^ 16 + 1) * 2 ^ 16
        (match transRange s1 core jn super k next (n - (next - va)) f with
          | .ok (s2, l) => .ok (s2, t :: l)
          | .error e => .error e)
      | (.fault c, _) => .error (c, va)
      | (.miss, _) => .error (cTranslation, va)
def rangeOf (s : State) (core jn : Nat) (super : Bool) (k : Kind) (va n : Nat) : Except (Nat × Nat) (State × List Trans) := transRange s core jn super k va n (n / 4096 + 2)
/-- The physical address and translation that a command uses for a virtual address. -/
def viaTrans (l : List Trans) (jn va : Nat) : Option (Nat × Trans) := (l.find? (transHit jn va)).map (fun t => (t.frame + va % 2 ^ t.shift, t))

/-! ## Reading lines -/

/-- A line of memory as an engine of a cluster reads it. -/
def engineLine (s : State) (cl dt line : Nat) : Vec × BitVec 4 :=
  let b := (below 128).map (fun i => engineByte s cl dt (128 * line + i))
  (vecOfBytes (fun i => (b.getD i (0, false)).1), BitVec.ofNat 4 (packFields 1 (fun k => if (b.getD (32 * k) (0, false)).2 then 1 else 0) 4))
/-- A line read by a command: its data, or the pool line that has to come first. -/
def memLine (s : State) (pool : Tab (Vec × BitVec 4)) (cl dt line : Nat) : Except Nat (Vec × BitVec 4) :=
  if inHubWindow (line * 128) then .ok (0, 0)
  else if tierOf (line * 128) = some 3 then (match tabFind pool line with
    | some x => .ok x
    | none => if poolDown s (line * 128) then .ok (0, 15) else .error line)
  else .ok (engineLine s cl dt line)
/-- Line p / 128 of a source space. -/
def sourceLine (s : State) (c : CopyCmd) (x : Space) (p : Nat) : Except Nat (Vec × BitVec 4) :=
  match x with
  | .virt _ => (match viaTrans c.trans c.job p with | some (pa, _) => memLine s c.pool (clusterOf c.slot) c.dt (pa / 128) | none => .ok (0, 0))
  | .bench _ => (match benchPlace s c.slot p with
    | some (core, off) =>
      let o := off / 128 * 128
      .ok (BitVec.ofNat 1024 (benchRead s core o 128), BitVec.ofNat 4 (packFields 1 (fun k => if o / 32 + k ∈ (coreAt s core).benchPsn then 1 else 0) 4))
    | none => .ok (0, 0))
  | .port _ => .ok (0, 0)
/-- k bytes from place p of a space, at most 128, and whether byte j is poisoned, for j below k. -/
def sourceRun (s : State) (c : CopyCmd) (x : Space) (p k : Nat) : Except Nat (Nat × (Nat → Bool)) :=
  match sourceLine s c x p with
  | .error e => .error e
  | .ok (v, q) =>
    let o := p % 128
    if o + k ≤ 128 then .ok (bitsOf v.toNat (8 * o) (8 * k), fun j => bitOf q.toNat ((o + j) / 32))
    else match sourceLine s c x (p / 128 * 128 + 128) with
      | .error e => .error e
      | .ok (v', q') => .ok (bitsOf (v.toNat + v'.toNat * 2 ^ 1024) (8 * o) (8 * k), fun j => bitOf (q.toNat + q'.toNat * 16) ((o + j) / 32))

/-! ## Writing -/

/-- k bytes of x written at place p of a space, all in one line; `bad` says which bytes come poisoned; `swz` is the swizzle of a bench
destination. -/
def writeRun (s : State) (c : CopyCmd) (d : Space) (p k x : Nat) (bad : Nat → Bool) (swz : Option Nat) : State :=
  match d with
  | .virt _ =>
    (match viaTrans c.trans c.job p with
    | none => s
    | some (pa, t) =>
      let o := pa % 128
      if inHubWindow pa then s
      else if tierOf pa = some 3 then (if poolDown s pa then s else sendRemote s { slot := c.slot, leaf := false, kind := 2, pa, size := k, arg := x, dt := c.dt })
      else
        let psn : BitVec 4 := BitVec.ofNat 4 (packFields 1 (fun q => if (below k).any (fun j => decide ((o + j) / 32 = q) && bad j) then 1 else 0) 4)
        engineStoreLine s c.slot (pa / 128) (pageShared s t) c.dt (byteMask o k) (BitVec.ofNat 1024 (x * 2 ^ (8 * o))) psn)
  | .bench _ =>
    (match benchPlace s c.slot p with
    | none => s
    | some (core, off) =>
      let runs := upFrom (off / 16) ((off + k + 15) / 16 - off / 16)
      let s1 := runs.foldl (fun t r =>
        let lo := max off (16 * r)
        let hi := min (off + k) (16 * r + 16)
        benchWrite t core (match swz with | some z => physOf lo z | none => lo) (hi - lo) (bitsOf x (8 * (lo - off)) (8 * (hi - lo)))) s
      let sectors := upFrom (off / 32) ((off + k + 31) / 32 - off / 32)
      let s2 := sectors.foldl (fun t q =>
        let at' := match swz with | some z => physOf (32 * q) z / 32 | none => q
        let whole := decide (off ≤ 32 * q ∧ 32 * q + 32 ≤ off + k)
        let b := (below k).any (fun j => decide ((off + j) / 32 = q) && bad j)
        if b then benchSetPsn t core at' true else if whole then benchSetPsn t core at' false else t) s1
      match swz with
      | some z => onCore s2 core (fun y => { y with tags := tabSet 0 y.tags (off / 2048) z })
      | none => s2)
  | .port _ => s
/-- Where two spaces overlap: the place in the same numbering. -/
def spacePlace (s : State) (slot : Nat) (x : Space) : Option (Bool × Nat) :=
  match x with
  | .virt va => some (false, va)
  | .bench a => (benchPlace s slot a).map (fun r => (true, r.1 * 0x80000 + r.2))
  | .port _ => none
/-- How far the destination lies behind the source, where the two ranges of n bytes overlap (spec 18, R326). -/
def overlapOf (s : State) (slot : Nat) (d src : Space) (n : Nat) : Option Int :=
  match spacePlace s slot d, spacePlace s slot src with
  | some (b, x), some (b', y) => if b = b' ∧ x ≠ y ∧ x < y + n ∧ y < x + n then some ((y : Int) - (x : Int)) else none
  | _, _ => none
/-- Which source byte an overlapped destination byte i receives: free at each step (spec 18, R326; Config.overlapOld). -/
def overlapByte (tick n : Nat) (delta : Int) (i fuel : Nat) : Nat :=
  match fuel with
  | 0 => i
  | f + 1 =>
    let j := (i : Int) + delta
    if j < 0 ∨ (n : Int) ≤ j ∨ Config.overlapOld tick i then i else overlapByte tick n delta j.toNat f
/-- One piece of a move, read from the state before the command. -/
def movePiece (s0 : State) (c : CopyCmd) (src : Space) (base : Nat) (ov : Option Int) (n i k : Nat) : Except Nat (Nat × (Nat → Bool)) :=
  match ov with
  | none => sourceRun s0 c src (base + i) k
  | some delta =>
    (below k).foldl (fun a j => match a with
      | .error e => .error e
      | .ok (x, bad) => match sourceRun s0 c src (base + overlapByte s0.tick n delta (i + j) n) 1 with
        | .error e => .error e
        | .ok (y, b) => .ok (x + y * 2 ^ (8 * j), fun m => if m = j then b 0 else bad m)) (.ok (0, fun _ => false))
/-- n bytes from one space to another, line by line of the destination; a pool line that has to come first stops it. -/
def moveBytes (s0 s : State) (c : CopyCmd) (d src : Space) (db sb n : Nat) (swz : Option Nat) : Except Nat State :=
  let ov := overlapOf s0 c.slot d src n
  (upFrom (db / 128) ((db + n + 127) / 128 - db / 128)).foldl (fun a l => match a with
    | .error e => .error e
    | .ok t =>
      let lo := max db (128 * l)
      let hi := min (db + n) (128 * l + 128)
      match movePiece s0 c src sb ov n (lo - db) (hi - lo) with
      | .error e => .error e
      | .ok (x, bad) => .ok (writeRun t c d lo (hi - lo) x bad swz)) (if n = 0 then .ok s else .ok s)
/-- n zero bytes. -/
def zeroBytes (s : State) (c : CopyCmd) (d : Space) (db n : Nat) : State :=
  if n = 0 then s
  else (upFrom (db / 128) ((db + n + 127) / 128 - db / 128)).foldl (fun t l =>
    let lo := max db (128 * l)
    let hi := min (db + n) (128 * l + 128)
    writeRun t c d lo (hi - lo) 0 (fun _ => false) none) s
/-- The tags of the bench tiles of a range are cleared (spec 18, R327). -/
def clearTags (s : State) (slot a n : Nat) : State :=
  if n = 0 then s
  else match benchPlace s slot a with
  | some (core, off) => onCore s core (fun y => { y with tags := (upFrom (off / 2048) ((off + n - 1) / 2048 + 1 - off / 2048)).foldl (fun t k => tabSet 0 t k 0) y.tags })
  | none => s
def spaceBase (x : Space) : Nat := match x with | .virt a => a | .bench a => a | .port h => h

/-! ## Gathers (spec 18, R330 to R334) -/

/-- The row of lane l at its bench address, filled with zero bytes or with n bytes of a virtual block, in swizzle sw1. -/
def rowBase (c : CopyCmd) (l : Nat) : Nat := c.dst.toNat + l * c.blk
def gatherPlain (s0 s : State) (c : CopyCmd) : Except Nat State :=
  (lanesOf c.lanes).foldl (fun a l => match a with
    | .error e => .error e
    | .ok t =>
      let va := c.src.toNat + lane c.idx l * c.blk
      moveBytes s0 t c (.bench (rowBase c l)) (.virt va) (rowBase c l) va c.blk (some 1)) (.ok s)
/-- A row written with zero bytes, in swizzle sw1. -/
def zeroRow (s : State) (c : CopyCmd) (l : Nat) : State :=
  let b := rowBase c l
  (upFrom (b / 128) (c.blk / 128)).foldl (fun t i => writeRun t c (.bench b) (128 * i) 128 0 (fun _ => false) (some 1)) s
/-- n bytes of the job's memory as the engine reads them at device scope: value and poison, a fault's FC, or the pool line that has to come
first. -/
inductive KvRead where
  | ok (s : State) (x : Nat) (bad : Bool) (t : List Trans)
  | fault (fc : Nat)
  | pool (line : Nat)
/-- n bytes from va through a command's translations, and whether any is poisoned. -/
def kvBytes (s : State) (c : CopyCmd) (va n : Nat) : Except Nat (Nat × Bool) :=
  (upFrom (va / 128) ((va + n + 127) / 128 - va / 128)).foldl (fun (a : Except Nat (Nat × Bool)) l =>
    match a with
    | .error e => .error e
    | .ok (x, bad) =>
      let lo := max va (128 * l)
      let hi := min (va + n) (128 * l + 128)
      match sourceRun s c (.virt va) lo (hi - lo) with
      | .error e => .error e
      | .ok (y, b) => .ok (x + y * 2 ^ (8 * (lo - va)), bad || (below (hi - lo)).any b)) (.ok (0, false))
def fcOf (code : Nat) : Nat := if code = cTranslation then 2 else 3
def kvRead (s : State) (c : CopyCmd) (va n : Nat) : KvRead :=
  match rangeOf s (coreOf c.slot) c.job c.sup .load va n with
  | .error (code, _) => .fault (fcOf code)
  | .ok (s1, ts) =>
    let s2 := ts.foldl (fun u t => engineClaim u (clusterOf c.slot) t) s1
    match kvBytes s2 { c with trans := ts } va n with
    | .error line => .pool line
    | .ok (x, bad) => .ok s2 x bad ts
/-- Fields of a KV block map header (Table 18.5); a header that breaks the table is empty. -/
def headerOk (h : Nat) : Bool :=
  decide (bitsOf h 56 8 = 0 ∧ bitsOf h 120 8 = 0 ∧ bitsOf h 184 8 = 0 ∧ bitsOf h 197 27 = 0 ∧ bitsOf h 281 38 = 0 ∧ bitsOf h 448 64 = 0)
  && decide (bitsOf h 0 56 % 128 = 0 ∧ bitsOf h 128 56 % 8 = 0 ∧ bitsOf h 192 5 ≤ 24)
/-- The search of one lane's key from a bucket on: the page, none, a fault or a pool line. -/
inductive KvFind where
  | page (s : State) (p : Option Nat)
  | fault (fc : Nat)
  | pool (line : Nat)
def kvFind (s : State) (c : CopyCmd) (seq layer blk a hops : Nat) : KvFind :=
  match kvRead s c a 128 with
  | .fault fc => .fault fc
  | .pool l => .pool l
  | .ok s1 x bad _ =>
    if bad then .fault 4
    else
      let e (i : Nat) : Nat × Nat := (bitsOf x (128 * i) 64, bitsOf x (128 * i + 64) 64)
      match (below 8).find? (fun i => let w := e i; bitOf w.1 63 && !bitOf w.1 62 && decide (bitsOf w.1 48 14 = 0 ∧ bitsOf w.1 16 32 = seq ∧ bitsOf w.1 0 16 = layer ∧ bitsOf w.2 32 32 = blk)) with
      | some i => .page s1 (some (bitsOf (e i).2 0 32))
      | none =>
        let w := e 7
        let next := bitsOf w.2 32 24 * 2 ^ 32 + bitsOf w.2 0 32
        match hops with
        | 0 => .page s1 none
        | k + 1 => if bitOf w.1 63 ∧ bitOf w.1 62 ∧ bitsOf w.1 48 14 = 0 ∧ bitsOf w.2 56 8 = 0 ∧ next % 128 = 0 then kvFind s1 c seq layer blk next k else .page s1 none
/-- A counter of the header rises by 1, at device scope. -/
def kvCount (s : State) (c : CopyCmd) (off : Nat) : State :=
  match translateNow s (coreOf c.slot) c.job c.sup .load (c.src.toNat + off) with
  | (.hit pa _, u) => coherentWrite u pa 8 ((freshRead u pa 8 + 1) % 2 ^ 64)
  | (_, u) => u
/-- One lane of a keyed gather. -/
def keyedLane (s : State) (c : CopyCmd) (h l : Nat) : Except Nat State :=
  let seq := bitsOf c.seqLayer.toNat 16 32
  let layer := bitsOf c.seqLayer.toNat 0 16
  let blk := lane c.idx l
  let hash := (seq ^^^ (layer <<< 16) ^^^ (blk <<< 4) ^^^ (blk >>> 12)) % 2 ^ 32
  let err (t : State) (fc : Nat) : State := if bitOf h 319 then errorPhase t c.slot (bitsOf h 256 25) fc else t
  let miss (t : State) : State := kvCount (zeroRow t c l) c 0x28
  if !headerOk h then .ok (miss s)
  else match kvFind s c seq layer blk (bitsOf h 0 56 + 128 * (hash % 2 ^ bitsOf h 192 5)) 15 with
    | .pool x => .error x
    | .fault fc => .ok (err (zeroRow s c l) fc)
    | .page s1 none => .ok (miss s1)
    | .page s1 (some p) =>
      if bitsOf h 224 32 ≤ p then .ok (miss s1)
      else match kvRead s1 c (bitsOf h 128 56 + 8 * p) 8 with
        | .pool x => .error x
        | .fault fc => .ok (err (zeroRow s1 c l) fc)
        | .ok s2 c1 bad _ =>
          if bad then .ok (err (zeroRow s2 c l) 4)
          else if c1 % 2 = 1 then .ok (err (kvCount (zeroRow s2 c l) c 0x30) 6)
          else
            let va := bitsOf h 64 56 + p * c.blk
            match rangeOf s2 (coreOf c.slot) c.job c.sup .load va c.blk with
            | .error (code, _) => .ok (err (zeroRow s2 c l) (fcOf code))
            | .ok (s3, ts) =>
              let s4 := ts.foldl (fun u t => engineClaim u (clusterOf c.slot) t) s3
              moveBytes s4 s4 { c with trans := ts } (.bench (rowBase c l)) (.virt va) (rowBase c l) va c.blk (some 1)
def gatherKeyed (s : State) (c : CopyCmd) : Except Nat State :=
  match kvRead s c c.src.toNat 64 with
  | .pool l => .error l
  | .fault _ => .ok ((lanesOf c.lanes).foldl (fun t l => zeroRow t c l) s)
  | .ok s1 h bad _ => (lanesOf c.lanes).foldl (fun a l => match a with | .error e => .error e | .ok t => keyedLane t c (if bad then 2 ^ 448 else h) l) (.ok s1)

/-! ## A command's work -/

/-- XSTR's rows. -/
def moveRows (s0 s : State) (c : CopyCmd) (d src : Space) : Except Nat State :=
  let w (i : Nat) : Nat := (c.desc.getD i 0).toNat
  let len := bitsOf (w 1) 0 24
  let swz := if bitOf (w 2) 2 then some (bitsOf (w 2) 0 2) else none
  let at' (x : Space) (n : Nat) : Space := match x with | .virt a => .virt (a + n) | .bench a => .bench (a + n) | .port h => .port h
  (below (bitsOf (w 1) 32 16)).foldl (fun a i => match a with
    | .error e => .error e
    | .ok t =>
      let d' := at' d (i * bitsOf (w 0) 0 32)
      let x' := at' src (i * bitsOf (w 0) 32 32)
      moveBytes s0 t c d' x' (spaceBase d') (spaceBase x') len swz) (.ok s)
/-- XMC: the source once, to every core of the mask. -/
def multicast (s : State) (c : CopyCmd) : Except Nat State :=
  let o := bitsOf c.dst.toNat 0 19
  let n := 128 * bitsOf c.dst.toNat 32 16
  ((below 48).filter (fun k => bitOf (c.desc.getD 0 0).toNat k)).foldl (fun a k => match a with
    | .error e => .error e
    | .ok t => let b := k * 0x80000 + o; moveBytes s t c (.bench b) (.virt c.src.toNat) b c.src.toNat n none) (.ok s)
/-- Everything a command without a port does, or the pool line that has to come first. -/
def performCopy (s : State) (c : CopyCmd) : Except Nat State :=
  let s0 := c.trans.foldl (fun u t => engineClaim u (clusterOf c.slot) t) s
  let s0 := { s0 with tick := s0.tick + 1 }
  match spaceOf c.dst, spaceOf c.src with
  | some d, some x =>
    if c.op = 0 then moveBytes s0 s0 c d x (spaceBase d) (spaceBase x) c.len none
    else if c.op = 1 then moveRows s0 s0 c d x
    else if c.op = 2 then multicast s0 c
    else if c.op = 3 then .ok (match d with | .bench a => clearTags (zeroBytes s0 c d a c.len) c.slot a c.len | _ => zeroBytes s0 c d (spaceBase d) c.len)
    else if c.op = 4 then gatherPlain s0 s0 c
    else gatherKeyed s0 c
  | _, _ => if c.op = 2 then multicast s0 c else if c.op = 4 then gatherPlain s0 s0 c else if c.op = 5 then gatherKeyed s0 c else .ok s0
/-- The engine port that a command names. -/
def portOf (c : CopyCmd) : Option (Nat × Bool) :=
  if c.op ≠ 0 then none
  else match spaceOf c.dst, spaceOf c.src with
    | some (.port h), _ => some (h, true)
    | _, some (.port h) => some (h, false)
    | _, _ => none
def finished (c : CopyCmd) : Bool := match portOf c with | some _ => decide (c.len ≤ 128 * c.moved) | none => decide (c.moved = 1)
/-- One entry through a port, where the port allows it. -/
def portEntry (s : State) (c : CopyCmd) : Option (Except Nat State) :=
  match portOf c, drillAt s c.slot with
  | some (h, toPort), some d =>
    let q := hoseQ s d h
    let at' := 128 * c.moved
    let s0 := c.trans.foldl (fun u t => engineClaim u (clusterOf c.slot) t) s
    if toPort then
      if hoseDepth h ≤ q.length then none
      else match spaceOf c.src with
        | some x => some (match sourceRun s0 c x (spaceBase x + at') 128 with | .error e => .error e | .ok (v, _) => .ok (hosePush s0 c.slot h (BitVec.ofNat 1024 v)))
        | none => none
    else match q, spaceOf c.dst with
      | v :: _, some d' =>
        let b := spaceBase d' + at'
        let t := hosePop s0 c.slot h 1
        some (.ok ((upFrom (b / 128) ((b + 255) / 128 - b / 128)).foldl (fun u l =>
          let lo := max b (128 * l)
          let hi := min (b + 128) (128 * l + 128)
          writeRun u c d' lo (hi - lo) (bitsOf v.toNat (8 * (lo - b)) (8 * (hi - lo))) (fun _ => false) none) t))
      | _, _ => none
  | _, _ => none

/-! ## Engines (spec 18, R318 to R321) -/

def engineOf (slot : Nat) : Nat := coreOf slot % 2
def engineQ (s : State) (slot : Nat) : List CopyCmd := tabGet [] (clAt s (clusterOf slot)).engines (engineOf slot)
def engineSet (s : State) (slot : Nat) (l : List CopyCmd) : State := onCl s (clusterOf slot) (fun c => { c with engines := tabSet [] c.engines (engineOf slot) l })
/-- A pool line is asked for, once. -/
def askPool (s : State) (c : CopyCmd) (line : Nat) : State :=
  if s.remotes.any (fun r => decide (r.2.slot = c.slot ∧ r.2.kind = 3 ∧ r.2.idx = c.cls ∧ r.2.pa = line * 128)) then s
  else sendRemote s { slot := c.slot, leaf := false, idx := c.cls, kind := 3, pa := line * 128, size := 128 }
/-- A page that a command writes is locked by a migration (spec 17, R316). -/
def writesLocked (s : State) (c : CopyCmd) : Bool := c.trans.any (fun t => pageLocked s t)
/-- The command at place i of an engine goes as far as it can. -/
def advanceOne (s : State) (slot i : Nat) : State :=
  match (engineQ s slot)[i]? with
  | none => s
  | some c =>
    if finished c || writesLocked s c then s
    else match portOf c with
      | none => (match performCopy s c with
        | .ok t => engineSet t slot ((engineQ t slot).set i { c with moved := 1 })
        | .error line => askPool s c line)
      | some _ => (below 4).foldl (fun t _ => match (engineQ t slot)[i]? with
        | none => t
        | some e => if finished e then t else match portEntry t e with
          | none => t
          | some (.ok u) => engineSet u slot ((engineQ u slot).set i { e with moved := e.moved + 1 })
          | some (.error line) => askPool t e line) s
/-- Waits on a counter that has fallen, of the drill and of those that wait on engines. -/
def counterMoved (s : State) (slot : Nat) : State :=
  let s1 := wake s (fun w => decide (w = .engine ∨ w = .retire) || (match w with | .shoot _ => true | _ => false))
  match drillAt s1 slot with
  | none => s1
  | some d =>
    let s2 := match d.stemWait with
      | .xwait c n => if ocGet d c ≤ n then post s1 (.xwaitRelease slot) else s1
      | .xyield c n _ => if ocGet d c ≤ n then post s1 (.xyieldWake slot) else s1
      | .exited => post s1 (.drillRetire slot)
      | .unbind => post s1 (.unbind slot)
      | _ => s1
    if d.preempt.isSome then post s2 (.preemptionTrap slot) else s2
/-- COPY_RETIRE: the active commands of the drill go on, and its oldest command of the class retires if it is finished (R320). -/
def execCopyRetire (slot cls : Nat) (s : State) : Host.Outcome State Fault Refusal :=
  let active := (below 16).filter (fun i => match (engineQ s slot)[i]? with
    | some c => decide (c.slot = slot) && (decide (portOf c ≠ none) || ((engineQ s slot).take i).all (fun e => decide (e.slot ≠ slot ∨ e.cls ≠ c.cls)))
    | none => false)
  let s1 := active.foldl (fun t i => advanceOne t slot i) s
  let q := engineQ s1 slot
  match (below 16).find? (fun i => match q[i]? with | some c => decide (c.slot = slot ∧ c.cls = cls) | none => false) with
  | none => .next s1
  | some i => match q[i]? with
    | some c =>
      if finished c then
        let s2 := engineSet s1 slot (q.eraseIdx i)
        let s3 := onDrill s2 slot (fun d => ocPut d cls (ocGet d cls - 1))
        .next (postAll (counterMoved s3 slot) ((q.eraseIdx i).map (fun e => Msg.copyRetire e.slot e.cls)))
      else .next s1
    | none => .next s1

/-! ## Issue (spec 18, R325) -/

/-- Whether a new engine command must wait: queue, counter, throttle (spec 18, R318; 01, R27; 31, R466). -/
def copyHeld (s : State) (slot : Nat) (d : Drill) (cls : Nat) : Bool :=
  decide (32 ≤ (engineQ s slot).length ∨ 255 ≤ ocGet d cls ∨ (dieAt s (dieOf slot)).level = 3)
/-- A command joins its engine. -/
def issueCopy (s : State) (c : CopyCmd) : State :=
  let s1 := engineSet s c.slot (engineQ s c.slot ++ [c])
  post (onDrill s1 c.slot (fun d => ocPut d c.cls (ocGet d c.cls + 1))) (.copyRetire c.slot c.cls)
/-- Check 5: a bench range holds its bytes, filled on first touch. -/
def benchRange (s : State) (slot : Nat) (super : Bool) (a n : Nat) : Except (Nat × Nat) State :=
  if n = 0 then .ok s
  else if !benchIn s slot a n then .error (cBench, a)
  else match benchPlace s slot a with
    | none => .error (cBench, a)
    | some (core, off) => match benchFills s slot super core off n with | .ok u => .ok u | .error c => .error (c, a)
/-- Checks 5 and 6 of a list of ranges, (space, bytes, store): bench ranges first. -/
def rangesOk (s : State) (slot : Nat) (d : Drill) (l : List (Space × Nat × Bool)) : Except (Nat × Nat) (State × List Trans) :=
  let s1 := l.foldl (fun (a : Except (Nat × Nat) State) r => match a, r.1 with | .ok t, .bench x => benchRange t slot d.super x r.2.1 | a, _ => a) (.ok s)
  l.foldl (fun (a : Except (Nat × Nat) (State × List Trans)) r => match a, r.1 with
    | .ok (t, ts), .virt x => (match rangeOf t (coreOf slot) d.job d.super (if r.2.2 then .store else .load) x r.2.1 with | .ok (u, us) => .ok (u, ts ++ us) | .error e => .error e)
    | a, _ => a) (match s1 with | .ok t => .ok (t, []) | .error e => .error e)
/-- The checks passed, the command waits for its place or issues. -/
def copyBody (s : State) (d : Drill) (c : CopyCmd) (l : List (Space × Nat × Bool)) : Body :=
  match rangesOk s c.slot d l with
  | .error (code, v) => .trap code (BitVec.ofNat 64 v) 0 []
  | .ok (u, ts) => if copyHeld u c.slot d c.cls then .wait .engine u else .ok (issueCopy u { c with trans := ts, job := d.job, sup := d.super, dt := d.dt }) 0 none
/-- A port that the drill's HMAP code does not grant: destination first (R323). -/
def portDenied (d : Drill) (dst src : Space) : Option Nat :=
  match dst, src with
  | .port h, _ => if hoseGrants d false false h then none else some h
  | _, .port h => if hoseGrants d false true h then none else some h
  | _, _ => none
def maxCopy : Nat := 2 ^ 30
/-- XLIN (R328). -/
def execXlin (d a b : BitVec 6) (s : State) : Host.Outcome State Fault Refusal :=
  stemWord { ins := .xlin d a b, srcs := [a, b, d] } s (fun dr v t =>
    let n := (opAt v 2).toNat
    match spaceOf (opAt v 0), spaceOf (opAt v 1) with
    | none, _ => .trap cCopy (opAt v 0) 0 []
    | _, none => .trap cCopy (opAt v 1) 0 []
    | some x, some y =>
      if isPort x && isPort y then .trap cCopy (opAt v 1) 0 []
      else if maxCopy < n ∨ ((isPort x || isPort y) ∧ n % 128 ≠ 0) then .trap cCopy (opAt v 2) 0 []
      else match portDenied dr x y with
        | some h => .trap cHose (BitVec.ofNat 64 h) 0 []
        | none => copyBody t dr { slot := t.cur, cls := 0, op := 0, dst := opAt v 0, src := opAt v 1, len := n } [(y, n, false), (x, n, true)])
/-- The descriptor of an XSTR is in its ranges (Table 18.4). -/
def descOk (w : Nat) : Bool :=
  decide (bitsOf w 112 16 = 0 ∧ bitsOf w 88 8 = 0 ∧ bitsOf w 131 61 = 0 ∧ bitsOf w 192 64 = 0 ∧ 1 ≤ bitsOf w 96 16 ∧ 1 ≤ bitsOf w 64 24)
/-- XSTR once its descriptor has been read. -/
def strBody (u : State) (dr : Drill) (a b g : Word) (x y : Space) (w : Nat) : Body :=
  let virtual := match x with | .virt _ => true | _ => false
  if !descOk w then .trap cCopy g 0 []
  else if bitOf w 130 && virtual then .trap cCopy a 0 []
  else
    let f (lo n : Nat) : Nat := bitsOf w lo n
    let shift (z : Space) (n : Nat) : Space := match z with | .virt p => .virt (p + n) | .bench p => .bench (p + n) | .port h => .port h
    let rows := below (f 96 16)
    let l := rows.map (fun i => (shift y (i * f 32 32), f 64 24, false)) ++ rows.map (fun i => (shift x (i * f 0 32), f 64 24, true))
    copyBody u dr { slot := u.cur, cls := 0, op := 1, dst := a, src := b, desc := (below 4).map (fun i => BitVec.ofNat 64 (f (64 * i) 64)) } l
/-- XSTR (R328, R329). -/
def execXstr (d a b : BitVec 6) (s : State) : Host.Outcome State Fault Refusal :=
  stemWord { ins := .xstr d a b, srcs := [a, b, d] } s (fun dr v t =>
    let da := (opAt v 2).toNat
    match spaceOf (opAt v 0), spaceOf (opAt v 1) with
    | none, _ => .trap cCopy (opAt v 0) 0 []
    | _, none => .trap cCopy (opAt v 1) 0 []
    | some x, some y =>
      if isPort x then .trap cCopy (opAt v 0) 0 []
      else if isPort y then .trap cCopy (opAt v 1) 0 []
      else if da % 32 ≠ 0 then .trap cAlign (opAt v 2) 0 []
      else match rangeOf t (coreOf t.cur) dr.job dr.super .load da 32 with
        | .error (c, e) => .trap c (BitVec.ofNat 64 e) 0 []
        | .ok (u, ts) =>
          let pa := ((viaTrans ts dr.job da).map (·.1)).getD 0
          let k (u : State) (w : Nat) : Body := strBody u dr (opAt v 0) (opAt v 1) (opAt v 2) x y w
          if tierOf pa = some 3 ∧ !poolDown u pa then remoteWord u t.cur { slot := t.cur, leaf := false, idx := 1, kind := 1, pa, size := 32 } k
          else match sourceRun u { slot := t.cur, cls := 0, op := 1, job := dr.job, dt := dr.dt, trans := ts } (.virt da) da 32 with
            | .error _ => .trap cPoison (BitVec.ofNat 64 (pa / 32 * 32)) 0 []
            | .ok (w, bad) => if bad 0 then .trap cPoison (BitVec.ofNat 64 (pa / 32 * 32)) 0 [] else k u w)
/-- XMC (R328). -/
def execXmc (d a b : BitVec 6) (s : State) : Host.Outcome State Fault Refusal :=
  stemWord { ins := .xmc d a b, srcs := [a, b, d] } s (fun dr v t =>
    let p := (opAt v 0).toNat
    let m := bitsOf p 32 16
    let o := bitsOf p 0 19
    let mask := (opAt v 2).toNat
    let src := (opAt v 1).toNat
    if bitsOf p 19 13 ≠ 0 ∨ bitsOf p 48 16 ≠ 0 ∨ m = 0 ∨ 4096 < m then .trap cCopy (opAt v 0) 0 []
    else if 2 ^ 48 ≤ mask then .trap cCopy (opAt v 2) 0 []
    else
      let cores := (below 48).filter (bitOf mask)
      match cores.find? (fun k => decide (benchSize t (48 * clusterOf t.cur + k) < o + 128 * m)) with
      | some k => .trap cBench (BitVec.ofNat 64 (k * 0x80000 + o)) 0 []
      | none =>
        if o % 128 ≠ 0 then .trap cAlign (opAt v 0) 0 []
        else if src % 128 ≠ 0 then .trap cAlign (opAt v 1) 0 []
        else copyBody t dr { slot := t.cur, cls := 3, op := 2, dst := opAt v 0, src := opAt v 1, desc := [opAt v 2] }
          (cores.map (fun k => (Space.bench (k * 0x80000 + o), 128 * m, true)) ++ [(.virt src, 128 * m, false)]))
/-- XZERO (R328). -/
def execXzero (d a : BitVec 6) (s : State) : Host.Outcome State Fault Refusal :=
  stemWord { ins := .xzero d a, srcs := [a, d] } s (fun dr v t =>
    let n := (opAt v 1).toNat
    match spaceOf (opAt v 0) with
    | none => .trap cCopy (opAt v 0) 0 []
    | some x =>
      if isPort x then .trap cCopy (opAt v 0) 0 []
      else if maxCopy < n then .trap cCopy (opAt v 1) 0 []
      else copyBody t dr { slot := t.cur, cls := 0, op := 3, dst := opAt v 0, len := n } [(x, n, true)])

/-! ## Waits on the counters (spec 18, R336) -/

/-- XWAIT. -/
def execXwait (c : BitVec 2) (n : BitVec 8) (s : State) : Host.Outcome State Fault Refusal :=
  stemWord { ins := .xwait c n } s (fun d _ t => if ocGet d c.toNat ≤ n.toNat then .ok t 0 none else .wait (.xwait c.toNat n.toNat) t)
/-- XYIELD: the target is checked before the drill parks; the woken or restored word tests the counter again. -/
def execXyield (a : BitVec 6) (c : BitVec 2) (n : BitVec 8) (s : State) : Host.Outcome State Fault Refusal :=
  stemWord { ins := .xyield a c n, srcs := [a], ctl := true } s (fun d v t =>
    if !stemTargetOk t d (opAt v 0).toNat then .trap cFetch (opAt v 0) 0 []
    else if ocGet d c.toNat ≤ n.toNat then .ok t 0 (some (opAt v 0))
    else .wait (.xyield c.toNat n.toNat ((opAt v 0).setWidth 56)) (notify t (.yielded t.cur)))
/-- XWAIT_RELEASE. -/
def execXwaitRelease (slot : Nat) (s : State) : Host.Outcome State Fault Refusal :=
  .next (onDrill s slot (fun d => match d.stemWait with | .xwait _ _ => { d with stemWait := .none } | _ => d))
/-- XYIELD_WAKE. -/
def execXyieldWake (slot : Nat) (s : State) : Host.Outcome State Fault Refusal :=
  .next (onDrill s slot (fun d => match d.stemWait with | .xyield _ _ _ => { d with stemWait := .none } | _ => d))

end Sys2Proof.Machine
end

