-- ==== Sys2Proof/Machine/LeafMem.lean ====
section
/-!
DEFINITION. Leaf words that reach memory and the bench: lane loads and stores, acquire and release, stale loads, fragments, lane atomics and the
gather command (spec 08, R158 to R169; 11, R237, R238; 15, R278; 16, R297; 18, R330, R331; 23, R388). -/
namespace Sys2Proof.Machine

/-! ## Addresses and checks (spec 03, R68; 08, R159) -/

/-- EA of lane l: s_a + X + SignExt(imm32[27:0]) modulo 2^64. -/
def laneEa (w : LeafWord) (v : List Opd) (l : Nat) : Nat :=
  let x : Word := match opd v 1 with | .vec lo _ => wordOf (signOf 32 (lane lo l)) | .sca y => y | .nothing => 0
  (scaOf (opd v 0) + x + wordOf (signOf 28 w.imm.toNat)).toNat
/-- A lane with the physical place and translation of its element. -/
structure LanePlace where
  l : Nat
  pa : Nat
  t : Trans
  deriving DecidableEq, Repr
/-- What the checks of R159 answer. -/
inductive LaneCheck where
  | ok (ps : List LanePlace)
  | stop (b : LeafBody)
/-- The lanes with the lowest-ranked of several failures, each with its cause code; R309 ranks them as their codes rise. -/
def worstLanes (bad : List (Nat × Nat)) : Nat × List Nat :=
  let c := bad.foldl (fun a x => min a x.2) (bad.headD (0, 0)).2
  (c, (bad.filter (fun x => decide (x.2 = c))).map (·.1))
/-- The checks of the active lanes for accesses of n bytes. -/
def laneCheck (s : State) (d : Drill) (k : Kind) (ea : Nat → Nat) (lanes : List Nat) (n : Nat) : LaneCheck :=
  let far := lanes.filter (fun l => decide (2 ^ 56 ≤ ea l))
  let odd := lanes.filter (fun l => decide (ea l % n ≠ 0))
  if !far.isEmpty then .stop (laneFault cTranslation ea far)
  else if !odd.isEmpty then .stop (laneFault cAlign ea odd)
  else
    let trs := lanes.map (fun l => (l, translate s s.cur d k true (ea l)))
    let missing := trs.filter (fun x => match x.2 with | .miss => true | _ => false)
    if !missing.isEmpty then .stop (.wait .walk (missing.foldl (fun t x => askWalk t s.cur d k (ea x.1)) s))
    else
      let bad := trs.filterMap (fun x => match x.2 with | .fault c => some (x.1, c) | _ => none)
      if !bad.isEmpty then (let r := worstLanes bad; .stop (laneFault r.1 ea r.2))
      else .ok (trs.filterMap (fun x => match x.2 with | .hit pa t => some { l := x.1, pa, t } | _ => none))

/-! ## Lanes on their way (spec 12, R252; 29, R452) -/

/-- The lanes that go neither to the hub window nor to pool memory. -/
def tileLanes (ps : List LanePlace) : List LanePlace := ps.filter (fun p => !inHubWindow p.pa && decide (tierOf p.pa ≠ some 3))
def poolLanes (ps : List LanePlace) : List LanePlace := ps.filter (fun p => decide (tierOf p.pa = some 3))
/-- The pages of lanes claimed for the cluster; the class of each tile, or the wait. -/
def claimLanes (s : State) (slot : Nat) (store : Bool) (ps : List LanePlace) : State × Tab Bool × Option Wait :=
  ps.foldl (fun (a : State × Tab Bool × Option Wait) p =>
    match placeOf a.1 slot p.pa p.t store with
    | .wait w u => (u, a.2.1, some w)
    | .at u _ shr => (u, tabPut a.2.1 (p.pa / 2048) shr, a.2.2)) (s, [], none)
/-- The class of a tile. -/
def tileShared (c : Tab Bool) (tile : Nat) : Bool := tabGet false c tile
/-- The elements of lanes, one each, by an action per lane. -/
def laneEls (ps : List LanePlace) (n : Nat) (act : Nat → Act) : List El := ps.map (fun p => { idx := p.l, pa := p.pa, n, act := act p.l })
/-- Remote accesses of lanes are sent once each, in ascending order; one whose bytes a lower lane still awaits is held back. -/
def sendLanes (s : State) (slot : Nat) (rs : List Remote) : State :=
  rs.foldl (fun t r =>
    if (remoteOf t slot true r.idx).isSome then t
    else if rs.any (fun q => decide (q.idx < r.idx ∧ q.pa < r.pa + r.size ∧ r.pa < q.pa + q.size) && (match remoteOf t slot true q.idx with | some (_, x) => x.answer.isNone | none => true)) then t
    else sendRemote t r) s
/-- The answer of a lane's remote access. -/
def laneAnswer (s : State) (slot l : Nat) : Option (Nat × Bool) := match remoteOf s slot true l with | some (_, r) => r.answer | none => none
/-- Some lane still waits for its answer. -/
def lanesOut (s : State) (slot : Nat) (rs : List Remote) : Bool := rs.any (fun r => (laneAnswer s slot r.idx).isNone)
/-- The answers of lanes are used up. -/
def dropLaneRemotes (s : State) (slot : Nat) (rs : List Remote) : State :=
  rs.foldl (fun t r => match remoteOf t slot true r.idx with | some (id, _) => dropRemote t id | none => t) s

/-! ## Loads (spec 08, R158; 15, R278; 16, R297) -/

/-- The values of a load's lanes, and the poisoned sector of each, once all are there. -/
def laneValues (s : State) (slot : Nat) (d : Drill) (ps : List LanePlace) : List (Nat × Nat × Option Nat) :=
  ps.map (fun p =>
    if inHubWindow p.pa then (p.l, 0, none)
    else match laneAnswer s slot p.l with
      | some (v, bad) => (p.l, v, if bad then some (p.pa / 32 * 32) else none)
      | none => if tierOf p.pa = some 3 then (p.l, 0, some (p.pa / 32 * 32)) else let g := gotOf d true p.l; (p.l, g.1, g.2))
/-- The poison fault of lanes (spec 23, R388; Table 23.1). -/
def poisonLanes (vals : List (Nat × Nat × Option Nat)) : List (Nat × Nat) := vals.filterMap (fun x => match x.2.2 with | some a => some (x.1, a) | none => none)
/-- A load of the active lanes: `acq` is an acquire of die scope or wider, `stale` a VLDC. -/
def leafLoad (w : LeafWord) (byMod acq stale : Bool) (s : State) (d : Drill) (m : LaneMask) (v : List Opd) : LeafBody :=
  let slot := s.cur
  let ty := w.ty.toNat
  let n := typeBits ty / 8
  let ea := laneEa w v
  let dt := if acq then d.dt + 1 else d.dt
  match laneCheck s d .load ea (lanesOf m) n with
  | .stop b => b
  | .ok ps =>
    let (s1, cls, w1) := claimLanes s slot false (tileLanes ps)
    match w1 with
    | some x => .wait x s1
    | none =>
      let rs : List Remote := ((poolLanes ps).filter (fun p => !poolDown s1 p.pa)).map (fun p => { slot, leaf := true, idx := p.l, kind := 1, pa := p.pa, size := n })
      let s2 := sendLanes s1 slot rs
      let els := laneEls (tileLanes ps) n (fun _ => .load)
      let (plan, full) := if stale then stalePlan s2 slot d true els (tileShared cls) else ([], false)
      let noteFull (u : State) : State := if full then onDrill u slot (fun e => { e with ovf := true }) else u
      match accessWord s2 slot true byMod dt els (tileShared cls) plan with
      | (s3, some x) => .wait x (noteFull s3)
      | (s3, none) =>
        if lanesOut s3 slot rs then .wait (.atomic 0) (noteFull s3)
        else
          match drillAt s3 slot with
          | none => .ok s3 [] 0 nextWord
          | some e =>
            let vals := laneValues s3 slot e ps
            let bad := poisonLanes vals
            let s4 := dropLaneRemotes s3 slot rs
            if !bad.isEmpty then
              .trapIn s4 cPoison (BitVec.ofNat 64 (bad.headD (0, 0)).2) (maskOf (fun l => bad.any (fun x => decide (x.1 = l)))) (bad.map (fun x => (x.1, BitVec.ofNat 64 (ea x.1))))
            else
              let wts := gotWts e true
              let s5 := raiseL (if acq then onDrill s4 slot (fun x => { x with dt := max (max x.dt dt) wts }) else s4) slot wts
              let s6 := makeEntries (noteFull s5) slot d true (gotEnts e true)
              .ok s6 (vecWrites ty w.vd.toNat m ((below 32).map (fun l => ((vals.find? (fun x => decide (x.1 = l))).map (fun x => x.2.1)).getD 0))) 0 nextWord
/-- VLD. -/
def execVld (w : LeafWord) (s : State) : Host.Outcome State Fault Refusal := leafWord { op := 0x200, w } s (fun d m v t => leafLoad w (bitOf w.md.toNat 5) false false t d m v)
/-- VLDA. -/
def execVlda (w : LeafWord) (s : State) : Host.Outcome State Fault Refusal := leafWord { op := 0x206, w } s (fun d m v t => leafLoad w false (decide (3 ≤ w.md.toNat / 4)) false t d m v)
/-- VLDC. -/
def execVldc (w : LeafWord) (s : State) : Host.Outcome State Fault Refusal := leafWord { op := 0x208, w } s (fun d m v t => leafLoad w false false true t d m v)

/-! ## Stores -/

/-- A store of the active lanes with the DT it carries. -/
def leafStore (w : LeafWord) (byMod : Bool) (dt : Nat) (s : State) (d : Drill) (ps : List LanePlace) (v : List Opd) : LeafBody :=
  let slot := s.cur
  let b := typeBits w.ty.toNat
  let n := b / 8
  let x := elem b (opd v 3)
  let (s1, cls, w1) := claimLanes s slot true (tileLanes ps)
  match w1 with
  | some y => .wait y s1
  | none =>
    match accessWord s1 slot true byMod dt (laneEls (tileLanes ps) n (fun l => .store (x l))) (tileShared cls) [] with
    | (s2, some y) => .wait y s2
    | (s2, none) =>
      let s3 := ((poolLanes ps).filter (fun p => !poolDown s2 p.pa)).foldl (fun u p => sendRemote u { slot, leaf := true, idx := p.l, kind := 2, pa := p.pa, size := n, arg := x p.l, dt := d.dt }) s2
      .ok (onDrill s3 slot (fun e => { e with dt := max e.dt dt })) [] 0 nextWord
/-- VST. -/
def execVst (w : LeafWord) (s : State) : Host.Outcome State Fault Refusal :=
  leafWord { op := 0x201, w } s (fun d m v t =>
    match laneCheck t d .store (laneEa w v) (lanesOf m) (typeBits w.ty.toNat / 8) with
    | .stop b => b
    | .ok ps => leafStore w (bitOf w.md.toNat 5) d.dt t d ps v)
/-- VSTL: the checks, the waits of the release, DT, the stores (spec 15, R278). -/
def execVstl (w : LeafWord) (s : State) : Host.Outcome State Fault Refusal :=
  leafWord { op := 0x207, w, release := true } s (fun d m v t =>
    let scope := w.md.toNat / 4
    match laneCheck t d .store (laneEa w v) (lanesOf m) (typeBits w.ty.toNat / 8) with
    | .stop b => b
    | .ok ps => if !begun d true && releaseWait t t.cur scope then .wait .stores t else leafStore w false (releaseDt d scope) t d ps v)

/-! ## The bench (spec 08, R164) -/

/-- The checks of a bench word's lanes: range, alignment, first-touch fills. -/
def benchCheck (s : State) (d : Drill) (ea : Nat → Nat) (lanes : List Nat) (n : Nat) (k : State → LeafBody) : LeafBody :=
  let out := lanes.filter (fun l => (benchPlace s s.cur (ea l)).isNone)
  let odd := lanes.filter (fun l => decide (ea l % n ≠ 0))
  if !out.isEmpty then laneFault cBench ea out
  else if !odd.isEmpty then laneFault cAlign ea odd
  else
    let fill (l : Nat) (u : State) : Except Nat State := match benchPlace s s.cur (ea l) with | some (core, off) => benchFills u s.cur d.super core off n | none => .ok u
    let bad := lanes.filterMap (fun l => match fill l s with | .error c => some (l, c) | .ok _ => none)
    if !bad.isEmpty then (let r := worstLanes bad; laneFault r.1 ea r.2)
    else k (lanes.foldl (fun u l => match fill l u with | .ok t => t | .error _ => u) s)
/-- The address by which a poisoned bench sector is reported. -/
def benchSector (core sec : Nat) : Nat := core % 48 * 0x80000 + sec * 32
/-- VLDB. -/
def execVldb (w : LeafWord) (s : State) : Host.Outcome State Fault Refusal :=
  leafWord { op := 0x202, w } s (fun d m v t =>
    let ty := w.ty.toNat
    let n := typeBits ty / 8
    let ea := laneEa w v
    benchCheck t d ea (lanesOf m) n (fun u =>
      let bad := (lanesOf m).filterMap (fun l => match benchPlace u u.cur (ea l) with | some (core, off) => (benchPoison u core off n).map (fun sec => (l, benchSector core sec)) | none => none)
      if !bad.isEmpty then .trap cPoison (BitVec.ofNat 64 (bad.headD (0, 0)).2) (maskOf (fun l => bad.any (fun x => decide (x.1 = l)))) (bad.map (fun x => (x.1, BitVec.ofNat 64 (ea x.1))))
      else laneOut u w ty m (fun l => (match benchPlace u u.cur (ea l) with | some (core, off) => benchRead u core off n | none => 0, 0))))
/-- VSTB: of lanes that write one byte, the highest stands. -/
def execVstb (w : LeafWord) (s : State) : Host.Outcome State Fault Refusal :=
  leafWord { op := 0x203, w } s (fun d m v t =>
    let b := typeBits w.ty.toNat
    let ea := laneEa w v
    benchCheck t d ea (lanesOf m) (b / 8) (fun u =>
      .ok ((lanesOf m).foldl (fun x l => match benchPlace x x.cur (ea l) with | some (core, off) => benchWrite x core off (b / 8) (elem b (opd v 3) l) | none => x) u) [] 0 nextWord))

/-! ## Fragments (spec 08, R165 to R169) -/

/-- Bench bytes of a layout (Table 8.3). -/
def layoutBytes (code : Nat) : Nat := if code = 1 then 4096 else if code < 8 then 2048 else 1024
/-- P(j, l) of a layout (Table 8.3). -/
def layoutAt (code j l : Nat) : Nat :=
  if code = 1 then 128 * l + 4 * j
  else if code = 2 then 32 * (l + 32 * (j / 8)) + 4 * (j % 8)
  else if code < 8 then 64 * l + 4 * j
  else if code < 10 then 32 * l + 4 * j
  else 64 * (l % 16) + 32 * (l / 16) + 4 * j
/-- EA of a fragment word. -/
def fragEa (w : LeafWord) (v : List Opd) : Nat := (scaOf (opd v 0) + scaOf (opd v 1) + wordOf (signOf 24 w.imm.toNat)).toNat
/-- The bench tiles of a panel, by core and tile number. -/
def panelTiles (s : State) (ea n : Nat) : List (Nat × Nat) :=
  (upFrom (ea / 2048) ((ea + n - 1) / 2048 + 1 - ea / 2048)).filterMap (fun k => (benchPlace s s.cur (2048 * k)).map (fun p => (p.1, p.2 / 2048)))
/-- The checks of R169. -/
def fragCheck (s : State) (d : Drill) (w : LeafWord) (ea : Nat) (load : Bool) (k : State → LeafBody) : LeafBody :=
  let code := w.imm.toNat / 2 ^ 26
  let n := layoutBytes code
  let tv : Word := BitVec.ofNat 64 ea
  if !benchIn s s.cur ea n then .trap cBench tv 0 []
  else if ea % n ≠ 0 then .trap cAlign tv 0 []
  else match benchPlace s s.cur ea with
    | none => .trap cBench tv 0 []
    | some (core, off) =>
      match benchFills s s.cur d.super core off n with
      | .error c => .trap c tv 0 []
      | .ok u =>
        match (panelTiles u ea n).find? (fun p => load && decide (tabGet 0 (coreAt u p.1).tags p.2 ≠ bitsOf w.imm.toNat 24 2)) with
        | some p => .trap cSwizzle (BitVec.ofNat 64 (ea / 2048 * 2048 + (p.2 - off / 2048) * 2048)) 0 []
        | none => k u
/-- The core and offset of word (j, l) of a panel. -/
def fragPlace (s : State) (w : LeafWord) (ea j l : Nat) : Nat × Nat :=
  (benchPlace s s.cur (physOf (ea + layoutAt (w.imm.toNat / 2 ^ 26) j l) (bitsOf w.imm.toNat 24 2))).getD (0, 0)
/-- VLDF: every lane of the group is written. -/
def execVldf (w : LeafWord) (s : State) : Host.Outcome State Fault Refusal :=
  leafWord { op := 0x204, w } s (fun d _ v t =>
    let ea := fragEa w v
    let g := layoutRegs (w.imm.toNat / 2 ^ 26)
    fragCheck t d w ea true (fun u =>
      let n := layoutBytes (w.imm.toNat / 2 ^ 26)
      match benchPlace u u.cur ea with
      | none => .ok u [] 0 nextWord
      | some (core, off) =>
        match benchPoison u core off n with
        | some sec => .trap cPoison (BitVec.ofNat 64 (benchSector core sec)) 0 []
        | none => .ok u ((below g).map (fun j => .vec (w.vd.toNat + j) (BitVec.allOnes 32) (vecOfLanes (fun l => let p := fragPlace u w ea j l; benchRead u p.1 p.2 4)))) 0 nextWord))
/-- VSTF: the group is written, and then the tag of each tile (R168). -/
def execVstf (w : LeafWord) (s : State) : Host.Outcome State Fault Refusal :=
  leafWord { op := 0x205, w } s (fun d _ v t =>
    let ea := fragEa w v
    let g := layoutRegs (w.imm.toNat / 2 ^ 26)
    fragCheck t d w ea false (fun u =>
      let words := (below g).flatMap (fun j => (below 32).map (fun l => (j, l)))
      let u1 := words.foldl (fun x q => let p := fragPlace x w ea q.1 q.2; benchWrite x p.1 p.2 4 (lane (vRead d (leafCtx d).run (w.vd.toNat + q.1)) q.2)) u
      .ok ((panelTiles u1 ea (layoutBytes (w.imm.toNat / 2 ^ 26))).foldl (fun x p => onCore x p.1 (fun c => { c with tags := tabSet 0 c.tags p.2 (bitsOf w.imm.toNat 24 2) })) u1) [] 0 nextWord))

/-! ## Lane atomics (spec 11, R237, R238) -/

/-- The word is over: the running split passes a switch point (spec 09, R181). -/
def passSwitch (d : Drill) : Drill := onLeaf (nextWord d) switchPoint
/-- VAMO and VCAS: op by Table 11.10, 9 for CAS; operand and expected value by lane. -/
def laneAmo (w : LeafWord) (op : Nat) (arg cmp : Nat → Nat) (s : State) (d : Drill) (m : LaneMask) (v : List Opd) : LeafBody :=
  let slot := s.cur
  let ty := w.ty.toNat
  let n := typeBits ty / 8
  let scope := w.md.toNat / 4
  let ea := laneEa w v
  match laneCheck s d .store ea (lanesOf m) n with
  | .stop b => b
  | .ok ps =>
    let denied := if op ≠ 0 ∧ op ≠ 8 ∧ op ≠ 9 then (poolLanes ps).map (·.l) else []
    if !denied.isEmpty then laneFault cPermission ea denied
    else if !begun d true && !s.remotes.any (fun r => decide (r.2.slot = slot ∧ r.2.leaf = true ∧ r.2.kind = 0)) && replayHolds s slot then .wait .replay s
    else
      let (s1, cls, w1) := claimLanes s slot true (tileLanes ps)
      match w1 with
      | some x => .wait x s1
      | none =>
        let far (p : LanePlace) : Bool := tileShared cls (p.pa / 2048) && decide (3 ≤ scope)
        let beyond := (tileLanes ps).filter far
        let near := (tileLanes ps).filter (fun p => !far p)
        if beyond.any (fun p => (remoteOf s1 slot true p.l).isNone && lineStoresOut s1 slot (p.pa / 128)) then .wait .stores s1
        else
          let hubOf (p : LanePlace) : Nat := if scope = 3 then dieOf slot else homeOf s1 p.pa
          let rs : List Remote := (beyond.map (fun p => ({ slot, leaf := true, idx := p.l, kind := 0, op, pa := p.pa, size := n, arg := arg p.l, cmp := cmp p.l, hub := hubOf p, dt := if hubOf p = dieOf slot then d.dt else 0 } : Remote)))
            ++ (((poolLanes ps).filter (fun p => !poolDown s1 p.pa)).map (fun p => ({ slot, leaf := true, idx := p.l, kind := 0, op, pa := p.pa, size := n, arg := arg p.l, cmp := cmp p.l } : Remote)))
          let s2 := sendLanes s1 slot rs
          match accessWord s2 slot true false d.dt (laneEls near n (fun l => .amo op (arg l) (cmp l))) (tileShared cls) [] with
          | (s3, some x) => .wait x s3
          | (s3, none) =>
            if lanesOut s3 slot rs then .wait (.atomic 0) s3
            else
              match drillAt s3 slot with
              | none => .ok s3 [] 0 passSwitch
              | some e =>
                let vals := laneValues s3 slot e ps
                let bad := poisonLanes vals
                let s4 := raiseL (dropLaneRemotes s3 slot rs) slot (gotWts e true)
                let good := vals.filter (fun x => x.2.2.isNone)
                let done := good.foldl (fun (a : State × Tab Nat) x => let r := event a.1 slot 1 (toScalar ty x.2.1).toNat (fun _ => true); (r.1, tabPut a.2 x.1 (r.2 % 2 ^ (8 * n)))) (s4, [])
                let ws := vecWrites ty w.vd.toNat (m &&& maskOf (fun l => good.any (fun x => decide (x.1 = l)))) ((below 32).map (fun l => tabGet 0 done.2 l))
                if bad.isEmpty then .ok done.1 ws 0 passSwitch
                else .okTrap done.1 ws passSwitch cPoison (BitVec.ofNat 64 (bad.headD (0, 0)).2) (maskOf (fun l => bad.any (fun x => decide (x.1 = l)))) (bad.map (fun x => (x.1, BitVec.ofNat 64 (ea x.1))))
/-- VAMO. -/
def execVamo (w : LeafWord) (s : State) : Host.Outcome State Fault Refusal :=
  leafWord { op := 0x209, w } s (fun d m v t => laneAmo w (w.imm.toNat / 2 ^ 28) (elem (typeBits w.ty.toNat) (opd v 2)) (fun _ => 0) t d m v)
/-- VCAS: vd holds the expected values. -/
def execVcas (w : LeafWord) (s : State) : Host.Outcome State Fault Refusal :=
  leafWord { op := 0x20A, w } s (fun d m v t => laneAmo w 9 (elem (typeBits w.ty.toNat) (opd v 2)) (elem (typeBits w.ty.toNat) (opd v 3)) t d m v)

/-! ## XIDX (spec 18, R330, R331) -/

/-- The translations of the active lanes' source blocks, or the failing lanes. -/
def gatherRanges (s : State) (d : Drill) (src : Nat → Nat) (n : Nat) (lanes : List Nat) : Except (Nat × List Nat) (State × List Trans) :=
  let bad := lanes.filterMap (fun l => match rangeOf s (coreOf s.cur) d.job d.super .load (src l) n with | .error e => some (l, e.1) | .ok _ => none)
  if !bad.isEmpty then .error (worstLanes bad)
  else .ok (lanes.foldl (fun (a : State × List Trans) l => match rangeOf a.1 (coreOf s.cur) d.job d.super .load (src l) n with | .ok (u, ts) => (u, a.2 ++ ts) | .error _ => a) (s, []))
/-- XIDX: the checks, the wait for a place, and the command. -/
def execXidx (w : LeafWord) (s : State) : Host.Outcome State Fault Refusal :=
  leafWord { op := 0x20B, w } s (fun d m v t =>
    let slot := t.cur
    let key := bitOf w.imm.toNat 31
    let b := 2 ^ bitsOf w.imm.toNat 16 4
    let dst := (scaOf (opd v 0)).toNat
    let c := (scaOf (opd v 2)).toNat
    let c1 := sRead d (leafCtx d).run (w.vc.toNat + 1)
    let lanes := lanesOf m
    let idx (l : Nat) : Nat := elem 32 (opd v 1) l
    let row (l : Nat) : Nat := dst + l * b
    let src (l : Nat) : Nat := if key then c else c + idx l * b
    let out := lanes.filter (fun l => !benchIn t slot (row l) b)
    let past := lanes.filter (fun l => decide (c1.toNat ≤ idx l))
    if !out.isEmpty then laneFault cBench row out
    else if !lanes.isEmpty ∧ dst % min b 2048 ≠ 0 then laneFault cAlign row lanes
    else if !lanes.isEmpty ∧ c % (if key then 64 else 128) ≠ 0 then laneFault cAlign src lanes
    else if !key ∧ !past.isEmpty then .trap cIndex (BitVec.ofNat 64 (idx (past.headD 0))) (maskOf (fun l => decide (l ∈ past))) (past.map (fun l => (l, BitVec.ofNat 64 (src l))))
    else
      let fill (l : Nat) (u : State) : Except (Nat × Nat) State := benchRange u slot d.super (row l) b
      let unfilled := lanes.filterMap (fun l => match fill l t with | .error e => some (l, e.1) | .ok _ => none)
      if !unfilled.isEmpty then (let r := worstLanes unfilled; laneFault r.1 row r.2)
      else
        let u := lanes.foldl (fun u l => match fill l u with | .ok x => x | .error _ => u) t
        match gatherRanges u d src (if key then 64 else b) lanes with
        | .error r => laneFault r.1 src r.2
        | .ok (u1, ts) =>
          if copyHeld u1 slot d 1 then .wait .engine u1
          else
            let cmd : CopyCmd := { slot, cls := 1, op := if key then 5 else 4, dst := BitVec.ofNat 64 dst, src := BitVec.ofNat 64 c, lanes := m, idx := vecOf (opd v 1), blk := b, seqLayer := c1, job := d.job, sup := d.super, dt := d.dt, trans := ts }
            .ok (issueCopy u1 cmd) [] 0 nextWord)

end Sys2Proof.Machine
end

