-- ==== Sys2Proof/Machine/Matrix.lean ====
section
/-!
DEFINITION. The matrix engines: issue checks, acceptance, and the operations on tiles as they are performed at retirement (spec 19, R337 to R358; 05,
R103 to R105, R108). -/
namespace Sys2Proof.Machine

/-! ## Tiles (R338) -/

/-- Word i of tile t of a core. -/
def tileGet (s : State) (core t i : Nat) : Nat := (tabGet 0 (tabGet [] (coreAt s core).tiles t) i).toNat
/-- Words lo to lo + n − 1 of a tile replaced. -/
def tilePut (s : State) (core t lo : Nat) (xs : List Nat) : State :=
  onCore s core (fun c =>
    let old := tabGet [] c.tiles t
    let new := (below 1024).filterMap (fun i =>
      let x : BitVec 32 := if lo ≤ i ∧ i < lo + xs.length then BitVec.ofNat 32 (xs.getD (i - lo) 0) else tabGet 0 old i
      if x = 0 then none else some (i, x))
    { c with tiles := tabSet [] c.tiles t new })
/-- Element e of a tile's 32-bit view, or of half h of its FP64 view, as its bits. -/
def tileElem (s : State) (core t : Nat) (f64 : Bool) (h e : Nat) : Nat :=
  if f64 then tileGet s core t (512 * h + 2 * e) + tileGet s core t (512 * h + 2 * e + 1) * 2 ^ 32 else tileGet s core t e
/-- The elements of a view written. -/
def tileElemsPut (s : State) (core t : Nat) (f64 : Bool) (h : Nat) (xs : List Nat) : State :=
  if f64 then tilePut s core t (512 * h) (xs.flatMap (fun x => [x % 2 ^ 32, x / 2 ^ 32])) else tilePut s core t 0 xs

/-! ## Issue (R342, R343, R345) -/

/-- Operations of a core's matrix queue. -/
def matRoom (s : State) (core : Nat) : Bool := decide ((coreAt s core).mq.length < 32)
/-- The word stalls: queue, counter, throttle level 3 (R342; spec 01, R27; 31, R466). -/
def matHeld (s : State) (d : Drill) (twin : Bool) : Bool :=
  let core := coreOf s.cur
  !matRoom s core || (twin && !matRoom s (core + 1)) || decide (255 ≤ ocGet d 2 ∨ (dieAt s (dieOf s.cur)).level = 3)
/-- The operation is accepted: at the core's queue, and for a .twin word at the follower's, and counted. -/
def matAccept (s : State) (m : MatOp) (twin : Bool) : State :=
  let core := coreOf m.slot
  let s1 := onCore s core (fun c => { c with mq := c.mq ++ [m] })
  let s2 := if twin then onCore s1 (core + 1) (fun c => { c with mq := c.mq ++ [{ m with twinHalf := true }] }) else s1
  post (onDrill s2 m.slot (fun d => ocPut d 2 (ocGet d 2 + 1))) (.matrixRetire core)
/-- The registers of a group as the running split reads them. -/
def groupRead (d : Drill) (first n : Nat) : List Vec := (below n).map (fun j => vRead d (leafCtx d).run (first + j))
/-- The twin-span fault of R349. -/
def twinBad (s : State) (d : Drill) : Bool :=
  let core := coreOf s.cur
  !d.twin || decide (core % 2 = 1) || s.drills.any (fun e => decide (coreOf e.1 = core + 1 ∧ e.2.job ≠ d.job))
/-- An operation of a word with the fields that every operation carries. -/
def matOf (s : State) (d : Drill) (op : Nat) (w : LeafWord) : MatOp :=
  { op, slot := s.cur, word := w, rm := modeOf w.rnd.toNat (leafCtx d).fmode.toNat, dt := d.dt, job := d.job, sup := d.super }
/-- A bench range of an engine operation: range fault, then first-touch fills. -/
def engineBench (s : State) (d : Drill) (a n : Nat) (k : State → LeafBody) : LeafBody :=
  match benchRange s s.cur d.super a n with
  | .error (c, v) => .trap c (BitVec.ofNat 64 v) 0 []
  | .ok u => k u
/-- Checks 4 and 5 of R342 and acceptance. `fblk` and `addr` are used where they are some; `bench` gives the bytes of a bench operand; `align` is
the alignment of the address operand. -/
def matIssue (s : State) (d : Drill) (m : MatOp) (fblk addr : Option Word) (bench align : Nat) (bar : Word) (twin : Bool) : LeafBody :=
  let named := decide (m.word.imm.toNat % 32 ≠ 0)
  let f := fblk.getD 0
  let a := addr.getD 0
  if twin && twinBad s d then .trap cTwin 0 0 []
  else if f.toNat % 64 ≠ 0 then .trap cAlign f 0 []
  else if a.toNat % align ≠ 0 then .trap cAlign a 0 []
  else if named && decide (bar.toNat % 8 ≠ 0) then .trap cAlign bar 0 []
  else
    engineBench s d a.toNat bench (fun u => engineBench u d bar.toNat (if named then 8 else 0) (fun u1 =>
      if matHeld u1 d twin then .wait .engine u1
      else .ok (matAccept u1 { m with addr := a, fblk := f, bar := bar } twin) [] 0 nextWord))

/-- MSSA (R351). -/
def execMssa (w : LeafWord) (s : State) : Host.Outcome State Fault Refusal :=
  leafWord { op := 0x300, w } s (fun d _ v t =>
    let twin := bitOf w.imm.toNat 31
    let m := { matOf t d 0x300 w with groupA := groupRead d w.va.toNat 32, groupB := groupRead d w.vb.toNat (if twin then 32 else 16) }
    matIssue t d m (some (scaOf (opd v 2))) none 0 1 (scaOf (opd v 4)) twin)
/-- MDOT (R352). -/
def execMdot (w : LeafWord) (s : State) : Host.Outcome State Fault Refusal :=
  leafWord { op := 0x301, w } s (fun d _ v t =>
    let twin := bitOf w.imm.toNat 31
    let g := dotRegs w.ty.toNat
    let m := { matOf t d 0x301 w with groupA := groupRead d w.va.toNat g, groupB := groupRead d w.vb.toNat (if twin then 2 * g else g) }
    matIssue t d m (some (scaOf (opd v 2))) none 0 1 (scaOf (opd v 4)) twin)
/-- MZERO (R353). -/
def execMzero (w : LeafWord) (s : State) : Host.Outcome State Fault Refusal :=
  leafWord { op := 0x302, w } s (fun d _ _ t => matIssue t d (matOf t d 0x302 w) none none 0 1 0 false)
/-- Bytes that MLOAD moves. -/
def loadBytes (ty : Nat) : Nat := if ty = 12 then 2048 else 4096
/-- MLOAD (R354). -/
def execMload (w : LeafWord) (s : State) : Host.Outcome State Fault Refusal :=
  leafWord { op := 0x303, w } s (fun d _ v t =>
    matIssue t d (matOf t d 0x303 w) none (some (scaOf (opd v 0))) (if bitOf w.md.toNat 2 then loadBytes w.ty.toNat else 0) 32 (scaOf (opd v 4)) false)
/-- Size of a drained element (Table 19.4). -/
def drainSize (ty : Nat) : Nat := if ty = 14 then 1 else typeBits ty / 8
/-- Output bytes of a drain. -/
def drainBytes (ty : Nat) : Nat := if ty = 12 then 2048 else 1024 * drainSize ty
/-- MDRAIN (R355). -/
def execMdrain (w : LeafWord) (s : State) : Host.Outcome State Fault Refusal :=
  leafWord { op := 0x304, w } s (fun d _ v t =>
    let n := drainBytes w.ty.toNat
    matIssue t d (matOf t d 0x304 w) (if bitOf w.md.toNat 4 then some (scaOf (opd v 2)) else none) (some (scaOf (opd v 0)))
      (if bitOf w.md.toNat 2 then n else 0) (if bitOf w.md.toNat 3 then n else 32) (scaOf (opd v 4)) false)

/-! ## What an operation reads (R346) -/

/-- What performing an operation answers: its state and flags, an error's FC, the pool line that has to come first, or that it cannot go on
yet. -/
inductive MatOut where
  | done (s : State) (flags : Nat)
  | fail (fc : Nat)
  /-- An error that leaves this state. -/
  | failIn (s : State) (fc : Nat)
  | need (line : Nat)
  | hold
/-- The engine access of an operation, in the form of a command of class matrix. -/
def matCmd (m : MatOp) : CopyCmd := { slot := m.slot, cls := 2, op := 0, job := m.job, sup := m.sup, dt := m.dt, pool := m.pool }
/-- n bytes of memory, and then what is done with them. -/
def matRead (s : State) (m : MatOp) (va n : Nat) (k : State → Nat → MatOut) : MatOut :=
  match kvRead s (matCmd m) va n with
  | .fault fc => .fail fc
  | .pool line => .need line
  | .ok u x bad _ => if bad then .fail 4 else k u x
/-- n bytes of the bench. -/
def matBenchRead (s : State) (m : MatOp) (a n : Nat) (k : State → Nat → MatOut) : MatOut :=
  match benchRange s m.slot m.sup a n with
  | .error (c, _) => .fail (if c = cBench then 2 else fcOf c)
  | .ok u => match benchPlace u m.slot a with
    | none => .fail 2
    | some (core, off) => if (benchPoison u core off n).isSome then .fail 4 else k u (benchRead u core off n)
/-- An operand descriptor of a format block (Table 19.2). -/
structure FDesc where
  addr : Nat
  pitch : Nat
  bench : Bool
  blk : Nat
  fmt : Nat
  deriving DecidableEq, Repr
/-- Descriptor i of a block: 0 A, 1 B, 2 O. -/
def descOf (b i : Nat) : FDesc :=
  let o := 128 * i
  { addr := bitsOf b o 56, pitch := bitsOf b (o + 96) 32, bench := bitOf b (o + 79), blk := bitsOf b (o + 72) 2, fmt := bitsOf b (o + 64) 5 }
/-- Every reserved bit of a block is 0 (R341). -/
def blockClean (b : Nat) : Bool :=
  (below 3).all (fun i => let o := 128 * i; decide (bitsOf b (o + 56) 8 = 0 ∧ bitsOf b (o + 80) 16 = 0 ∧ bitsOf b (o + 74) 5 = 0 ∧ bitsOf b (o + 69) 3 = 0)) && decide (bitsOf b 384 128 = 0)
/-- A bench scale array's address fits. -/
def descAddrOk (d : FDesc) : Bool := !d.bench || decide (d.addr < 2 ^ 25)
/-- The rules of R341 for the descriptors an operation uses. -/
def blockOk (op ty b : Nat) : Bool :=
  let a := descOf b 0
  let w := descOf b 1
  let o := descOf b 2
  blockClean b &&
    (if op = 0x300 then descAddrOk a && descAddrOk w && (decide (a.fmt = 1 ∧ a.blk = 0) || decide (a.fmt = 14 ∧ a.blk ≠ 0)) && decide (w.fmt = 13)
    else if op = 0x301 then descAddrOk a && descAddrOk w && decide (a.fmt = ty ∧ a.blk = 0 ∧ w.fmt = ty ∧ w.blk = 0)
    else descAddrOk o && decide (o.fmt = 14 ∧ o.blk = 1))
/-- The format block of an operation, read and checked. -/
def matBlock (s : State) (m : MatOp) (k : State → Nat → MatOut) : MatOut :=
  matRead s m m.fblk.toNat 64 (fun u b => if blockOk m.op m.word.ty.toNat b then k u b else .fail 5)
/-- Scales per row of 128 elements, and elements per scale. -/
def scalesPerRow (d : FDesc) : Nat := if d.blk = 0 then 0 else 128 / 2 ^ (4 + d.blk)
def blockElems (d : FDesc) : Nat := if d.blk = 0 then 128 else 2 ^ (4 + d.blk)
/-- The scales of rows r to r + n − 1 of a descriptor, one number of scale bytes per row, and then what is done with them. -/
def scaleRows (s : State) (m : MatOp) (d : FDesc) (r n : Nat) (acc : List Nat) (k : State → List Nat → MatOut) : MatOut :=
  match n with
  | 0 => k s acc
  | j + 1 =>
    let c := scalesPerRow d
    if c = 0 then scaleRows s m d (r + 1) j (acc ++ [127]) k
    else
      let a := d.addr + r * d.pitch
      if d.bench then matBenchRead s m a c (fun u x => scaleRows u m d (r + 1) j (acc ++ [x]) k)
      else matRead s m a c (fun u x => scaleRows u m d (r + 1) j (acc ++ [x]) k)
/-- The scale that covers element k of a row. -/
def scaleFor (d : FDesc) (row k : Nat) : Nat := bitsOf row (8 * (k / blockElems d)) 8

/-! ## Elements (R339; spec 08, R165) -/

/-- Lane l of register j of a group. -/
def gLane (g : List Vec) (j l : Nat) : Nat := lane (g.getD j 0) l
/-- A[m][k] of an MSSA. -/
def ssaA (g : List Vec) (m k : Nat) : Int := signOf 8 (bitsOf (gLane g (k / 4) m) (8 * (k % 4)) 8)
/-- The T2 code of B[n][k] of an MSSA. -/
def ssaB (g : List Vec) (n k : Nat) : Nat := bitsOf (gLane g (8 * (n / 32) + k / 16) (n % 32)) (2 * (k % 16)) 2
/-- The bits of element k of row r of an MDOT group. -/
def dotElem (ty : Nat) (g : List Vec) (r k : Nat) : Nat :=
  if ty = 12 then
    let j := 8 * (r / 16) + 2 * (k % 4)
    let l := r % 16 + 16 * (k / 4)
    gLane g j l + gLane g (j + 1) l * 2 ^ 32
  else if ty = 11 then gLane g (8 * (r / 32) + k) (r % 32)
  else if ty = 1 then bitsOf (gLane g (16 * (r / 32) + k / 4) (r % 32)) (8 * (k % 4)) 8
  else bitsOf (gLane g (16 * (r / 32) + k / 2) (r % 32)) (16 * (k % 2)) 16
/-- M, N and K of an MDOT. -/
def dotRows (ty : Nat) : Nat := if ty = 12 then 16 else 32
def dotDepth (ty : Nat) : Nat := if ty = 1 then 64 else if ty = 11 ∨ ty = 12 then 8 else 32
/-- One element of an MDOT: the value it becomes and the flags. -/
def dotOne (ty mode : Nat) (a b : List Nat) (c : Nat) : Nat × Nat :=
  if ty = 1 then
    let x := (List.zip a b).foldl (fun t p => t + signOf 8 p.1 * signOf 8 p.2) (signOf 32 c)
    let r := satTo (intMin true 32) (intMax true 32) x
    (wrapTo 32 r.1, r.2)
  else
    let f := if ty = 12 then fmtF64 else fmtF32
    dotFused f mode (unpack f c) ((List.zip a b).map (fun p => (unpack (fmtOf ty) p.1, unpack (fmtOf ty) p.2)))
/-- The segments of R105 from segment j on: element and flags. -/
def ssaSegs (mode : Nat) (segs : List (Int × Nat × Nat)) (acc fl : Nat) : Nat × Nat :=
  match segs with
  | [] => (acc, fl)
  | (x, ea, ew) :: r =>
    if ea = 255 ∨ ew = 255 then ssaSegs mode r (canonNaN fmtF32) (fl ||| flQP)
    else if ea = 0 ∨ ew = 0 then ssaSegs mode r acc fl
    else
      let y := sumRound fmtF32 mode false true [unpack fmtF32 acc] [some (unpack fmtF32 acc), some (.fin (decide (x < 0)) x.natAbs ((ea : Int) + ew - 254))]
      ssaSegs mode r y.1 (fl ||| y.2)

/-! ## Performing (R351 to R357) -/

/-- The columns of a .twin operation's half at one core: columns from n0 on. -/
def ssaHalf (s : State) (m : MatOp) (core n0 : Nat) (da db : FDesc) (sa sb : List Nat) : State × Nat :=
  let t := m.word.vd.toNat
  let ls := min (blockElems da) (blockElems db)
  let cell (r c : Nat) : Nat × Nat :=
    let n := n0 + c
    let old := tileElem s core (t + c / 32) false 0 (32 * r + c % 32)
    let segs := (below (128 / ls)).map (fun j =>
      let ks := upFrom (j * ls) ls
      (ks.foldl (fun x k => x + ssaA m.groupA r k * (t2Val (ssaB m.groupB n k)).1) (0 : Int), scaleFor da (sa.getD r 0) (j * ls), scaleFor db (sb.getD n 0) (j * ls)))
    ssaSegs m.rm segs old 0
  let low := (below 1024).map (fun e => cell (e / 32) (e % 32))
  let high := (below 1024).map (fun e => cell (e / 32) (32 + e % 32))
  let tr := (below 64).foldl (fun a c => (below 128).foldl (fun b k => b ||| (t2Val (ssaB m.groupB (n0 + c) k)).2) a) 0
  (tileElemsPut (tileElemsPut s core t false 0 (low.map (·.1))) core (t + 1) false 0 (high.map (·.1)), orAll (low.map (·.2)) ||| orAll (high.map (·.2)) ||| tr)
def isTwin (m : MatOp) : Bool := decide (m.op = 0x300 ∨ m.op = 0x301) && bitOf m.word.imm.toNat 31
/-- MSSA performed. -/
def doMssa (s : State) (m : MatOp) : MatOut :=
  matBlock s m (fun u b =>
    let da := descOf b 0
    let db := descOf b 1
    scaleRows u m da 0 32 [] (fun u1 sa => scaleRows u1 m db 0 (if isTwin m then 128 else 64) [] (fun u2 sb =>
      let core := coreOf m.slot
      let r := ssaHalf u2 m core 0 da db sa sb
      if isTwin m then (let q := ssaHalf r.1 m (core + 1) 64 da db sa sb; .done q.1 (r.2 ||| q.2)) else .done r.1 r.2)))
def dotHalf (s : State) (m : MatOp) (core n0 : Nat) : State × Nat :=
  let ty := m.word.ty.toNat
  let n := dotRows ty
  let h := bitsOf m.word.imm.toNat 5 1
  let row (g : List Vec) (r : Nat) : List Nat := (below (dotDepth ty)).map (dotElem ty g r)
  let r := (below (n * n)).map (fun e => dotOne ty m.rm (row m.groupA (e / n)) (row m.groupB (n0 + e % n)) (tileElem s core m.word.vd.toNat (decide (ty = 12)) h e))
  (tileElemsPut s core m.word.vd.toNat (decide (ty = 12)) h (r.map (·.1)), orAll (r.map (·.2)))
/-- MDOT performed. -/
def doMdot (s : State) (m : MatOp) : MatOut :=
  matBlock s m (fun u _ =>
    let core := coreOf m.slot
    let r := dotHalf u m core 0
    if isTwin m then (let q := dotHalf r.1 m (core + 1) (dotRows m.word.ty.toNat); .done q.1 (r.2 ||| q.2)) else .done r.1 r.2)
/-- MZERO performed. -/
def doMzero (s : State) (m : MatOp) : MatOut := .done (tilePut s (coreOf m.slot) m.word.vd.toNat 0 ((below 1024).map (fun _ => 0))) 0
/-- MLOAD performed. -/
def doMload (s : State) (m : MatOp) : MatOut :=
  let n := loadBytes m.word.ty.toNat
  let put (u : State) (x : Nat) : MatOut := .done (tilePut u (coreOf m.slot) m.word.vd.toNat (512 * bitsOf m.word.imm.toNat 5 1) ((below (n / 4)).map (fun i => bitsOf x (32 * i) 32))) 0
  if bitOf m.word.md.toNat 2 then matBenchRead s m m.addr.toNat n put else matRead s m m.addr.toNat n put

/-- Conv of Table 19.4. -/
def drainConv (ty mode x : Nat) : Nat × Nat :=
  if ty = 11 ∨ ty = 12 ∨ ty = 5 then (x, 0)
  else if ty = 9 ∨ ty = 10 then roundVal (fmtOf ty) mode false true (unpack fmtF32 x)
  else if ty = 7 then (wrapTo 64 (signOf 32 x), 0)
  else
    let b := typeBits ty
    let r := satTo (intMin (isSignedTy ty) b) (intMax (isSignedTy ty) b) (signOf 32 x)
    (wrapTo b r.1, r.2)
/-- Add of Table 19.4 (spec 05, R108). -/
def drainAdd (ty mode d t : Nat) : Nat × Nat :=
  if ty = 5 then
    let r := satTo (intMin true 32) (intMax true 32) (signOf 32 d + signOf 32 t)
    (wrapTo 32 r.1, r.2)
  else let f := fmtOf ty; sumRound f mode false true [unpack f d, unpack f t] [some (unpack f d), some (unpack f t)]
/-- The output elements of a drain in order, the scale byte of each row under .rq, and the flags. -/
def drainOut (s : State) (m : MatOp) : List Nat × List Nat × Nat :=
  let ty := m.word.ty.toNat
  let f64 := decide (ty = 12)
  let n := if f64 then 16 else 32
  let h := bitsOf m.word.imm.toNat 5 1
  let el (e : Nat) : Nat := tileElem s (coreOf m.slot) m.word.vd.toNat f64 h e
  if bitOf m.word.md.toNat 4 then
    let rows := (below 32).map (fun r =>
      let xs := (below 32).map (fun c => unpack fmtF32 (el (32 * r + c)))
      let e := e8Of xs
      let q := xs.map (quantOne m.rm e.1)
      (q.map (fun y => wrapTo 8 y.1), e.1, e.2 ||| orAll (q.map (·.2))))
    (rows.flatMap (·.1), rows.map (fun x => x.2.1), orAll (rows.map (fun x => x.2.2)))
  else
    let r := (below (n * n)).map (fun e => drainConv ty m.rm (el e))
    (r.map (·.1), [], orAll (r.map (·.2)))
/-- Elements of a size packed as bytes. -/
def packElems (size : Nat) (xs : List Nat) : Nat := packFields (8 * size) (fun i => xs.getD i 0) xs.length
/-- n bytes of x written to a space from place a, line by line. -/
def matWrite (s : State) (m : MatOp) (ts : List Trans) (d : Space) (a n x : Nat) : State :=
  (upFrom (a / 128) ((a + n + 127) / 128 - a / 128)).foldl (fun t l =>
    let lo := max a (128 * l)
    let hi := min (a + n) (128 * l + 128)
    writeRun t { matCmd m with trans := ts } d lo (hi - lo) (bitsOf x (8 * (lo - a)) (8 * (hi - lo))) (fun _ => false) (some 0)) s
/-- A virtual range that an operation stores to: its translations, or the error. -/
def matStoreRange (s : State) (m : MatOp) (va n : Nat) (k : State → List Trans → MatOut) : MatOut :=
  match rangeOf s (coreOf m.slot) m.job m.sup .store va n with
  | .error (code, _) => .fail (fcOf code)
  | .ok (u, ts) =>
    let u1 := ts.foldl (fun x t => engineClaim x (clusterOf m.slot) t) u
    if ts.any (fun t => pageLocked u1 t) then .hold else k u1 ts
/-- An add-on-store to a shared-class page: one update at the home hub, whose stamp the drill's PSTAMP and LSTAMP take (R356); the cluster's
copies of the lines no longer serve loads, so a drill that observed the completion reads the new bytes (R225, R275). -/
def sharedAdd (s : State) (m : MatOp) (pa n : Nat) (f : Nat → Nat × Nat) : MatOut :=
  let home := homeOf s pa
  let lines := upFrom (pa / 128) (n / 128)
  if s.stores.any (fun p => decide (p.2.slot = m.slot ∧ p.2.line ∈ lines)) then .hold
  else if stampLimit < (dieAt s home).hs + lines.length + 1 ∨ stampLimit < m.dt then .hold
  else if lines.any (fun l => !reachable s l || decide (freshLinePsn s l ≠ 0)) then .fail 4
  else
    let r := f (freshRead s pa n)
    let s1 := onDie s home (fun d => (lines.foldl (fun x l => (hubOp x (clusterOf m.slot) l true).1) (raiseHs d m.dt)))
    let s2 := lines.foldl (fun t l => onCopy t (clusterOf m.slot) l (fun x => { x with have' := 0 })) (coherentWrite s1 pa n r.1)
    let w := if home = dieOf m.slot then (dieAt s2 home).hs else max (dieAt s2 home).hs ((dieAt s2 (dieOf m.slot)).hs + 1)
    .done (onDrill s2 m.slot (fun d => { d with pstamp := max d.pstamp w, lstamp := max d.lstamp w })) r.2
/-- The updated bytes of an add-on-store and the flags. -/
def addBytes (m : MatOp) (out : List Nat) (old : Nat) : Nat × Nat :=
  let ty := m.word.ty.toNat
  let size := drainSize ty
  let r := (List.zip (below out.length) out).map (fun p => drainAdd ty m.rm (bitsOf old (8 * size * p.1) (8 * size)) p.2)
  (packElems size (r.map (·.1)), orAll (r.map (·.2)))
/-- MDRAIN performed; the scale bytes of a requantising drain go to O. -/
def doMdrain (s : State) (m : MatOp) : MatOut :=
  let ty := m.word.ty.toNat
  let n := drainBytes ty
  let a := m.addr.toNat
  let o := drainOut s m
  let x := packElems (drainSize ty) o.1
  let toBench := bitOf m.word.md.toNat 2
  let store (u : State) (k : State → MatOut) : MatOut :=
    if toBench then k (matWrite u m [] (.bench a) a n x) else matStoreRange u m a n (fun u1 ts => k (matWrite u1 m ts (.virt a) a n x))
  if bitOf m.word.md.toNat 3 then
    if toBench then matBenchRead s m a n (fun u old => let r := addBytes m o.1 old; .done (matWrite u m [] (.bench a) a n r.1) r.2)
    else matStoreRange s m a n (fun u ts =>
      match viaTrans ts m.job a with
      | none => .fail 2
      | some (pa, t) =>
        if 2 ≤ (tierOf pa).getD 3 then .fail 3
        else if pageShared u t then sharedAdd u m pa n (addBytes m o.1)
        else matRead u m a n (fun u1 old => let r := addBytes m o.1 old; .done (matWrite u1 m ts (.virt a) a n r.1) r.2))
  else if bitOf m.word.md.toNat 4 then
    matBlock s m (fun u b =>
      let d := descOf b 2
      let rows := List.zip (below 32) o.2.1
      if d.bench then
        match rows.foldl (fun (e : Except Nat State) p => match e with | .ok v => (match benchRange v m.slot m.sup (d.addr + p.1 * d.pitch) 1 with | .ok v' => .ok v' | .error (c, _) => .error (if c = cBench then 2 else fcOf c)) | .error c => .error c) (.ok u) with
        | .error fc => .fail fc
        | .ok v => store v (fun v1 => .done (rows.foldl (fun y p => matWrite y m [] (.bench d.addr) (d.addr + p.1 * d.pitch) 1 p.2) v1) o.2.2)
      else
        match rows.foldl (fun (e : Except Nat (State × List Trans)) p => match e with
            | .ok (v, ts) => (match rangeOf v (coreOf m.slot) m.job m.sup .store (d.addr + p.1 * d.pitch) 1 with | .ok (v', us) => .ok (v', ts ++ us) | .error (c, _) => .error (fcOf c))
            | .error c => .error c) (.ok (u, [])) with
        | .error fc => .fail fc
        | .ok (v, ts) =>
          let v := ts.foldl (fun x t => engineClaim x (clusterOf m.slot) t) v
          if ts.any (fun t => pageLocked v t) then .hold
          else store v (fun v1 => .done (rows.foldl (fun y p => matWrite y m ts (.virt d.addr) (d.addr + p.1 * d.pitch) 1 p.2) v1) o.2.2))
  else store s (fun u => .done u o.2.2)

end Sys2Proof.Machine
end

