-- ==== Sys2Proof/Machine/Espalier.lean ====
section
/-!
DEFINITION. The espalier unit: state views, issue, the eight words, and the operations as they are performed at retirement; the retirement of
matrix and espalier operations and the matrix-error trap (spec 20; 05, R106; 19, R344 to R347). -/
namespace Sys2Proof.Machine

/-! ## Arrays (R360, R361) -/

def espAt (s : State) (core i : Nat) : Espalier := tabGet {} (coreAt s core).esp i
def espPut (s : State) (core i : Nat) (e : Espalier) : State := onCore s core (fun c => { c with esp := tabSet {} c.esp i e })
/-- Words of a half. -/
def espWords : Nat := 7168
/-- Word w of the arrays that espalier i names; a pair goes on in its high half. -/
def espWord (s : State) (core i w : Nat) : Nat :=
  if w < espWords then (tabGet 0 (espAt s core i).body w).toNat else (tabGet 0 (espAt s core (i + 1)).body (w - espWords)).toNat
/-- A body whose word w is f w. -/
def espBody (f : Nat → Nat) : Tab (BitVec 32) :=
  (below espWords).filterMap (fun w => let x := BitVec.ofNat 32 (f w); if x = 0 then none else some (w, x))
/-- V, T and D by row and column, as bits. -/
structure EspArrays where
  v : Nat → Nat → Nat
  t : Nat → Nat → Nat
  d : Nat → Nat → Nat
/-- Element e of the arrays in the order of Table 20.2. -/
def espElem (s : State) (core i : Nat) (f64 : Bool) (e : Nat) : Nat :=
  if f64 then espWord s core i (2 * e) + espWord s core i (2 * e + 1) * 2 ^ 32 else espWord s core i e
def espArrays (s : State) (core i : Nat) (f64 : Bool) : EspArrays :=
  { v := fun r c => espElem s core i f64 (32 * r + c), t := fun r c => espElem s core i f64 (2048 + 32 * r + c), d := fun r c => espElem s core i f64 (3072 + 64 * r + c) }
/-- Word w of the arrays a. -/
def arraysWord (f64 : Bool) (a : EspArrays) (w : Nat) : Nat :=
  let e := if f64 then w / 2 else w
  let x := if e < 2048 then a.v (e / 32) (e % 32) else if e < 3072 then a.t ((e - 2048) / 32) (e % 32) else a.d ((e - 3072) / 64) (e % 64)
  if f64 then bitsOf x (32 * (w % 2)) 32 else x
/-- The half of a pair that is not i. -/
def otherHalf (i : Nat) : Nat := if i % 2 = 0 then i + 1 else i - 1
/-- An espalier that ceases to belong to a pair leaves the other half at TYPE none with every byte zero (R366, R375). -/
def dropPair (s : State) (core i : Nat) : State := if 2 ≤ (espAt s core i).ty.toNat then espPut s core (otherHalf i) {} else s
/-- The arrays and control fields of espalier i written; a pair's high half is named by its low half. -/
def espStore (s : State) (core i : Nat) (e : Espalier) (f : Nat → Nat) : State :=
  if e.ty = 2 then espPut (espPut s core i { e with body := espBody f }) core (i + 1) { ty := 3, body := espBody (fun w => f (espWords + w)) }
  else espPut (dropPair s core i) core i { e with body := espBody f }
/-- The status word (Table 20.1). -/
def espStatus (e : Espalier) : Nat :=
  if e.ty = 0 then 0 else e.ty.toNat * 2 ^ 62 + e.rc % 65536 * 2 ^ 32 + e.cap % 64 * 65536 + e.n % 128 * 256 + e.k % 64
/-- The control fields of a status word. -/
def espOf (x : Nat) : Espalier := { ty := BitVec.ofNat 2 (bitsOf x 62 2), rc := bitsOf x 32 16, cap := bitsOf x 16 6, n := bitsOf x 8 7, k := bitsOf x 0 6 }

/-! ## Issue (R363, R376) -/

/-- TYPE of an espalier in the table that issue checks read. -/
def espType (s : State) (core i : Nat) : Nat := (tabGet 0 (coreAt s core).espTy i).toNat
/-- The table after an EINIT or EREST of type ty is accepted. -/
def espTypeSet (s : State) (core i ty : Nat) : State :=
  let pair := decide (2 ≤ espType s core i)
  onCore s core (fun c =>
    let t := if ty = 2 then tabSet 0 c.espTy (i + 1) 3 else if pair then tabSet 0 c.espTy (otherHalf i) 0 else c.espTy
    { c with espTy := tabSet 0 t i (BitVec.ofNat 2 ty) })
/-- The espalier that a word names. -/
def espIdx (w : LeafWord) : Nat := w.imm.toNat % 4
def espF64 (w : LeafWord) : Bool := decide (w.ty = 12)
/-- The TYPE checks of R363. -/
def espLate (op : Nat) (w : LeafWord) (s : State) : Bool :=
  let ty := espType s (coreOf s.cur) (espIdx w)
  if op = 0x341 ∨ op = 0x342 ∨ op = 0x343 then decide (ty ≠ (if espF64 w then 2 else 1))
  else if op = 0x344 then decide (ty = 3 ∨ ty = 0)
  else if op = 0x345 ∨ op = 0x346 then decide (ty = 3)
  else false
/-- Operations of the queue that are the espalier unit's, not retired. -/
def espBusy (s : State) (core : Nat) (p : Nat → Bool) : Bool := (coreAt s core).mq.any (fun m => decide (0x340 ≤ m.op) && p (espIdx m.word))
/-- N of an espalier once the operations accepted before have been performed. -/
def plannedN (s : State) (core i : Nat) : Nat :=
  (coreAt s core).mq.foldl (fun n m =>
    if espIdx m.word ≠ i then n else if m.op = 0x340 then bitsOf m.word.imm.toNat 8 7 else if m.op = 0x347 then bitsOf m.stat 8 7 else n) (espAt s core i).n
/-- Check 3 and the queue of R342; `k` is what acceptance does beside. -/
def espAccept (s : State) (d : Drill) (m : MatOp) (k : State → State) : LeafBody :=
  if matHeld s d false then .wait .engine s else .ok (k (matAccept s m false)) [] 0 nextWord
/-- Checks 3 and 4 of R376 for n bytes of bench at a. -/
def espPlace (s : State) (d : Drill) (a : Word) (n : Nat) (k : State → LeafBody) : LeafBody :=
  if a.toNat % 128 ≠ 0 then .trap cAlign a 0 [] else engineBench s d a.toNat n k

/-- EINIT (R366). -/
def execEinit (w : LeafWord) (s : State) : Host.Outcome State Fault Refusal :=
  leafWord { op := 0x340, w, late := espLate 0x340 w } s (fun d _ _ t =>
    espAccept t d (matOf t d 0x340 w) (fun u => espTypeSet u (coreOf t.cur) (espIdx w) (if espF64 w then 2 else 1)))
/-- ECAP (R367). -/
def execEcap (w : LeafWord) (s : State) : Host.Outcome State Fault Refusal :=
  leafWord { op := 0x344, w, late := espLate 0x344 w } s (fun d _ _ t => espAccept t d (matOf t d 0x344 w) id)
/-- EAPP (R368): the reflector group and τ are read at acceptance. -/
def execEapp (w : LeafWord) (s : State) : Host.Outcome State Fault Refusal :=
  leafWord { op := 0x341, w, late := espLate 0x341 w } s (fun d _ v t =>
    espAccept t d { matOf t d 0x341 w with groupA := groupRead d w.va.toNat (if espF64 w then 4 else 2), tau := scaOf (opd v 1) } id)
/-- A panel word. -/
def espPanel (op : Nat) (w : LeafWord) (s : State) : Host.Outcome State Fault Refusal :=
  leafWord { op, w, late := espLate op w } s (fun d _ v t =>
    let a := scaOf (opd v 0)
    espPlace t d a (128 * plannedN t (coreOf t.cur) (espIdx w)) (fun u => espAccept u d { matOf u d op w with addr := a } id))
/-- ELEFT (R370). -/
def execEleft (w : LeafWord) (s : State) : Host.Outcome State Fault Refusal := espPanel 0x342 w s
/-- ERIGHT (R370). -/
def execEright (w : LeafWord) (s : State) : Host.Outcome State Fault Refusal := espPanel 0x343 w s
/-- ESTAT (R372). -/
def execEstat (w : LeafWord) (s : State) : Host.Outcome State Fault Refusal :=
  leafWord { op := 0x345, w, late := espLate 0x345 w } s (fun _ _ _ t =>
    let core := coreOf t.cur
    if espBusy t core (fun i => decide (i / 2 = espIdx w / 2)) then .wait .retire t
    else .ok t [.sca w.vd.toNat (BitVec.ofNat 64 (espStatus (espAt t core (espIdx w))))] 0 nextWord)
/-- Bytes of a save area (R373). -/
def saveBytes (ty : Nat) : Nat := if ty = 2 then 0xE080 else 0x7080
/-- ESAVE (R374). -/
def execEsave (w : LeafWord) (s : State) : Host.Outcome State Fault Refusal :=
  leafWord { op := 0x346, w, late := espLate 0x346 w } s (fun d _ v t =>
    let a := scaOf (opd v 0)
    espPlace t d a (saveBytes (espType t (coreOf t.cur) (espIdx w))) (fun u => espAccept u d { matOf u d 0x346 w with addr := a } id))
/-- The checks of R375 on the first 128 bytes of a save area. -/
def saveOk (i x : Nat) : Bool :=
  let e := espOf x
  decide (bitsOf x 48 14 = 0 ∧ bitsOf x 22 10 = 0 ∧ bitsOf x 15 1 = 0 ∧ bitsOf x 6 2 = 0 ∧ x / 2 ^ 64 = 0 ∧ e.ty ≠ 3)
  && !(decide (e.ty = 2) && bitOf i 0) && (decide (e.ty = 0) || decide (1 ≤ e.n ∧ e.n ≤ 64 ∧ 1 ≤ e.cap ∧ e.cap ≤ 32 ∧ e.k ≤ 32))
/-- EREST (R375). -/
def execErest (w : LeafWord) (s : State) : Host.Outcome State Fault Refusal :=
  leafWord { op := 0x347, w } s (fun d _ v t =>
    let a := scaOf (opd v 0)
    let core := coreOf t.cur
    let i := espIdx w
    espPlace t d a 0x7080 (fun u =>
      if espBusy u core (fun _ => true) then .wait .retire u
      else match benchPlace u u.cur a.toNat with
        | none => .trap cBench a 0 []
        | some (bc, off) =>
          if (benchPoison u bc off 128).isSome then .trap cPoison a 0 []
          else
            let x := benchRead u bc off 128
            engineBench u d a.toNat (if bitsOf x 62 2 = 2 then 0xE080 else 0) (fun u1 =>
              if !saveOk i x then .trap cEspSave a 0 []
              else espAccept u1 d { matOf u1 d 0x347 w with addr := a, stat := x % 2 ^ 64 } (fun y => espTypeSet y core i (bitsOf x 62 2)))))

/-! ## Stages (spec 05, R106) -/

/-- The bits at (i, j) of a matrix given by rows. -/
def at2 (m : List (List Nat)) (i j : Nat) : Nat := (m.getD i []).getD j 0
/-- One element of a stage: Σ b_k c_k, or a − Σ b_k c_k, rounded once; an empty sum keeps the bits of a. -/
def stageElem (f : Fmt) (mode : Nat) (a : Option Nat) (ps : List (Nat × Nat)) : Nat × Nat :=
  let vs := ps.map (fun p => (unpack f p.1, unpack f p.2))
  let ins := vs.flatMap (fun p => [p.1, p.2])
  match a with
  | none => sumRound f mode false true ins (vs.map (fun p => mulVal p.1 p.2))
  | some x => if ps.isEmpty then (x, 0) else sumRound f mode false true (unpack f x :: ins) (some (unpack f x) :: vs.map (fun p => (mulVal p.1 p.2).map negVal))
/-- A stage: every element of a matrix of the given rows and columns, and the flags. -/
def stageOf (f : Fmt) (mode rows cols inner : Nat) (a : Option (Nat → Nat → Nat)) (b c : Nat → Nat → Nat) : List (List Nat) × Nat :=
  let r := (below rows).map (fun i => (below cols).map (fun j => stageElem f mode (a.map (fun g => g i j)) ((below inner).map (fun k => (b i k, c k j)))))
  (r.map (fun x => x.map (·.1)), orAll (r.map (fun x => orAll (x.map (·.2)))))
/-- T with the elements below its diagonal read as zero. -/
def upperT (a : EspArrays) (i j : Nat) : Nat := if j < i then 0 else a.t i j
def flip2 (f : Nat → Nat → Nat) (i j : Nat) : Nat := f j i
/-- The D stage: passed through while RC = 0. -/
def stageD (f : Fmt) (mode : Nat) (e : Espalier) (rows cols : Nat) (x : Nat → Nat → Nat) (b c : Nat → Nat → Nat) : List (List Nat) × Nat :=
  if e.rc = 0 then ((below rows).map (fun i => (below cols).map (x i)), 0) else stageOf f mode rows cols e.n none b c
/-- ELEFT and ERIGHT over the leading blocks: the result matrix and the flags (Table 5.5). -/
def espApply (f : Fmt) (mode : Nat) (e : Espalier) (a : EspArrays) (right tr : Bool) (c : Nat) (x : Nat → Nat → Nat) : List (List Nat) × Nat :=
  let n := e.n
  let k := e.k
  let t := upperT a
  if right then
    if tr then
      let y1 := stageOf f mode c k n none x a.v
      let y2 := stageOf f mode c k k none (at2 y1.1) (flip2 t)
      let x1 := stageOf f mode c n k (some x) (at2 y2.1) (flip2 a.v)
      let r := stageD f mode e c n (at2 x1.1) (at2 x1.1) (flip2 a.d)
      (r.1, y1.2 ||| y2.2 ||| x1.2 ||| r.2)
    else
      let x1 := stageD f mode e c n x x a.d
      let y1 := stageOf f mode c k n none (at2 x1.1) a.v
      let y2 := stageOf f mode c k k none (at2 y1.1) t
      let r := stageOf f mode c n k (some (at2 x1.1)) (at2 y2.1) (flip2 a.v)
      (r.1, x1.2 ||| y1.2 ||| y2.2 ||| r.2)
  else if tr then
    let x1 := stageD f mode e n c x (flip2 a.d) x
    let y1 := stageOf f mode k c n none (flip2 a.v) (at2 x1.1)
    let y2 := stageOf f mode k c k none (flip2 t) (at2 y1.1)
    let r := stageOf f mode n c k (some (at2 x1.1)) a.v (at2 y2.1)
    (r.1, x1.2 ||| y1.2 ||| y2.2 ||| r.2)
  else
    let y1 := stageOf f mode k c n none (flip2 a.v) x
    let y2 := stageOf f mode k c k none t (at2 y1.1)
    let x1 := stageOf f mode n c k (some x) a.v (at2 y2.1)
    let r := stageD f mode e n c (at2 x1.1) a.d (at2 x1.1)
    (r.1, y1.2 ||| y2.2 ||| x1.2 ||| r.2)
/-- Recompaction: D and the flags. -/
def espRecompact (f : Fmt) (mode : Nat) (e : Espalier) (a : EspArrays) : List (List Nat) × Nat :=
  let y1 := stageOf f mode e.n e.k e.n none a.d a.v
  let y2 := stageOf f mode e.n e.k e.k none (at2 y1.1) (upperT a)
  let r := stageOf f mode e.n e.n e.k (some a.d) (at2 y2.1) (flip2 a.v)
  (r.1, y1.2 ||| y2.2 ||| r.2)
/-- One element of w := −τ · (T z): the exact sum times −τ, rounded once (R368). -/
def reflectElem (f : Fmt) (mode tau : Nat) (ps : List (Nat × Nat)) : Nat × Nat :=
  let vs := ps.map (fun p => (unpack f p.1, unpack f p.2))
  let t := negVal (unpack f tau)
  valueRound f mode false true (unpack f tau :: vs.flatMap (fun p => [p.1, p.2]))
    ((exactSum mode (vs.map (fun p => mulVal p.1 p.2))).bind (fun x => mulVal t x))
/-- A value stored without rounding: a signalling NaN becomes canonical and sets NV (R368). -/
def storedBits (f : Fmt) (x : Nat) : Nat × Nat := if isSNaN (unpack f x) then (canonNaN f, flNV) else (x, 0)

/-! ## Performing -/

def espFmt (f64 : Bool) : Fmt := if f64 then fmtF64 else fmtF32
/-- The bits of 1. -/
def oneBits (f64 : Bool) : Nat := if f64 then 0x3FF0000000000000 else 0x3F800000
/-- EINIT performed. -/
def doEinit (s : State) (m : MatOp) : MatOut :=
  let f64 := espF64 m.word
  let n := bitsOf m.word.imm.toNat 8 7
  let a : EspArrays := { v := fun _ _ => 0, t := fun _ _ => 0, d := fun i j => if i = j ∧ i < n then oneBits f64 else 0 }
  .done (espStore s (coreOf m.slot) (espIdx m.word) { ty := if f64 then 2 else 1, cap := 32, n } (arraysWord f64 a)) 0
/-- ECAP performed. -/
def doEcap (s : State) (m : MatOp) : MatOut :=
  let i := espIdx m.word
  .done (espPut s (coreOf m.slot) i { espAt s (coreOf m.slot) i with cap := bitsOf m.word.imm.toNat 8 6 }) 0
/-- Row r of a reflector group (R368). -/
def reflRow (f64 : Bool) (g : List Vec) (r : Nat) : Nat :=
  if f64 then gLane g (2 * (r / 32)) (r % 32) + gLane g (2 * (r / 32) + 1) (r % 32) * 2 ^ 32 else gLane g (r / 32) (r % 32)
/-- EAPP performed. -/
def doEapp (s : State) (m : MatOp) : MatOut :=
  let core := coreOf m.slot
  let i := espIdx m.word
  let f64 := espF64 m.word
  let f := espFmt f64
  let e0 := espAt s core i
  let a0 := espArrays s core i f64
  let rec' := decide (e0.cap ≤ e0.k)
  let q := if rec' then espRecompact f m.rm e0 a0 else ([], 0)
  let e := if rec' then { e0 with k := 0, rc := min (e0.rc + 1) 65535 } else e0
  let zero (_ _ : Nat) : Nat := 0
  let a : EspArrays := if rec' then { v := zero, t := zero, d := at2 q.1 } else a0
  let k := e.k
  let rows := (below 64).map (fun r => if r < e.n then storedBits f (reflRow f64 m.groupA r) else (0, 0))
  let v := rows.map (·.1)
  let tau := storedBits f (if f64 then m.tau.toNat else m.tau.toNat % 2 ^ 32)
  let z := (below k).map (fun j => stageElem f m.rm none ((below e.n).map (fun r => (a.v r j, v.getD r 0))))
  let w := (below k).map (fun j => reflectElem f m.rm tau.1 ((below k).map (fun l => (upperT a j l, (z.map (·.1)).getD l 0))))
  let a' : EspArrays := {
    v := fun r c => if c = k then v.getD r 0 else a.v r c,
    t := fun r c => if c = k then (if r < k then (w.map (·.1)).getD r 0 else if r = k then tau.1 else a.t r c) else a.t r c,
    d := a.d }
  .done (espStore s core i { e with k := k + 1 } (arraysWord f64 a')) (q.2 ||| orAll (rows.map (·.2)) ||| tau.2 ||| orAll (z.map (·.2)) ||| orAll (w.map (·.2)))
/-- ELEFT and ERIGHT performed: the whole panel is read before any byte is written (R370, R371). -/
def doPanel (s : State) (m : MatOp) : MatOut :=
  let core := coreOf m.slot
  let i := espIdx m.word
  let f64 := espF64 m.word
  let e := espAt s core i
  let bits := if f64 then 64 else 32
  let c := if f64 then 16 else 32
  let right := decide (m.op = 0x343)
  let n := 128 * e.n
  matBenchRead s m m.addr.toNat n (fun u p =>
    let cell (r j : Nat) : Nat := bitsOf p (1024 * r + bits * j) bits
    let o := espApply (espFmt f64) m.rm e (espArrays u core i f64) right (bitOf m.word.md.toNat 2) c (if right then flip2 cell else cell)
    let out (r j : Nat) : Nat := if right then at2 o.1 j r else at2 o.1 r j
    .done (matWrite u m [] (.bench m.addr.toNat) m.addr.toNat n (packFields bits (fun x => out (x / c) (x % c)) (c * e.n))) o.2)
/-- ESAVE performed (R373, R374). -/
def doEsave (s : State) (m : MatOp) : MatOut :=
  let core := coreOf m.slot
  let i := espIdx m.word
  let e := espAt s core i
  let n := if e.ty = 2 then 2 * espWords else espWords
  let x := espStatus e + packFields 32 (espWord s core i) n * 2 ^ 1024
  .done (matWrite s m [] (.bench m.addr.toNat) m.addr.toNat (128 + 4 * n) x) 0
/-- EREST performed; a poisoned body leaves the espalier at TYPE none (R375). -/
def doErest (s : State) (m : MatOp) : MatOut :=
  let core := coreOf m.slot
  let i := espIdx m.word
  let e := espOf m.stat
  let n := if e.ty = 2 then 2 * espWords else espWords
  match matBenchRead s m (m.addr.toNat + 128) (4 * n) (fun u x => .done (espStore u core i e (fun w => bitsOf x (32 * w) 32)) 0) with
  | .fail 4 =>
    let u := espPut (dropPair s core i) core i {}
    let v := if e.ty = 2 then espPut u core (i + 1) {} else u
    let later := ((coreAt s core).mq.drop 1).any (fun x => decide ((x.op = 0x340 ∨ x.op = 0x347) ∧ espIdx x.word / 2 = i / 2))
    .failIn (if later then v else onCore v core (fun c => { c with espTy := tabSet 0 (if e.ty = 2 then tabSet 0 c.espTy (i + 1) 0 else c.espTy) i 0 })) 4
  | r => r

/-- An operation performed. -/
def matPerform (s : State) (m : MatOp) : MatOut :=
  if m.op = 0x300 then doMssa s m else if m.op = 0x301 then doMdot s m else if m.op = 0x302 then doMzero s m
  else if m.op = 0x303 then doMload s m else if m.op = 0x304 then doMdrain s m else if m.op = 0x340 then doEinit s m
  else if m.op = 0x341 then doEapp s m else if m.op = 0x344 then doEcap s m else if m.op = 0x346 then doEsave s m
  else if m.op = 0x347 then doErest s m else doPanel s m

/-! ## Retirement (spec 19, R345 to R347; 05, R93) -/

/-- The barrier word that an operation names. -/
def matBarrier (m : MatOp) : Option Nat := if m.op < 0x340 ∧ m.word.imm.toNat % 32 ≠ 0 then some m.bar.toNat else none
/-- The traps of drills on a core that waited for its operations are taken if they now may be (R358). -/
def settleCore (s : State) (core : Nat) : State := (s.drills.filter (fun e => decide (coreOf e.1 = core) && e.2.due.isSome)).foldl (fun t e => settleTrap t e.1) s
/-- The head of a core's queue leaves it, and the heads that follow are looked at. -/
def matPop (s : State) (core : Nat) : State :=
  let s1 := onCore s core (fun c => { c with mq := c.mq.drop 1 })
  let s2 := if (coreAt s1 core).mq.isEmpty then s1 else post s1 (.matrixRetire core)
  settleCore s2 core
/-- An operation retires: its queue places, its counter, and the waits on them. -/
def matRetired (s : State) (m : MatOp) : State :=
  let core := coreOf m.slot
  let s1 := onDrill s m.slot (fun d => ocPut d 2 (ocGet d 2 - 1))
  let s2 := matPop s1 core
  let s3 := if isTwin m then matPop s2 (core + 1) else s2
  counterMoved s3 m.slot
/-- The error of an operation: an error phase, or the pending matrix-error trap of its drill. -/
def matError (s : State) (m : MatOp) (fc : Nat) : State :=
  match matBarrier m with
  | some a => errorPhase s m.slot a fc
  | none => post (onDrill s m.slot (fun d => { d with merr := some (d.merr.getD fc) })) (.matrixErrorTrap m.slot)
/-- MATRIX_RETIRE: the oldest operation of a core is performed and retires. -/
def execMatrixRetire (core : Nat) (s : State) : Host.Outcome State Fault Refusal :=
  match (coreAt s core).mq with
  | [] => .next s
  | m :: _ =>
    if m.twinHalf then .next (post s (.matrixRetire (coreOf m.slot)))
    else if isTwin m && !(match (coreAt s (core + 1)).mq with | h :: _ => h.twinHalf | [] => false) then .next s
    else match matPerform s m with
      | .hold => .next s
      | .need line => .next (askPool s (matCmd m) line)
      | .fail fc => .next (matRetired (matError s m fc) m)
      | .failIn t fc => .next (matRetired (matError t m fc) m)
      | .done t fl =>
        let t1 := onDrill t m.slot (fun d => orFlags d (BitVec.ofNat 8 fl))
        let t2 := match matBarrier m with | some a => tileArrival t1 m.slot a | none => t1
        .next (matRetired t2 m)
/-- MATRIX_ACCEPT: a split stalled under R342 issues its word again. -/
def execMatrixAccept (slot : Nat) (s : State) : Host.Outcome State Fault Refusal :=
  .next (onDrill s slot (fun d => if d.leafWait = .engine then { d with leafWait := .none } else d))
/-- MATRIX_ERROR_TRAP: taken at user level at a word boundary, held at supervisor level (spec 19, R347; 23, R384). -/
def execMatrixErrorTrap (slot : Nat) (s : State) : Host.Outcome State Fault Refusal :=
  match drillAt s slot with
  | none => .next s
  | some d =>
    match d.merr with
    | none => .next s
    | some fc =>
      if d.super ∨ d.due.isSome then .next s
      else .next (raise (putDrill s slot { d with merr := none }) slot { cause := BitVec.ofNat 32 (2 ^ 29 + cMatrix), tval := BitVec.ofNat 64 fc, epc := d.pc })

end Sys2Proof.Machine
end

