-- ==== Sys2Proof/Machine/Lend.lean ====
section
/-!
DEFINITION. BRESIZE: the share of a core's SRAM that is lent to the Tendril (spec 12, R242, R256, R260). -/
namespace Sys2Proof.Machine

/-- The bench ranges, (bench address, bytes), that a copy command reads or writes. -/
def copyBench (c : CopyCmd) : List (Nat × Nat) :=
  let of' (x : Word) (n : Nat) : List (Nat × Nat) := match spaceOf x with | some (.bench a) => [(a, n)] | _ => []
  let w (i : Nat) : Nat := (c.desc.getD i 0).toNat
  if c.op = 0 then of' c.dst c.len ++ of' c.src c.len
  else if c.op = 1 then
    let span (pitch : Nat) : Nat := (bitsOf (w 1) 32 16 - 1) * pitch + bitsOf (w 1) 0 24
    of' c.dst (span (bitsOf (w 0) 0 32)) ++ of' c.src (span (bitsOf (w 0) 32 32))
  else if c.op = 2 then ((below 48).filter (bitOf (w 0))).map (fun k => (k * 0x80000 + bitsOf c.dst.toNat 0 19, 128 * bitsOf c.dst.toNat 32 16))
  else if c.op = 3 then of' c.dst c.len
  else (lanesOf c.lanes).map (fun l => (rowBase c l, c.blk))
/-- The bench range that a matrix or espalier operation reads or writes. -/
def matBench (m : MatOp) : List (Nat × Nat) :=
  let bn := bitOf m.word.md.toNat 2
  let a := m.addr.toNat
  if m.op = 0x303 ∨ m.op = 0x304 then (if bn then [(a, 8192)] else [])
  else if m.op = 0x342 ∨ m.op = 0x343 then [(a, 8192)]
  else if m.op = 0x346 ∨ m.op = 0x347 then [(a, 0xE080)]
  else []
/-- A range of a slot's bench addresses meets offsets [lo, hi) of a core. -/
def benchMeets (slot core lo hi : Nat) (r : Nat × Nat) : Bool :=
  let base := if r.1 < 0x1800000 then 48 * clusterOf slot * 0x80000 + r.1 else coreOf slot * 0x80000 + (r.1 - 0x1800000)
  decide (0 < r.2 ∧ base < core * 0x80000 + hi ∧ core * 0x80000 + lo < base + r.2)
/-- An engine operation of the cluster uses offsets that are to leave a core's bench. -/
def offsetsInUse (s : State) (core lo hi : Nat) : Bool :=
  let cl := clusterOfCore core
  (clAt s cl).engines.any (fun e => e.2.any (fun c => (copyBench c).any (benchMeets c.slot core lo hi)))
  || (below 48).any (fun k => (coreAt s (48 * cl + k)).mq.any (fun m => (matBench m).any (benchMeets m.slot core lo hi)))
/-- Growing: the offsets leave the bench and their contents are lost; empty slots join the chain. The banks are woken first (spec 31, R465). -/
def growLend (s : State) (core l : Nat) : State :=
  let top := 0x80000 - l * 0x10000
  onCore s core (fun c => { c with power := [], lend := l, bench := c.bench.filter (fun x => decide (x.1 < top)), soft := c.soft.filter (fun x => decide (x < top)), benchPsn := c.benchPsn.filter (fun k => decide (k * 32 < top)), tags := c.tags.filter (fun t => decide (t.1 * 2048 < top)) })
/-- Shrinking: the tiles beyond the new base leave the chain, base first, and the offsets return to the bench as zero. -/
def shrinkLend (s : State) (core l : Nat) : State :=
  let cl := clusterOfCore core
  let old := 0x80000 - (coreAt s core).lend * 0x10000
  let s1 := onCore s core (fun c => { c with power := [], lend := l, tags := c.tags.filter (fun t => decide (t.1 * 2048 < old)), bench := c.bench.filter (fun x => decide (x.1 < old)), benchPsn := c.benchPsn.filter (fun k => decide (k * 32 < old)) })
  let n := chainSlots s1 cl
  let out := ((clAt s1 cl).tiles.filter (fun t => decide (n ≤ t.2.pos))).map (·.1)
  out.foldl (fun u t => leaveChain u cl t) s1
/-- BRESIZE (R256, R260): a shrink completes when every write-back it caused has been acknowledged. -/
def execBresize (d a : BitVec 6) (s : State) : Host.Outcome State Fault Refusal :=
  stemWord { ins := .bresize d a, srcs := [a], dst := some d, priv := true } s (fun _ v t =>
    let core := coreOf t.cur
    let cl := clusterOf t.cur
    let l := (coreAt t core).lend
    let l' := (opAt v 0).toNat % 16
    let settle (u : State) : Body := if (clAt u cl).wback.isEmpty then .ok u 0 none else .wait .retire u
    if l' = 0 ∨ 7 < l' then .ok t 1 none
    else if l' = l then settle t
    else if l < l' then
      let lo := 0x80000 - l' * 0x10000
      let hi := 0x80000 - l * 0x10000
      if (coreAt t core).bmap.any (fun b => decide (b.2.off < hi ∧ lo < b.2.off + b.2.len)) then .ok t 2 none
      else if offsetsInUse t core lo hi then .wait .retire t
      else .ok (growLend t core l') 0 none
    else settle (shrinkLend t core l'))

end Sys2Proof.Machine
end

