-- ==== Sys2Proof/Machine/StemControl.lean ====
section
/-!
DEFINITION. Stem control flow, leaf launches, hose status, system registers, traps and returns (spec 06, R116 to R136; 23,
R381 to R387; 01, R18, R26 to R30; 21, R377; 25, R408). -/
namespace Sys2Proof.Machine

/-! ## Branches, jumps and calls -/

/-- PC plus a signed count of words. -/
def pcPlus (d : Drill) (n : Int) : Word := wordOf ((d.pc.toNat : Int) + 4 * n)
/-- A conditional branch (spec 06, R116). -/
def stemBranch (i : Instr) (a b : BitVec 6) (o : BitVec 12) (cond : Word → Word → Bool) (s : State) : Host.Outcome State Fault Refusal :=
  stemWord { ins := i, srcs := [a, b], ctl := true } s (fun d v t => .ok t 0 (if cond (opAt v 0) (opAt v 1) then some (pcPlus d o.toInt) else none))
/-- BEQ (spec 06, Table 6.5). -/
def execBeq (a b : BitVec 6) (o : BitVec 12) (s : State) : Host.Outcome State Fault Refusal := stemBranch (.beq a b o) a b o (fun x y => decide (x = y)) s
/-- BNE. -/
def execBne (a b : BitVec 6) (o : BitVec 12) (s : State) : Host.Outcome State Fault Refusal := stemBranch (.bne a b o) a b o (fun x y => decide (x ≠ y)) s
/-- BLT, signed. -/
def execBlt (a b : BitVec 6) (o : BitVec 12) (s : State) : Host.Outcome State Fault Refusal := stemBranch (.blt a b o) a b o (fun x y => decide (x.toInt < y.toInt)) s
/-- BGE, signed. -/
def execBge (a b : BitVec 6) (o : BitVec 12) (s : State) : Host.Outcome State Fault Refusal := stemBranch (.bge a b o) a b o (fun x y => decide (y.toInt ≤ x.toInt)) s
/-- BLTN, unsigned. -/
def execBltn (a b : BitVec 6) (o : BitVec 12) (s : State) : Host.Outcome State Fault Refusal := stemBranch (.bltn a b o) a b o (fun x y => decide (x.toNat < y.toNat)) s
/-- BGEN, unsigned. -/
def execBgen (a b : BitVec 6) (o : BitVec 12) (s : State) : Host.Outcome State Fault Refusal := stemBranch (.bgen a b o) a b o (fun x y => decide (y.toNat ≤ x.toNat)) s
/-- JMP (spec 06, R117). -/
def execJmp (o : BitVec 24) (s : State) : Host.Outcome State Fault Refusal :=
  stemWord { ins := .jmp o, ctl := true } s (fun d _ t => .ok t 0 (some (pcPlus d o.toInt)))
/-- CALL: g47 receives PC + 4 (spec 06, R117). -/
def execCall (o : BitVec 24) (s : State) : Host.Outcome State Fault Refusal :=
  stemWord { ins := .call o, dst := some 47, ctl := true } s (fun d _ t => .ok t ((d.pc + 4).setWidth 64) (some (pcPlus d o.toInt)))
/-- JR (spec 06, R118). -/
def execJr (a : BitVec 6) (i : BitVec 12) (s : State) : Host.Outcome State Fault Refusal :=
  stemWord { ins := .jr a i, srcs := [a], ctl := true } s (fun _ v t => .ok t 0 (some (opAt v 0 + sext12 i * 4)))
/-- CALLR: gd receives the link after ga is read (spec 06, R118). -/
def execCallr (d a : BitVec 6) (i : BitVec 12) (s : State) : Host.Outcome State Fault Refusal :=
  stemWord { ins := .callr d a i, srcs := [a], dst := some d, ctl := true } s (fun dr v t => .ok t ((dr.pc + 4).setWidth 64) (some (opAt v 0 + sext12 i * 4)))

/-! ## Leaf work and hoses -/

/-- g0 to g15 as an LRUN copies them. -/
def copyG (d : Drill) : Tab Word := d.g.filter (fun e => decide (e.1 < 16))
/-- LRUN (spec 06, R125; 02, R45; 01, R18; 23, R382). -/
def execLrun (g : BitVec 6) (i : BitVec 18) (s : State) : Host.Outcome State Fault Refusal :=
  stemWord { ins := .lrun g i, srcs := [g] } s (fun d v t =>
    let b := sections t d
    let e := (b.2.2.1.toNat + 12 * ((opAt v 0).toNat + i.toNat)) % 2 ^ 56
    let bad := decide (b.2.2.2.toNat ≤ e ∨ e < b.2.2.1.toNat)
    let full := decide (4 ≤ (leafCtx d).queue.length)
    if bad && (decide (g.toNat < 48) || !full) then .trap cFetch (BitVec.ofNat 64 e) 0 []
    else if full then .wait .lrunQueue t
    else
      let q : LaunchEnt := { entry := BitVec.ofNat 56 e, regs := copyG d, fmode := d.fmode.setWidth 7, clo := ((clEntries t t.cur).filter (fun x => !x.2.leaf)).map (·.1) }
      .ok (post (putDrill t t.cur (onLeaf d (fun c => { c with queue := c.queue ++ [q] }))) (.routineStart t.cur)) 0 none)
/-- LWAIT (spec 06, R126). -/
def execLwait (s : State) : Host.Outcome State Fault Refusal :=
  stemWord { ins := .lwait } s (fun d _ t => if lqstat (leafCtx d) = 0 then .ok t 0 none else .wait .lwait t)
/-- HCNT (spec 06, R128). -/
def execHcnt (d : BitVec 6) (h : BitVec 5) (s : State) : Host.Outcome State Fault Refusal :=
  stemWord { ins := .hcnt d h, dst := some d } s (fun dr _ t =>
    .ok t (if hoseCode dr h.toNat = 0 then BitVec.allOnes 64 else BitVec.ofNat 64 (hoseQ t dr h.toNat).length) none)
/-- The status word of HTRY (spec 06, R129, Table 6.9; 11, R217). -/
def htryWord (s : State) (d : Drill) (h : Nat) : Word :=
  let held := (hoseQ s d h).length
  let free := hoseDepth h - held
  if hoseCode d h = 0 then 0
  else
    let leaf := decide (16 ≤ h)
    BitVec.ofNat 64 (min free 255 * 65536 + min held 255 * 256 + 4 + (if hoseGrants d leaf true h ∧ 0 < free then 2 else 0)
      + (if hoseGrants d leaf false h ∧ 0 < held then 1 else 0))
/-- HTRY (spec 06, R128). -/
def execHtry (d : BitVec 6) (h : BitVec 5) (s : State) : Host.Outcome State Fault Refusal :=
  stemWord { ins := .htry d h, dst := some d } s (fun dr _ t => .ok t (htryWord t dr h.toNat) none)

/-! ## System registers (spec 01, Table 1.3; 23, Table 23.2; 21, Table 21.2; 25, Table 25.2) -/

/-- CLSTAT of a drill (spec 16, R293, Table 16.2). -/
def clstat (s : State) (slot : Nat) (d : Drill) : Nat :=
  let es := clEntries s slot
  (if d.ovf then 2 ^ 24 else 0) + (es.filter (fun e => decide (e.2.state = 2))).length * 65536 + (es.filter (fun e => decide (e.2.state = 1))).length * 256
/-- PLACE of a slot (spec 21, Table 21.1). -/
def placeWord (slot : Nat) (twin : Bool) : Nat :=
  let core := coreOf slot % 48
  (if twin ∧ core % 2 = 1 then 8192 else 0) + (if twin then 4096 else 0) + dieOf slot * 1024 + clusterOf slot % 4 * 256 + core
/-- Word n of a split table entry (spec 09, Table 9.1). -/
def splitWord (e : SplitEntry) (n : Nat) : Word :=
  if n = 0 then BitVec.ofNat 64 (e.state.toNat * 2 ^ 60 + e.depth.toNat * 2 ^ 56 + e.pc.toNat)
  else if n = 1 then BitVec.ofNat 64 (e.em.toNat * 2 ^ 32 + e.sm.toNat)
  else if n = 2 then e.rj.setWidth 64
  else if n ≤ 10 then (if n - 3 < e.depth.toNat then (tabGet 0 e.rs (n - 3)).setWidth 64 else 0)
  else 0
/-- Word n of an entry written (spec 23, R386): return words at or above DEPTH are discarded, and a change of DEPTH clears those it
leaves or admits. -/
def splitPut (e : SplitEntry) (n : Nat) (x : Word) : SplitEntry :=
  if n = 0 then
    let dep : BitVec 4 := x.extractLsb' 56 4
    { e with state := x.extractLsb' 60 3, depth := dep, pc := x.setWidth 56, rs := e.rs.filter (fun r => decide (r.1 < dep.toNat ∧ r.1 < e.depth.toNat)) }
  else if n = 1 then { e with em := x.extractLsb' 32 32, sm := x.setWidth 32 }
  else if n = 2 then { e with rj := x.setWidth 32 }
  else if n ≤ 10 ∧ n - 3 < e.depth.toNat then { e with rs := tabSet 0 e.rs (n - 3) (x.setWidth 56) }
  else e
/-- LQDATA: word n of held queue entry k (spec 23, R386). -/
def queueWord (c : LeafCtx) (k n : Nat) : Word :=
  match c.queue[k]? with
  | none => 0
  | some q => if n = 0 then q.entry.setWidth 64 else if n ≤ 16 then tabGet 0 q.regs (n - 1) else if n = 17 then q.fmode.setWidth 64 else 0
def queuePut (c : LeafCtx) (k n : Nat) (x : Word) : LeafCtx :=
  match c.queue[k]? with
  | none => c
  | some q =>
    let q' : LaunchEnt := if n = 0 then { q with entry := x.setWidth 56 } else if n ≤ 16 then { q with regs := tabSet 0 q.regs (n - 1) x }
      else if n = 17 then { q with fmode := x.setWidth 7 } else q
    { c with queue := c.queue.set k q' }
/-- ULQSTAT written: the count of held queue entries (spec 23, R386). -/
def queueCount (c : LeafCtx) (n : Nat) : LeafCtx :=
  if 4 < n then c else { c with queue := c.queue.take n ++ List.replicate (n - c.queue.length) ({} : LaunchEnt) }

/-- The value of a system register; `none` for an unassigned index. -/
def sysRead (s : State) (slot : Nat) (d : Drill) (n : Nat) : Option Word :=
  let j := jobAt s d.job
  let nat (x : Nat) : Option Word := some (BitVec.ofNat 64 x)
  if n = 0x000 then some (d.fmode.setWidth 64)
  else if n = 0x001 then some (d.role.setWidth 64)
  else if n = 0x002 then some d.hmap
  else if n = 0x003 then nat d.dt
  else if n = 0x004 then nat d.lease
  else if n = 0x005 then nat (clstat s slot d)
  else if n = 0x006 then nat (if d.super then 1 else 0)
  else if n = 0x007 then some (d.live.setWidth 64)
  else if n = 0x008 then nat (lqstat (leafCtx d))
  else if n = 0x009 then some (d.sbase.setWidth 64)
  else if n = 0x00A then some (d.slim.setWidth 64)
  else if n = 0x00B then some (d.lbase.setWidth 64)
  else if n = 0x00C then some (d.llim.setWidth 64)
  else if n = 0x00D then nat (placeWord slot d.twin)
  else if 0x010 ≤ n ∧ n ≤ 0x013 then nat (ocGet d (n - 0x010))
  else if n = 0x100 then some (d.tcause.setWidth 64)
  else if n = 0x101 then some d.tval
  else if n = 0x102 then some (d.tmask.setWidth 64)
  else if n = 0x103 then some d.tepc
  else if n = 0x104 then some (d.tstat.setWidth 64)
  else if n = 0x105 then some (j.tvec.setWidth 64)
  else if n = 0x106 then some d.tscr
  else if n = 0x107 then some (d.tkill.setWidth 64)
  else if n = 0x108 then some (j.ksbase.setWidth 64)
  else if n = 0x109 then some (j.kslim.setWidth 64)
  else if n = 0x10A then some (j.klbase.setWidth 64)
  else if n = 0x10B then some (j.kllim.setWidth 64)
  else if n = 0x110 then some (d.spsel.setWidth 64)
  else if n = 0x111 then some (splitWord (splitAt d.user (d.spsel.toNat / 16)) (d.spsel.toNat % 16))
  else if n = 0x112 then nat d.user.run
  else if n = 0x113 then some (d.lqsel.setWidth 64)
  else if n = 0x114 then some (queueWord d.user (d.lqsel.toNat / 32) (d.lqsel.toNat % 32))
  else if n = 0x115 then nat (lqstat d.user)
  else if n = 0x116 then some d.save
  else if 0x120 ≤ n ∧ n ≤ 0x13F then some (tabGet 0 d.tea (n - 0x120))
  else if 0x140 ≤ n ∧ n ≤ 0x14F then some (sGet d.user (n - 0x140))
  else none

/-- Whether a level may write an index (spec 01, Table 1.3; 23, Table 23.2). -/
def sysMayWrite (super : Bool) (n : Nat) : Bool :=
  decide (n = 0x000) || (super && (decide (n = 0x001 ∨ n = 0x002 ∨ n = 0x003) || decide (0x010 ≤ n ∧ n ≤ 0x013)
    || decide (n = 0x103 ∨ n = 0x104 ∨ n = 0x106 ∨ n = 0x107 ∨ n = 0x110 ∨ n = 0x111 ∨ n = 0x112 ∨ n = 0x113 ∨ n = 0x114 ∨ n = 0x115)
    || decide (0x140 ≤ n ∧ n ≤ 0x14F)))
/-- Whether a level may read an index. -/
def sysMayRead (super : Bool) (n : Nat) : Bool := super || decide (n < 0x100)

/-- FMODE written: RM keeps its value for a reserved code, reserved bits stay 0 (spec 05, R92). -/
def fmodePut (old x : BitVec 32) : BitVec 32 :=
  let y := x &&& 0x00FF007F
  if x.toNat % 8 < 6 then y else (y &&& 0xFFFFFFF8) ||| (old &&& 7)
/-- TSTAT written: PPRIV keeps its value for a reserved code (spec 23, R386). -/
def tstatPut (old x : BitVec 32) : BitVec 32 :=
  let y := x &&& 0x0000EF03
  if x.toNat % 4 < 2 then y else (y &&& 0xFFFFFFFC) ||| (old &&& 3)

/-- A system register written (spec 06, R130; 01, R27; 23, R386). -/
def sysWrite (d : Drill) (n : Nat) (x : Word) : Drill :=
  let u (f : LeafCtx → LeafCtx) : Drill := { d with user := f d.user }
  if n = 0x000 then { d with fmode := fmodePut d.fmode (x.setWidth 32) }
  else if n = 0x001 then { d with role := x.setWidth 32 &&& 3 }
  else if n = 0x002 then { d with hmap := x }
  else if n = 0x003 then { d with dt := max d.dt (x.toNat % 2 ^ 48) }
  else if 0x010 ≤ n ∧ n ≤ 0x013 then ocPut d (n - 0x010) (x.toNat % 256)
  else if n = 0x103 then { d with tepc := x }
  else if n = 0x104 then { d with tstat := tstatPut d.tstat (x.setWidth 32) }
  else if n = 0x106 then { d with tscr := x }
  else if n = 0x107 then { d with tkill := x.setWidth 32 }
  else if n = 0x110 then { d with spsel := x.setWidth 32 &&& 0xFF }
  else if n = 0x111 then u (fun c => putSplit c (d.spsel.toNat / 16) (splitPut (splitAt c (d.spsel.toNat / 16)) (d.spsel.toNat % 16) x))
  else if n = 0x112 then u (fun c => { c with run := x.toNat % 16 })
  else if n = 0x113 then { d with lqsel := x.setWidth 32 &&& 0x7F }
  else if n = 0x114 then u (fun c => queuePut c (d.lqsel.toNat / 32) (d.lqsel.toNat % 32) x)
  else if n = 0x115 then u (fun c => queueCount c (x.toNat % 8))
  else if 0x140 ≤ n ∧ n ≤ 0x14F then u (fun c => sPut c (n - 0x140) x)
  else d

/-- SYSR (spec 06, R130; 01, R26). -/
def execSysr (d : BitVec 6) (i : BitVec 12) (s : State) : Host.Outcome State Fault Refusal :=
  stemWord { ins := .sysr d i, dst := some d } s (fun dr _ t =>
    match sysRead t t.cur dr i.toNat with
    | none => .trap cIllegal (stemBits (.sysr d i)) 0 []
    | some x => if sysMayRead dr.super i.toNat then .ok t x none else .trap cPrivilege (stemBits (.sysr d i)) 0 [])
/-- SYSW (spec 06, R130, R131; 11, R222). -/
def execSysw (a : BitVec 6) (i : BitVec 12) (s : State) : Host.Outcome State Fault Refusal :=
  stemWord { ins := .sysw a i, srcs := [a] } s (fun dr v t =>
    match sysRead t t.cur dr i.toNat with
    | none => .trap cIllegal (stemBits (.sysw a i)) 0 []
    | some _ =>
      if sysMayWrite dr.super i.toNat then
        let t1 := putDrill t t.cur (sysWrite dr i.toNat (opAt v 0))
        .ok (if i = 0x002 ∧ dr.leafWait = .hose then post t1 (.parkedWordRetest t.cur true) else t1) 0 none
      else .trap cPrivilege (stemBits (.sysw a i)) 0 [])

/-! ## Trap, return, yield and exit -/

/-- TRAP: the software trap at user level, returning to the word after it; a firmware call at supervisor level
(spec 06, R132; 23, R387). -/
def execTrap (i : BitVec 18) (s : State) : Host.Outcome State Fault Refusal :=
  stemWord { ins := .trap i } s (fun d _ t =>
    if d.super then .wait (.halted true) (notify t (.firmwareCall t.cur (i.setWidth 64)))
    else .ok t 0 none)
  |> fun o => match o, drillAt s s.cur with
    | .next t, some d => if d.super then .next t else .next (match drillAt t t.cur with
        | some e => raise t t.cur { cause := causeWord false cTrap, tval := i.setWidth 64, epc := e.pc }
        | none => t)
    | o, _ => o

/-- The held context passes the checks of R383 step 2 once the lanes of TKILL are gone (spec 09, R176). -/
def heldOk (live : LaneMask) (c : LeafCtx) : Bool :=
  c.splits.all (fun e => decide (e.2.state.toNat ≤ 4 ∧ e.2.depth.toNat ≤ 8 ∧ e.2.em &&& e.2.sm = e.2.em))
  && (c.splits.foldl (fun (a : Bool × LaneMask) e => if e.2.state = 0 then a else (a.1 && decide (a.2 &&& e.2.sm = 0), a.2 ||| e.2.sm)) (true, 0)).1
  && (!routineRuns c || decide (c.splits.foldl (fun a e => if e.2.state = 0 then a else a ||| e.2.sm) (0 : LaneMask) = live))

/-- The return itself: level, PC, held context and hidden wait state (spec 23, R383, R386). -/
def eretDrill (d : Drill) : Drill :=
  let d1 := commitAll (dropLanes d d.tkill)
  let kind : BitVec 3 := d.tstat.extractLsb' 9 3
  let dest : VAddr := d.tepc.setWidth 56
  { d1 with tkill := 0, super := decide (d.tstat.toNat % 4 = 1), pc := dest, stemWait := .none, leafWait := .none, wake := bitOf d.tstat.toNat 8, wkind := kind }

/-- ERET (spec 06, R133; 23, R383, R393). A pending pre-emption or matrix-error trap is taken at the first boundary (R384). -/
def execEret (s : State) : Host.Outcome State Fault Refusal :=
  match drillAt s s.cur with
  | none => .next s
  | some d =>
    if !d.super then .next (stemTrap s s.cur cPrivilege (stemBits .eret))
    else if bitOf d.tstat.toNat 15 then .next (post (stemPark s s.cur .unbind) (.unbind s.cur))
    else if lqstat d.sup ≠ 0 then .next (stemPark s s.cur .lwait)
    else if !heldOk (d.live &&& ~~~d.tkill) (ctxDrop d.user d.tkill) then .next (stemTrap s s.cur d.tcause.toNat d.tval)
    else
      let s1 := putDrill s s.cur (eretDrill d)
      let s2 := if d.merr.isSome then post s1 (.matrixErrorTrap s.cur) else s1
      let s3 := if d.preempt.isSome then post s2 (.preemptionTrap s.cur) else s2
      .next (if routineRuns d.user then endRoutine s3 s.cur else if d.user.queue.isEmpty then s3 else post s3 (.routineStart s.cur))

/-- A stream is inside a word that has stored, or that waits for an answer from outside the cluster: the word goes on to its end. -/
def midWord (s : State) (slot : Nat) (d : Drill) (leaf : Bool) : Bool :=
  d.got.any (fun g => decide (g.leaf = leaf) && g.wrote) || s.remotes.any (fun r => decide (r.2.slot = slot ∧ r.2.leaf = leaf ∧ r.2.kind ≤ 1))
/-- A trap has fallen due or the drill is killed: no new word issues (spec 23, R381; 10, R211). -/
def stopping (s : State) (slot : Nat) (d : Drill) (leaf : Bool) : Bool := (d.due.isSome || d.killed) && !midWord s slot d leaf
/-- The cores of a job stop while its record ring is full, and those of a failed die for good (spec 24, R406; 26, R422). -/
def barred (s : State) (slot : Nat) (d : Drill) : Bool := ringFull (jobAt s d.job) || (dieAt s (dieOf slot)).failed
/-- Whether a stream of a drill has an instruction that may issue. -/
def stemReady (s : State) (slot : Nat) (d : Drill) : Bool := decide (d.stemWait = .none) && !stopping s slot d false && d.yields.isEmpty && !barred s slot d
def leafReady (s : State) (slot : Nat) (d : Drill) : Bool := decide (d.leafWait = .none) && !stopping s slot d true && decide ((runSplit (leafCtx d)).state = 2)
  && (match d.stemWait with | .barw .. => false | .xyield .. => false | .pool .. => false | .halted _ => false | .unbind => false | _ => true) && !barred s slot d
def drillReady (s : State) (slot : Nat) (d : Drill) : Bool := stemReady s slot d || leafReady s slot d
/-- The other drills of a core that are ready. -/
def readyOthers (s : State) (slot : Nat) : List Nat :=
  (s.drills.filter (fun e => decide (coreOf e.1 = coreOf slot ∧ e.1 ≠ slot) && drillReady s e.1 e.2)).map (·.1)
/-- YIELD (spec 06, R134): the stem waits for one instruction of every other ready drill of its core. -/
def execYield (s : State) : Host.Outcome State Fault Refusal :=
  stemWord { ins := .yield } s (fun d _ t => .ok (putDrill t t.cur { d with yields := readyOthers t t.cur }) 0 none)
/-- A drill that issued, or ceased to be ready, no longer holds back those that yielded to it. -/
def noteIssue (s : State) (slot : Nat) : State :=
  { s with drills := s.drills.map (fun e => if e.2.yields.isEmpty then e else
      (e.1, { e.2 with yields := e.2.yields.filter (fun k => decide (k ≠ slot) && (match drillAt s k with | some d => drillReady s k d | none => false)) })) }
/-- EXIT (spec 06, R135): the stem stays at the word and fetches no further one, and the drill retires when its leaf work and counters are done (R36). -/
def execExit (s : State) : Host.Outcome State Fault Refusal :=
  stemWord { ins := .exit } s (fun d _ t => .ok (post (putDrill t t.cur (commitAll { d with stemWait := .exited })) (.drillRetire t.cur)) 0 (some (d.pc.setWidth 64)))

end Sys2Proof.Machine
end

