-- ==== Sys2Proof/Machine/Life.lean ====
section
/-!
DEFINITION. The life of a drill: bind and restore, retirement, cancel, pre-emption, unbind, firmware, the leaf routine's start, fetch faults,
job end, ownership and snapshots (spec 01, R18, R34 to R36; 10, R202, R203, R211; 23, R381 to R394; 24, R402 to R404). -/
namespace Sys2Proof.Machine

/-! ## The slot table (spec 10, R202, R203) -/

def slotRec (s : State) (slot : Nat) : Word × Word × Word × Word := tabGet (0, 0, 0, 0) (dieAt s (dieOf slot)).slots (slot % 3072)
def slotPut (s : State) (slot : Nat) (r : Word × Word × Word × Word) : State := onDie s (dieOf slot) (fun d => { d with slots := tabSet (0, 0, 0, 0) d.slots (slot % 3072) r })
def recordV (r : Word × Word × Word × Word) : Bool := bitOf r.1.toNat 56
/-- A record with V = 0. -/
def withoutV (r : Word × Word × Word × Word) : Word × Word × Word × Word := (r.1 &&& ~~~(BitVec.ofNat 64 (2 ^ 56)), r.2)
/-- The hub clears V and posts slot-free. -/
def freeSlot (s : State) (slot : Nat) : State := notify (slotPut s slot (withoutV (slotRec s slot))) (.slotFree slot)
/-- First unit and number of units of a record. -/
def unitsOf (w1 : Word) : Nat × Nat := (bitsOf w1.toNat 42 8, bitsOf w1.toNat 37 5)
/-- The valid slots of a core, but for one. -/
def otherSlots (s : State) (slot : Nat) : List Nat := ((below 16).map (fun c => 16 * coreOf slot + c)).filter (fun k => decide (k ≠ slot) && recordV (slotRec s k))
/-- A record is in its ranges and takes units that no other valid slot of the core has. -/
def recordFits (s : State) (slot : Nat) (w1 : Word) : Bool :=
  let (b, n) := unitsOf w1
  decide (bitsOf w1.toNat 50 14 = 0 ∧ 1 ≤ n ∧ n ≤ 30 ∧ b + n ≤ 256)
  && (otherSlots s slot).all (fun k => let (c, m) := unitsOf (slotRec s k).2.1; decide (b + n ≤ c ∨ c + m ≤ b))

/-! ## Owners (spec 24, R402) -/

/-- What a core gives to a job that did not own it is zeroed: the register-file units that p accepts, the bench with its tags, the tiles and
the espaliers, and its banks are awake (spec 31, R465). The registers of a new drill are zero (R35), so units change their owner only. -/
def zeroFor (s : State) (core job : Nat) (p : Nat → Bool) : State :=
  onCore s core (fun c =>
    let c1 := { c with power := [], ownRegs := ((below 256).filter p).foldl (fun t u => tabPut t u job) c.ownRegs }
    let c2 := if c1.ownBench = some job then c1 else { c1 with ownBench := some job, bench := [], benchPsn := [], tags := [] }
    let c3 := if c2.ownTiles = some job then c2 else { c2 with ownTiles := some job, tiles := [] }
    if c3.ownEsp = some job then c3 else { c3 with ownEsp := some job, esp := [], espTy := [] })
/-- OWNER_ZEROING: every unit that no valid slot has passes with the rest. -/
def execOwnerZeroing (core job : Nat) (s : State) : Host.Outcome State Fault Refusal :=
  let used (u : Nat) : Bool := (below 16).any (fun c => let r := slotRec s (16 * core + c); let (b, n) := unitsOf r.2.1; recordV r && decide (b ≤ u ∧ u < b + n))
  .next (zeroFor s core job (fun u => !used u))

/-! ## Memory as a hub writes it for a job -/

/-- n bytes of x at a job's virtual address, line by line; a page that does not translate is left alone. -/
def hubWrite (s : State) (core job va n x : Nat) : State :=
  (upFrom (va / 128) ((va + n + 127) / 128 - va / 128)).foldl (fun t l =>
    let lo := max va (128 * l)
    let hi := min (va + n) (128 * l + 128)
    match translateNow t core job true .store lo with
    | (.hit pa _, u) => coherentWrite u pa (hi - lo) (bitsOf x (8 * (lo - va)) (8 * (hi - lo)))
    | (_, u) => u) s
/-- The address of a drill's save area (Table 10.4). -/
def saveOf (w3 : Word) : Nat := bitsOf w3.toNat 16 48 * 256
/-- Places of a bed channel in a save area: offset of entry k, its bytes (Table 23.3). -/
def channelAt (h k : Nat) : Nat × Nat := if h < 16 then (0x200 + 128 * (h - 8) + 8 * k, 8) else (0x600 + 512 * (h - 16) + 128 * k, 128)
def channels : List Nat := upFrom 8 20
/-- The bed channels are spilled into a save area (R393). -/
def spillBed (s : State) (core job bed save : Nat) : State :=
  match objAt s bed with
  | none => s
  | some o =>
    let q (h : Nat) : List Vec := tabGet [] o.hoses h
    let s1 := hubWrite s core job (save + 0x100) 20 (packFields 8 (fun i => (q (8 + i)).length) 20)
    let s2 := channels.foldl (fun t h => (List.zip (below 16) (q h)).foldl (fun u e => let (a, n) := channelAt h e.1; hubWrite u core job (save + a) n e.2.toNat) t) s1
    onObj s2 bed (fun b => { b with hoses := [], released := true })
/-- The bed channels are filled again from a save area. -/
def refillBed (s : State) (core job bed save : Nat) : State :=
  match hubRead s core job true save 0x1E00 with
  | .error _ => s
  | .ok (s1, x) =>
    let q (h : Nat) : List Vec := (below (min (bitsOf x (8 * (0x100 + (h - 8))) 8) (hoseDepth h))).map (fun k => let (a, n) := channelAt h k; BitVec.ofNat 1024 (bitsOf x (8 * a) (8 * n)))
    onObj s1 bed (fun b => { b with released := false, hoses := channels.foldl (fun t h => tabSet [] t h (q h)) [] })

/-! ## Bind and restore (spec 01, R35; 10, R203; 23, R394) -/

def bedOf (s : State) (launch index : Nat) : Option (Nat × Obj) := s.objs.find? (fun o => decide (o.2.lvl = 0 ∧ o.2.up = launch ∧ o.2.index = index))
/-- Field of a launch's record. -/
def launchField (o : Obj) (w lo n : Nat) : Nat := bitsOf (o.words.getD w 0).toNat lo n
/-- The launch that a record binds a drill of: released, live, with that bed, and the drill not in it already (log 3). -/
def bindLaunch (s : State) (job addr bed didx : Nat) (rest : Bool) : Option (Nat × Obj) :=
  s.objs.find? (fun l => decide (l.2.lvl = 1 ∧ l.2.job = job ∧ l.2.addr = addr ∧ bed < launchField l.2 4 0 32 ∧ didx < launchField l.2 4 32 6)
    && l.2.released && !l.2.cancelled && !l.2.complete
    && (match bedOf s l.1 bed with
      | none => true
      | some b => !b.2.complete && (if rest then !s.drills.any (fun d => decide (d.2.bed = b.1 ∧ d.2.didx = didx)) else decide (didx ∉ b.2.bound))))
/-- DT of a new drill (Table 1.4). -/
def firstDt (s : State) (slot : Nat) (l : Obj) : Nat := if l.dt ≠ 0 ∧ l.die = dieOf slot then l.dt else (dieAt s (dieOf slot)).hs + 1
/-- The drill of Table 1.4. -/
def newDrill (s : State) (slot : Nat) (l : Obj) (bed : Nat) (w : Word × Word × Word × Word) : Drill :=
  let a := w.1.toNat
  let b := w.2.1.toNat
  let sb := launchField l 1 0 56
  let lb := launchField l 2 0 56
  { job := bitsOf w.2.2.2.toNat 0 16, bed, didx := bitsOf b 32 5, prio := bitsOf a 59 3, budget := bitsOf b 37 5, twin := bitOf a 57,
    save := BitVec.ofNat 64 (saveOf w.2.2.2),
    g := tabSet 0 (tabSet 0 (tabSet 0 [] 1 (BitVec.ofNat 64 (bitsOf a 0 56))) 2 (BitVec.ofNat 64 (bitsOf b 0 32))) 3 (BitVec.ofNat 64 (bitsOf b 32 5)),
    pc := BitVec.ofNat 56 (launchField l 0 0 56), role := BitVec.ofNat 32 (bitsOf a 62 2), hmap := w.2.2.1, dt := firstDt s slot l,
    lease := (jobAt s (bitsOf w.2.2.2.toNat 0 16)).lease, live := BitVec.ofNat 32 (2 ^ launchField l 4 38 6 - 1),
    sbase := BitVec.ofNat 56 sb, slim := BitVec.ofNat 56 (sb + launchField l 3 0 32), lbase := BitVec.ofNat 56 lb, llim := BitVec.ofNat 56 (lb + launchField l 3 32 32),
    readyStem := s.cycle, readyLeaf := s.cycle }
/-- Another drill of a job is bound to the core of a slot. -/
def othersBound (s : State) (slot job : Nat) : Bool := s.drills.any (fun e => decide (e.1 ≠ slot ∧ coreOf e.1 = coreOf slot ∧ e.2.job = job))
/-- The changes of a restore (R394); none where the save area cannot be read. -/
def restoredDrill (s : State) (slot : Nat) (d : Drill) : Option (State × Drill) :=
  match hubRead s (coreOf slot) d.job true d.save.toNat 8 with
  | .error _ => none
  | .ok (s1, x) => some (s1, { d with
      super := true, tcause := 0x80000039, tval := d.save, dt := x, pc := (jobAt s1 d.job).tvec, tstat := if othersBound s1 slot d.job then 0 else 0x2000 })
/-- The bed of a launch, made when its first drill is bound. -/
def ensureBed (s : State) (slot job launch index : Nat) (l : Obj) : State × Nat :=
  match bedOf s launch index with
  | some b => (s, b.1)
  | none => newObj s { lvl := 0, job, die := dieOf slot, count := launchField l 4 32 6, up := launch, index }
/-- A drill's place in its bed and graph; a bed remembers the save area of its drill 0 in `addr`. -/
def joinBed (s : State) (bed graph didx save : Nat) : State :=
  match objAt s bed with
  | none => s
  | some b =>
    let s1 := if didx ∈ b.bound then s else onObj (onObj s bed (fun o => { o with bound := o.bound ++ [didx] })) graph (fun o => { o with liveDrills := o.liveDrills + 1 })
    if didx = 0 then onObj s1 bed (fun o => { o with addr := save }) else s1
/-- Work of another job that is still accepted at the core (spec 19, R349). -/
def twinBusy (s : State) (core job : Nat) : Bool := (coreAt s core).mq.any (fun m => m.twinHalf && decide (m.job ≠ job))
/-- BIND_RECORD_VALID: V changes from 0 to 1. -/
def execBindRecordValid (slot : Nat) (w0 w1 w2 w3 : Word) (s : State) : Host.Outcome State Fault Refusal :=
  let r := (w0, w1, w2, w3)
  let job := bitsOf w3.toNat 0 16
  let rest := bitOf w0.toNat 58
  let didx := bitsOf w1.toNat 32 5
  let index := bitsOf w1.toNat 0 32
  let bad : State := notify (slotPut s slot (withoutV r)) (.bindError slot)
  if recordV (slotRec s slot) || twinBusy s (coreOf slot) job then .next s
  else if !recordV r then .next (slotPut s slot r)
  else if !recordFits s slot w1 then .next bad
  else match bindLaunch s job (bitsOf w0.toNat 0 56) index didx rest with
    | none => .next bad
    | some (li, l) =>
      let (b, n) := unitsOf w1
      let s1 := zeroFor s (coreOf slot) job (fun u => decide (b ≤ u ∧ u < b + n))
      let (s2, bed) := ensureBed s1 slot job li index l
      let d := newDrill s2 slot l bed r
      match (if rest then restoredDrill s2 slot d else some (s2, d)) with
      | none => .next bad
      | some (s3, d1) =>
        let fresh := (bedOf s li index).isNone
        let first := !s3.drills.any (fun e => decide (e.2.bed = bed))
        let s4 := joinBed (slotPut s3 slot r) bed l.up didx (saveOf w3)
        let s5 := if rest && fresh then onObj s4 bed (fun o => { o with released := true }) else s4
        let s6 := match objAt s5 bed with
          | some o => if rest && first && o.released && decide (didx = 0 ∨ o.addr ≠ 0) then refillBed s5 (coreOf slot) job bed o.addr else s5
          | none => s5
        let pa := (match translateNow s6 (coreOf slot) job true .load d.save.toNat with | (.hit p _, _) => p | _ => 0)
        let s7 := if rest then onJob (onDie s6 (dieOf slot) (fun x => { x with saves := x.saves.filter (fun a => decide (a ≠ pa)) })) job (fun j => { j with saves := j.saves.filter (fun a => decide (a ≠ pa)) }) else s6
        .next (putDrill s7 slot d1)

/-! ## Retirement (spec 01, R36; 06, R135) -/

/-- Every counter of a drill reads zero. -/
def countersZero (d : Drill) : Bool := d.oc.all (fun c => decide (c.2 = 0))
/-- Stores and accesses of a drill that are on their way. -/
def underWay (s : State) (slot : Nat) : Bool := s.stores.any (fun p => decide (p.2.slot = slot)) || s.remotes.any (fun r => decide (r.2.slot = slot))
/-- A drill leaves its slot. -/
def leaveSlot (s : State) (slot : Nat) : State :=
  let s1 := dropEntries (withdraw s slot) slot (fun _ => true)
  freeSlot { s1 with drills := tabDel s1.drills slot } slot
/-- A retired drill is counted in its bed and its graph (R190, R197; spec 15, R283). -/
def countRetired (s : State) (d : Drill) : State :=
  let stamp := max d.dt d.pstamp
  let graph := ancestor s 2 d.bed
  let s1 := onObj (stampObj s d.bed stamp) d.bed (fun o => { o with count := o.count - 1 })
  let s2 := match graph with | some g => onObj s1 g (fun o => { o with liveDrills := o.liveDrills - 1 }) | none => s1
  let s3 := bedDone s2 d.bed
  match graph with | some g => graphDone s3 g | none => s3
/-- DRILL_RETIRE. -/
def execDrillRetire (slot : Nat) (s : State) : Host.Outcome State Fault Refusal :=
  match drillAt s slot with
  | none => .next s
  | some d =>
    if d.stemWait = .exited ∧ lqstat (leafCtx d) = 0 ∧ countersZero d ∧ !underWay s slot then .next (raiseLines (countRetired (leaveSlot s slot) d))
    else .next s

/-! ## Cancel (spec 10, R211) -/

/-- Commands of a killed drill that have not started are dropped, and one that moves through a port ends (R211; spec 18, R321). -/
def dropCopies (s : State) (slot : Nat) : State :=
  let gone := (engineQ s slot).filter (fun c => decide (c.slot = slot) && !finished c)
  let s1 := engineSet s slot ((engineQ s slot).filter (fun c => decide (c.slot ≠ slot) || finished c))
  let s2 := gone.foldl (fun t c => onDrill t slot (fun d => ocPut d c.cls (ocGet d c.cls - 1))) s1
  postAll s2 ((engineQ s2 slot).map (fun c => Msg.copyRetire c.slot c.cls))
/-- A killed drill stops: its lanes leave, its hoses and cloche entries are discarded, and it retires once its counters read 0. -/
def killNow (s : State) (slot : Nat) : State :=
  let s1 := dropCopies (dropEntries (withdraw s slot) slot (fun _ => true)) slot
  post (onDrill s1 slot (fun d =>
    let e := dropLanes (commitAll d) d.live
    { e with killed := true, hoses := [], user := {}, sup := {}, stemWait := .exited, leafWait := .none, due := none, merr := none, preempt := none, yields := [] })) (.drillRetire slot)
/-- Whether a drill may stop here: no word of it is half performed. -/
def atBoundary (s : State) (slot : Nat) (d : Drill) : Bool := !midWord s slot d false && !midWord s slot d true
/-- A cancel reaches a drill. -/
def killDrill (s : State) (slot : Nat) : State :=
  match drillAt s slot with
  | none => s
  | some d => if atBoundary s slot d then killNow s slot else putDrill s slot { d with killed := true }
/-- A bed is cancelled: its bound drills are killed, its saved and unbound ones no longer count, its channels are discarded. -/
def cancelBed (s : State) (bed : Nat) : State :=
  match objAt s bed with
  | none => s
  | some o =>
    if o.complete then s
    else
      let live := (s.drills.filter (fun e => decide (e.2.bed = bed))).map (·.1)
      let size := match objAt s o.up with | some l => launchField l 4 32 6 | none => 0
      let saved := o.bound.length - (size - o.count) - live.length
      let s1 := match ancestor s 2 bed with | some g => onObj s g (fun x => { x with liveDrills := x.liveDrills - saved }) | none => s
      let s2 := onObj s1 bed (fun x => { x with cancelled := true, count := live.length, hoses := [], released := false })
      bedDone (live.foldl killDrill s2) bed
/-- A launch is cancelled: the beds that have drills remain to be counted. -/
def cancelLaunch (s : State) (i : Nat) : State :=
  match objAt s i with
  | none => s
  | some o =>
    if o.complete then s
    else
      let beds := (s.objs.filter (fun b => decide (b.2.lvl = 0 ∧ b.2.up = i) && !b.2.complete)).map (·.1)
      let s1 := onObj s i (fun x => { x with cancelled := true, count := beds.length })
      launchDone (beds.foldl cancelBed s1) i
/-- The launches that p accepts are cancelled. -/
def cancelLaunches (s : State) (p : Obj → Bool) : State := ((s.objs.filter (fun o => decide (o.2.lvl = 1) && p o.2)).map (·.1)).foldl cancelLaunch s
/-- Stakes of a job end (spec 12, R250). -/
def endStakes (s : State) (job : Nat) : State :=
  { s with clusters := s.clusters.map (fun c => (c.1, { c.2 with tiles := c.2.tiles.map (fun t => if t.2.staked = some job then (t.1, { t.2 with staked := none }) else t) })) }
/-- An object is cancelled with all it contains. -/
def cancelObj (s : State) (i : Nat) : State :=
  match objAt s i with
  | none => s
  | some o =>
    if o.complete then s
    else
      let s1 := onObj s i (fun x => { x with cancelled := true })
      if o.lvl = 0 then cancelBed s1 i
      else if o.lvl = 1 then cancelLaunch s1 i
      else if o.lvl = 2 then graphDone (cancelLaunches s1 (fun l => decide (l.up = i))) i
      else if o.lvl = 3 then phaseOver (cancelLaunches s1 (fun l => decide (l.phase = i))) i
      else
        let phases := (s1.objs.filter (fun p => decide (p.2.lvl = 3 ∧ p.2.job = o.job) && !p.2.complete && !p.2.root)).map (·.1)
        let s2 := phases.foldl (fun t p => onObj t p (fun x => { x with cancelled := true })) s1
        jobDone (phases.foldl phaseOver (cancelLaunches (endStakes s2 o.job) (fun l => decide (l.job = o.job)))) o.job
/-- CANCEL (R211). -/
def execCancel (a : BitVec 6) (l : BitVec 3) (s : State) : Host.Outcome State Fault Refusal :=
  stemWord { ins := .cancel a l, srcs := [a], priv := decide (l = 4) } s (fun dr v t =>
    match resolveFor t dr l.toNat (opAt v 0).toNat with
    | .bad => .trap cHandle (opAt v 0) 0 []
    | .stale => .ok t 0 none
    | .obj i => .ok (cancelObj t i) 0 none)
/-- GARDENER_CANCEL: the bed of a drill is cancelled through the hub. -/
def execGardenerCancel (slot : Nat) (s : State) : Host.Outcome State Fault Refusal :=
  match drillAt s slot with
  | none => .next s
  | some d => .next (cancelObj s d.bed)

/-! ## Pre-emption (spec 23, R384, R390 to R392; 01, R34) -/

/-- An outstanding command of the drill names one of its engine ports. -/
def portBusy (s : State) (slot : Nat) : Bool := (engineQ s slot).any (fun c => decide (c.slot = slot) && (portOf c).isSome)
/-- No holding condition of R390 remains. -/
def preemptFree (s : State) (slot : Nat) (d : Drill) : Bool :=
  !d.super && (d.wins.isEmpty || decide (64 ≤ d.heldIssues)) && decide (d.stemWait ≠ .retire) && !portBusy s slot && d.due.isNone && !d.killed && trapClear s slot d
/-- The wake of a parked stem is on its way (R392). -/
def wakeComing (s : State) (slot : Nat) (w : Wait) : Bool :=
  match w with
  | .hose => decide (Msg.parkedWordRetest slot false ∈ s.agenda)
  | .xyield .. => decide (Msg.xyieldWake slot ∈ s.agenda)
  | .phwait _ => decide (Msg.phwaitRelease slot ∈ s.agenda)
  | _ => false
/-- The pre-emption trap, where it may be taken. -/
def preemptNow (s : State) (slot : Nat) : State :=
  match drillAt s slot with
  | none => s
  | some d =>
    if d.preempt.isNone || !preemptFree s slot d then s
    else
      let extra : BitVec 32 := (if othersBound s slot d.job then 0 else 0x4000) ||| (if wakeComing s slot d.stemWait then 256 else 0)
      enterTrap (putDrill s slot { d with preempt := none, heldIssues := 0, deadline := d.preempt.getD 0 }) slot { cause := 0x80000038, tval := 0, epc := d.pc } extra
/-- What has fallen due at a boundary of a drill, in the order of R384. -/
def takePending (s : State) (slot : Nat) : State :=
  match drillAt s slot with
  | none => s
  | some d =>
    if d.killed then (if d.stemWait ≠ .exited ∧ atBoundary s slot d then killNow s slot else s)
    else if d.due.isSome then settleTrap s slot
    else match d.merr with
      | some fc => if d.super then s else raise (putDrill s slot { d with merr := none }) slot { cause := BitVec.ofNat 32 (2 ^ 29 + cMatrix), tval := BitVec.ofNat 64 fc, epc := d.pc }
      | none => preemptNow s slot
/-- After a word of a stream: what is due is taken, and drills that yielded hear of the issue. -/
def boundary (s : State) (slot : Nat) : State := noteIssue (takePending s slot) slot
/-- PREEMPT_COMMAND (R390). -/
def execPreemptCommand (slot deadline : Nat) (s : State) : Host.Outcome State Fault Refusal :=
  match drillAt s slot with
  | none => .next s
  | some d => .next (post (putDrill s slot { d with preempt := some deadline }) (.preemptionTrap slot))
/-- PREEMPTION_TRAP (R381, R390). -/
def execPreemptionTrap (slot : Nat) (s : State) : Host.Outcome State Fault Refusal := .next (takePending s slot)
/-- ASYNC_TRAP_HOLD_EXPIRY: after 64 words a window no longer holds the trap (R34). -/
def execAsyncTrapHoldExpiry (slot : Nat) (s : State) : Host.Outcome State Fault Refusal :=
  match drillAt s slot with
  | none => .next s
  | some d => if 64 ≤ d.heldIssues then .next (takePending s slot) else .next s

/-! ## Unbind, snapshots (spec 23, R393; 24, R404) -/

/-- Dirty private tiles of a job are written back; with `drop` they leave their slots (spec 12, R255; 24, R403). -/
def writeBackJob (s : State) (job : Nat) (drop : Bool) : State :=
  s.clusters.foldl (fun t c =>
    let mine := c.2.tiles.filter (fun x => decide (x.2.job = job))
    let dirty := mine.flatMap (fun x => x.2.lines.filter (fun y => decide (y.2.dirty ≠ 0) && !y.2.shared))
    let t1 := onCl t c.1 (fun k => { k with tiles := k.tiles.filterMap (fun x =>
      if x.2.job ≠ job then some x
      else if drop && !x.2.lines.isEmpty && x.2.lines.all (fun y => !y.2.shared) then none
      else some (x.1, { x.2 with lines := x.2.lines.map (fun y => (y.1, if y.2.shared then y.2 else { y.2 with have' := y.2.have' ||| y.2.dirty, dirty := 0 })) })) })
    dirty.foldl (fun u y => belowPut u y.1 y.2.dirty y.2.data y.2.psn) t1) s
/-- The bytes of a save area that the spec lays out (Table 23.3). -/
def hardwarePart : Nat := 0x2000
/-- The snapshot of a job none of whose drills is bound: the generation is written, and each save area is copied (log 44). -/
def takeSnapshot (s : State) (job : Nat) : State :=
  match (jobAt s job).snapping with
  | none => s
  | some region =>
    if s.drills.any (fun e => decide (e.2.job = job)) then s
    else
      let gen := (jobAt s job).snapGen + 1
      let s1 := writeBackJob s job false
      let saves := (jobAt s job).saves
      let s2 := saves.foldl (fun t a => coherentWrite t (a + 8) 8 gen) s1
      let s3 := (List.zip (below saves.length) saves).foldl (fun t e => coherentWrite t (region + hardwarePart * e.1) hardwarePart (freshRead t e.2 hardwarePart)) s2
      notify (onJob s3 job (fun j => { j with snapGen := gen, snapping := none })) (.snapshotDone job gen)
/-- UNBIND: ERET with UNB frees the slot once the counters read 0. A deadline that a retraining made it miss is reported (spec 27, R435). -/
def execUnbind (slot : Nat) (s : State) : Host.Outcome State Fault Refusal :=
  match drillAt s slot with
  | none => .next s
  | some d =>
    if d.stemWait ≠ .unbind ∨ !countersZero d ∨ underWay s slot then .next s
    else
      let core := coreOf slot
      let save := d.save.toNat
      let s1 := hubWrite s core d.job save 8 d.dt
      let last := !s1.drills.any (fun e => decide (e.1 ≠ slot ∧ e.2.bed = d.bed))
      let s2 := if last then spillBed s1 core d.job d.bed (match objAt s1 d.bed with | some o => o.addr | none => save) else s1
      let s3 := match translateNow s2 core d.job true .load save with
        | (.hit pa _, u) => onJob (onDie u (dieOf slot) (fun x => { x with saves := x.saves ++ [pa] })) d.job (fun j => { j with saves := j.saves ++ [pa] })
        | (_, u) => u
      let late := match d.retrained with | some k => if d.deadline ≠ 0 ∧ d.deadline < s3.cycle then notify s3 (.deadlineMissed (k / 2) (k % 2)) else s3 | none => s3
      .next (takeSnapshot (leaveSlot late slot) d.job)
/-- SNAPSHOT: every drill of the job is pre-empted; the copies follow when the last has unbound. -/
def execSnapshot (job region : Nat) (s : State) : Host.Outcome State Fault Refusal :=
  let s1 := onJob s job (fun j => { j with snapping := some region })
  let mine := s1.drills.filter (fun e => decide (e.2.job = job))
  .next (takeSnapshot (mine.foldl (fun t e => post (onDrill t e.1 (fun d => { d with preempt := some (d.preempt.getD 0) })) (.preemptionTrap e.1)) s1) job)

/-! ## Firmware, jobs -/

/-- FIRMWARE_RESUME: after a firmware call the stem goes on behind the TRAP, after a double fault at its word (R387). -/
def execFirmwareResume (slot : Nat) (scr : Option Word) (s : State) : Host.Outcome State Fault Refusal :=
  .next (onDrill s slot (fun d => match d.stemWait with
    | .halted call => { d with stemWait := .none, leafWait := (match d.leafWait with | .halted _ => .none | w => w), tscr := scr.getD d.tscr, pc := if call then d.pc + 4 else d.pc }
    | _ => d))
/-- A bench tile of a mapped region is written back through its virtual range, or stays where that fails translation (spec 17, R314). -/
def tileBack (s : State) (core k : Nat) (b : BenchMap) : Option State :=
  match translateNow s core b.job true .store (b.va.toNat + 2048 * k - b.off) with
  | (.hit pa tr, v) =>
    some ((below 16).foldl (fun u i =>
      let off := 2048 * k + 128 * i
      let psn : BitVec 4 := BitVec.ofNat 4 (packFields 1 (fun q => if off / 32 + q ∈ (coreAt u core).benchPsn then 1 else 0) 4)
      engineStoreLine u (16 * core) (pa / 128 + i) (pageShared v tr) (dieAt v (core / 192)).hs (BitVec.allOnes 128) (BitVec.ofNat 1024 (benchRead v core off 128)) psn)
      (engineClaim v (clusterOfCore core) tr))
  | _ => none
/-- The dirty tiles of a bench map entry are written back and the entry goes; tiles that fail translation stay dirty, the entry stays with
them, and the Gardener hears of it (spec 17, R314). -/
def mapWriteBack (s : State) (core idx : Nat) : State :=
  match tabFind (coreAt s core).bmap idx with
  | none => s
  | some b =>
    let (s1, left) := b.dirty.foldl (fun (a : State × List Nat) k => match tileBack a.1 core k b with | some u => (u, a.2) | none => (a.1, a.2 ++ [k])) (s, [])
    if left.isEmpty then onCore s1 core (fun c => { c with bmap := tabDel c.bmap idx })
    else notify (onCore s1 core (fun c => { c with bmap := tabPut c.bmap idx { b with dirty := left } })) (.benchWriteBack core idx)
/-- What a core has been given belongs to no job any more (spec 24, R402). -/
def disown (c : CoreSt) (job : Nat) : CoreSt :=
  let drop (o : Option Nat) : Option Nat := if o = some job then none else o
  { c with ownRegs := c.ownRegs.filter (fun u => decide (u.2 ≠ job)), ownBench := drop c.ownBench, ownTiles := drop c.ownTiles, ownEsp := drop c.ownEsp }
/-- JOB_END (R403; spec 12, R250; 17, R314; 10, Table 10.1): the job ends when its launches have. -/
def execJobEnd (job : Nat) (s : State) : Host.Outcome State Fault Refusal :=
  let maps := s.cores.flatMap (fun c => (c.2.bmap.filter (fun b => decide (b.2.job = job))).map (fun b => (c.1, b.1)))
  let s1 := maps.foldl (fun t m => mapWriteBack t m.1 m.2) s
  let s2 := writeBackJob (endStakes s1 job) job true
  let s2 := { s2 with cores := s2.cores.map (fun c => if s2.drills.any (fun d => decide (coreOf d.1 = c.1 ∧ d.2.job = job)) then c else (c.1, disown c.2 job)) }
  .next (jobDone (onObj s2 (jobAt s2 job).obj (fun o => { o with released := true })) job)

/-! ## The leaf stream and its waits (spec 01, R18; 06, R125, R126; 11, R220) -/

/-- ROUTINE_START: the head of the launch queue starts where no routine runs (R18; 09, R177). -/
def execRoutineStart (slot : Nat) (s : State) : Host.Outcome State Fault Refusal :=
  match drillAt s slot with
  | none => .next s
  | some d =>
    let c := leafCtx d
    if routineRuns c ∨ c.queue.isEmpty ∨ d.killed then .next s
    else
      let s1 := putDrill s slot { onLeaf d (fun x => startRoutine x d.live) with leafWait := .none, readyLeaf := s.cycle }
      let s2 := if d.stemWait = .lrunQueue then post s1 (.lrunQueueSlotFree slot) else s1
      .next (endRoutine s2 slot)
/-- LRUN_QUEUE_SLOT_FREE: the stalled LRUN issues again and takes its copies then. -/
def execLrunQueueSlotFree (slot : Nat) (s : State) : Host.Outcome State Fault Refusal := .next (onDrill s slot (fun d => if d.stemWait = .lrunQueue then { d with stemWait := .none } else d))
/-- LWAIT_RELEASE. -/
def execLwaitRelease (slot : Nat) (s : State) : Host.Outcome State Fault Refusal := .next (onDrill s slot (fun d => if d.stemWait = .lwait then { d with stemWait := .none } else d))
/-- PARKED_WORD_RETEST: the word issues again, and parks again where its condition does not hold. -/
def execParkedWordRetest (slot : Nat) (leaf : Bool) (s : State) : Host.Outcome State Fault Refusal :=
  .next (onDrill s slot (fun d => if leaf then (if d.leafWait = .hose then { d with leafWait := .none } else d) else (if d.stemWait = .hose then { d with stemWait := .none } else d)))

/-! ## Fetch (spec 02, R52; 03, R75; 01, R17; 23, R388) -/

/-- ILLEGAL_INSTRUCTION: a word that the decoder refuses. -/
def execIllegalInstruction (slot : Nat) (leaf : Bool) (word : BitVec 96) (s : State) : Host.Outcome State Fault Refusal :=
  .next (if leaf then leafTrap s slot cIllegal (BitVec.ofNat 64 (word.toNat / 2 ^ 32)) 0 [] else stemTrap s slot cIllegal (word.setWidth 64))
/-- INSTRUCTION_FETCH_FAULT: TVAL is the address fetched; a poisoned sector sets PSN, and TEA0 holds its address. -/
def execInstructionFetchFault (slot : Nat) (leaf : Bool) (addr : VAddr) (sector : Option Nat) (s : State) : Host.Outcome State Fault Refusal :=
  match drillAt s slot with
  | none => .next s
  | some d =>
    let psn := match sector with | some _ => 2 ^ 28 | none => 0
    let tea : Tab Word := match sector with | some p => [(0, BitVec.ofNat 64 p)] | none => []
    .next (raise s slot { cause := causeWord leaf (cFetch + psn), tval := addr.setWidth 64, tea, epc := d.pc })

end Sys2Proof.Machine
end

