-- ==== Sys2Proof/Machine/Pages.lean ====
section
/-!
DEFINITION. Pages: the first-touch pool, bench maps and migration (spec 17, R311, R313 to R317). -/
namespace Sys2Proof.Machine

/-- POOL_PAGE_ADD: a page joins its die's ring; the first load parked on that ring issues again and takes it (R311). -/
def execPoolPageAdd (die size pa : Nat) (s : State) : Host.Outcome State Fault Refusal :=
  let ring := tabGet [] (dieAt s die).pool size
  if 2 < size ∨ 4096 ≤ ring.length ∨ pa % 2 ^ shiftOf size ≠ 0 then .next s
  else
    let s1 := onDie s die (fun d => { d with pool := tabSet [] d.pool size (ring ++ [pa]) })
    match s1.drills.find? (fun e => match e.2.stemWait with | .pool d z _ => decide (d = die ∧ z = size) | _ => false) with
    | some e => .next (putDrill s1 e.1 { e.2 with stemWait := .none })
    | none => .next s1

/-- BENCH_MAP_WRITE: an entry written with present and dirty clear; an entry cleared is written back first (R313, R314). An entry outside the
bench, or one that is not aligned, is not written. -/
def execBenchMapWrite (core idx off len : Nat) (va : VAddr) (job : Nat) (s : State) : Host.Outcome State Fault Refusal :=
  if 8 ≤ idx then .next s
  else if len = 0 then .next (if (tabFind (coreAt s core).bmap idx).isSome then post s (.benchMapWriteback core idx) else s)
  else if off % 2048 ≠ 0 ∨ len % 2048 ≠ 0 ∨ va.toNat % 2048 ≠ 0 ∨ benchSize s core < off + len ∨ 2 ^ 56 < va.toNat + len then .next s
  else .next (onCore s core (fun c => { c with bmap := tabPut c.bmap idx { off, len, va, job } }))
/-- BENCH_MAP_WRITEBACK (R314). -/
def execBenchMapWriteback (core idx : Nat) (s : State) : Host.Outcome State Fault Refusal := .next (mapWriteBack s core idx)

/-! ## Migration -/

/-- Whether an address lies in the page that moves. -/
def inMove (m : Move) (pa : Nat) : Bool := decide (m.old ≤ pa ∧ pa < m.old + m.size)
/-- Accesses that used the page's old translation and are not yet performed. -/
def moveBusy (s : State) (m : Move) : Bool :=
  s.stores.any (fun p => inMove m (p.2.line * 128)) || s.remotes.any (fun r => decide (r.2.answer = none) && inMove m r.2.pa)
  || s.clusters.any (fun c => c.2.order.any (fun a => inMove m (a.2.2 * 2048)))
  || s.dies.any (fun d => d.2.busy.any (fun b => inMove m (b.1 * 128)))
/-- The tier and frame of an entry's word 1 replaced, LOCK cleared. -/
def movedWord (w frame tier : Nat) : Nat :=
  let keep := w - bitsOf w 63 1 * 2 ^ 63 - bitsOf w 61 2 * 2 ^ 61 - bitsOf w 16 36 * 2 ^ 16
  keep + tier * 2 ^ 61 + frame % 2 ^ 52
/-- The move ends: what waited on the page translates anew. -/
def moveEnd (s : State) (die : Nat) (m : Move) : State :=
  let s1 := onDie (dropPte s m.pte) die (fun d => { d with move := none })
  let s2 := s1.clusters.foldl (fun t c => c.2.engines.foldl (fun u e => postAll u (e.2.map (fun x => Msg.copyRetire x.slot x.cls))) t) s1
  let s3 := s2.cores.foldl (fun t c => if c.2.mq.isEmpty then t else post t (.matrixRetire c.1)) s2
  wake s3 (fun w => onLine w || decide (w = .retire) || (match w with | .shoot _ => true | _ => false))
/-- LOCK cleared and word 1 otherwise unchanged (R317). -/
def moveAbort (s : State) (die : Nat) (m : Move) : State :=
  let w := freshRead s (m.pte + 8) 8
  moveEnd (coherentWrite s (m.pte + 8) 8 (w - bitsOf w 63 1 * 2 ^ 63)) die m
/-- Commands that hold the old translation take the new one. -/
def retarget (s : State) (m : Move) (w : Word) : State :=
  let f (t : Trans) : Trans := if t.pte = some m.pte then { t with word1 := w, frame := m.frame } else t
  { s with clusters := s.clusters.map (fun c => (c.1, { c.2 with engines := c.2.engines.map (fun e => (e.1, e.2.map (fun x => { x with trans := x.trans.map f }))) })) }
/-- Steps 2 to 4 of R315 on a page whose accesses have all been performed. -/
def moveFinish (s : State) (die : Nat) (m : Move) : State :=
  let s1 := (below 16).foldl (fun t c => expelTiles t c m.old (m.old + m.size)) s
  if (below (m.size / 32)).any (fun k => freshPsn s1 (m.old + 32 * k)) then moveAbort s1 die m
  else if freshRead s1 (m.pte + 8) 8 ≠ m.locked.toNat then moveAbort s1 die m
  else
    let s2 := coherentWrite s1 m.frame m.size (freshRead s1 m.old m.size)
    let w := movedWord m.locked.toNat m.frame ((tierOf m.frame).getD 0)
    let s3 := coherentWrite s2 (m.pte + 8) 8 w
    let s4 := { s3 with dies := s3.dies.map (fun d => (d.1, restampRange d.2 m.frame (m.frame + m.size))) }
    moveEnd (retarget s4 m (BitVec.ofNat 64 w)) die m
/-- MIGRATION_MOVE: a first arrival locks a 64 KiB or 2 MiB page of canopy or HBM and removes its translations; later ones end the move once
nothing of the page is under way. A page or frame that cannot be moved is left alone (R315 to R317). -/
def execMigrationMove (die job : Nat) (va : VAddr) (frame : Nat) (s : State) : Host.Outcome State Fault Refusal :=
  match (dieAt s die).move with
  | some m => if m.job = job ∧ m.va = va ∧ m.frame = frame ∧ !moveBusy s m then .next (moveFinish s die m) else .next s
  | none =>
    match (if (jobAt s job).rootOk && !bitOf va.toNat 55 then nativeWalk s job va.toNat else none) with
    | none => .next s
    | some t =>
      match t.pte with
      | none => .next s
      | some pte =>
        let size := 2 ^ t.shift
        let w := freshRead s (pte + 8) 8
        let near (x : Nat) : Bool := decide (tierOf x = some 0 ∨ tierOf x = some 1) && !inHubWindow x
        let free := decide (frame + size ≤ t.frame ∨ t.frame + size ≤ frame)
        if 21 < t.shift ∨ bitOf w 63 ∨ frame % size ≠ 0 ∨ !near t.frame ∨ !near frame ∨ !near (frame + size - 1) ∨ !free then .next s
        else
          let w' := w + 2 ^ 63
          let m : Move := { job, va, pte, frame, old := t.frame, size, locked := BitVec.ofNat 64 w' }
          let s1 := dropPte (coherentWrite s (pte + 8) 8 w') pte
          let s2 := strikeEntries s1 (fun _ => true) job
          .next (post (onDie s2 die (fun d => { d with move := some m })) (.migrationMove die job va frame))

end Sys2Proof.Machine
end

