-- ==== Sys2Proof/Machine/Stacks.lean ====
section
/-!
DEFINITION. Canopy and HBM stacks: channels, congestion, rows, refresh, retention filters, scrubbing, retraining and the riser tester
(spec 27, R426 to R436; 10, R205). -/
namespace Sys2Proof.Machine

/-! ## Channels and congestion (R427, R429; spec 10, R205) -/

/-- The stack of an HBM channel. -/
def stackOf (chan : Nat) : Option Nat := if chan < 256 then none else some ((chan - 256) / 96)
/-- The lines of memory that a message in flight reads or writes. -/
def dramLines (s : State) (m : Msg) : List Nat :=
  match m with
  | .rds l _ => [l]
  | .rdx l _ => [l]
  | .wb l _ _ _ => [l]
  | .hostMemrdS h => (hostLine s h).toList
  | .hostMemrdA h => (hostLine s h).toList
  | .hostMemrdI h => (hostLine s h).toList
  | .hostMemwr h _ => (hostLine s h).toList
  | .tileWritebackAck cl tile => (tabGet [] (clAt s cl).wback tile).map (·.1)
  | m => (msgLine s m).toList
/-- The channels of a die at which messages in flight queue, one entry each. -/
def queuedAt (s : State) (die : Nat) : List Nat :=
  (s.agenda.flatMap (dramLines s)).filterMap (fun l => if homeOf s (l * 128) = die then channelOf (l * 128) else none)
/-- The occupancy of the fullest channel queue of a die. -/
def fullest (s : State) (die : Nat) : Nat := let q := queuedAt s die; q.foldl (fun m c => max m (min 64 (countOf q c))) 0
/-- The congestion level of an occupancy. -/
def congestionOf (n : Nat) : Nat := if n < 32 then 0 else if n < 48 then 1 else if n < 58 then 2 else 3
/-- The cores of a die that have drills. -/
def boundCores (s : State) (die : Nat) : List Nat := s.drills.foldl (fun l e => if dieOf e.1 = die then insertUp l (coreOf e.1) else l) []
/-- CONGESTION_SAMPLE: the level is reported to the cores of the die. -/
def execCongestionSample (die : Nat) (s : State) : Host.Outcome State Fault Refusal :=
  let n := congestionOf (fullest s die)
  .next (postAll (onDie s die (fun d => { d with report := n })) ((boundCores s die).map (fun c => Msg.congestionLevelApply c)))
/-- CONGESTION_LEVEL_APPLY: a higher level at once, a lower one after 256 cycles of the level that is held. -/
def execCongestionLevelApply (core : Nat) (s : State) : Host.Outcome State Fault Refusal :=
  let n := (dieAt s (core / 192)).report
  .next (onCore s core (fun c => if c.congestion < n ∨ (n < c.congestion ∧ c.congestedAt + 256 ≤ s.cycle) then { c with congestion := n, congestedAt := s.cycle } else c))
/-- THROTTLE_POINTER_ADVANCE. -/
def execThrottlePointerAdvance (core : Nat) (s : State) : Host.Outcome State Fault Refusal :=
  .next (onCore s core (fun c => { c with throttle := (c.throttle + 1) % 16 }))

/-! ## Banks: rows, refresh, filters, scrub (R428, R430 to R433) -/

def bankAt (s : State) (die chan bank : Nat) : Bank := tabGet {} (dieAt s die).banks (32 * chan + bank)
def onBank (s : State) (die chan bank : Nat) (f : Bank → Bank) : State :=
  onDie s die (fun d => { d with banks := tabSet {} d.banks (32 * chan + bank) (f (tabGet {} d.banks (32 * chan + bank))) })
/-- The three bits of a row in a filter (R431). -/
def rowBits (row : Nat) : BitVec 8192 := (below 3).foldl (fun m i => m ||| BitVec.ofNat 8192 (2 ^ (Config.rowHash i row).toNat)) 0
def filterHas (f : BitVec 8192) (row : Nat) : Bool := decide (f &&& rowBits row = rowBits row)
/-- The filters of a bank: what boot training loaded and what was inserted since. -/
def weakFilter (s : State) (die chan bank : Nat) : BitVec 8192 := (bankAt s die chan bank).weak ||| (if (dieAt s die).trained then Config.bootWeak die chan bank else 0)
def normalFilter (s : State) (die chan bank : Nat) : BitVec 8192 := (bankAt s die chan bank).normal ||| (if (dieAt s die).trained then Config.bootNormal die chan bank else 0)
/-- The refresh window of a row in ms: classes W, N and L (Table 27.2). -/
def rowWindow (s : State) (die chan bank row : Nat) : Nat :=
  if filterHas (weakFilter s die chan bank) row then 16 else if filterHas (normalFilter s die chan bank) row then 32 else 64
/-- A fill or a scrub write-back of a bank with 4 logged rows raises a bank-degraded event (R432). -/
def noteDegraded (s : State) (die chan bank : Nat) : State := if 4 ≤ (bankAt s die chan bank).weakLog.length then notify s (.bankDegraded die chan bank) else s
/-- A message served by DRAM opens its row; `fill` says that data is read (R428, R432). -/
def noteRow (s : State) (line : Nat) (fill : Bool) : State :=
  match channelOf (line * 128) with
  | none => s
  | some c =>
    let die := homeOf s (line * 128)
    let bank := (Config.dramBank line).toNat
    let s1 := onBank s die c bank (fun b => { b with openRow := some (Config.dramRow line) })
    if fill then noteDegraded s1 die c bank else s1
/-- BANK_REFRESH: a refresh falls due. While a row is open it is postponed, at most 8 times; the ninth closes the row, refreshes the bank and
reopens it. A bank without an open row makes up for all it owes. -/
def execBankRefresh (die chan bank : Nat) (s : State) : Host.Outcome State Fault Refusal :=
  .next (onBank s die chan bank (fun b =>
    if b.openRow.isSome then (if b.postponed < 8 then { b with postponed := b.postponed + 1 } else { b with refreshes := b.refreshes + 1 })
    else { b with refreshes := b.refreshes + b.postponed + 1, postponed := 0 }))
/-- A request in flight hits the open row of a bank. -/
def rowWanted (s : State) (die chan bank : Nat) : Bool :=
  (s.agenda.flatMap (dramLines s)).any (fun l => decide (homeOf s (l * 128) = die ∧ channelOf (l * 128) = some chan ∧ (Config.dramBank l).toNat = bank
    ∧ (bankAt s die chan bank).openRow = some (Config.dramRow l)))
/-- ROW_CLOSE: after 64 idle cycles. -/
def execRowClose (die chan bank : Nat) (s : State) : Host.Outcome State Fault Refusal :=
  .next (if rowWanted s die chan bank then s else onBank s die chan bank (fun b => { b with openRow := none }))
/-- Errors are counted in the management error log (spec 31, Table 31.3). -/
def countCe (s : State) : State := { s with mgmt := { s.mgmt with cec := s.mgmt.cec + 1 } }
def countUe (s : State) : State := { s with mgmt := { s.mgmt with uec := s.mgmt.uec + 1 } }
/-- A row in which a correctable error was found moves to the next shorter class; one in W is logged. -/
def demoteRow (s : State) (die chan bank row : Nat) : State :=
  let w := rowWindow s die chan bank row
  if w = 64 then onBank s die chan bank (fun b => { b with normal := b.normal ||| rowBits row })
  else if w = 32 then onBank s die chan bank (fun b => { b with weak := b.weak ||| rowBits row })
  else notify (onBank s die chan bank (fun b => { b with weakLog := (if row ∈ b.weakLog then b.weakLog else b.weakLog ++ [row]) })) (.weakRow die chan bank row)
/-- DRAM_SCRUB. -/
def execDramScrub (die chan bank row line : Nat) (verdict : Check) (s : State) : Host.Outcome State Fault Refusal :=
  match verdict with
  | .clean => .next s
  | .correctable => .next (demoteRow (noteDegraded (countCe s) die chan bank) die chan bank row)
  | .uncorrectable => .next (poisonLine ((below 4).foldl (fun t _ => countUe t) s) line)

/-! ## Retraining (R434, R435) -/

/-- 1 ms in cycles (spec 00, R9). -/
def cycles1ms : Nat := 3000000
/-- Traffic of a drill is deadline-tagged. -/
def tagged (s : State) (slot : Nat) : Bool :=
  match drillAt s slot with
  | some d => decide (d.tcause.toNat % 256 = cPreempt ∨ d.tcause.toNat % 256 = cRestore)
  | none => false
/-- The drill that sent a message. -/
def msgSlot (s : State) (m : Msg) : Option Nat :=
  match m with
  | .hubFill _ _ slot _ _ => some slot
  | .hubRenewal _ _ slot _ _ _ => some slot
  | .hubStoreStamp id => (tabFind s.stores id).map (·.slot)
  | .homeAtomic id => (tabFind s.remotes id).map (·.slot)
  | _ => none
/-- The tagged drills with traffic queued for a stack. -/
def taggedFor (s : State) (die stack : Nat) : List Nat :=
  (s.agenda.filterMap (fun m => match msgSlot s m with
    | some k => if tagged s k && (dramLines s m).any (fun l => decide (homeOf s (l * 128) = die ∧ (channelOf (l * 128)).bind stackOf = some stack)) then some k else none
    | none => none))
/-- HBM_RETRAIN: deferred for at most 1 ms while tagged traffic is queued for the stack; tagged traffic then waits through it. -/
def execHbmRetrain (die stack : Nat) (s : State) : Host.Outcome State Fault Refusal :=
  match tabFind (dieAt s die).retrain stack with
  | none => .next s
  | some r =>
    let w := taggedFor s die stack
    if !w.isEmpty && decide (s.cycle < r + cycles1ms) then .next s
    else .next (w.foldl (fun t k => onDrill t k (fun d => { d with retrained := some (2 * die + stack) })) (onDie s die (fun d => { d with retrain := tabDel d.retrain stack })))

/-! ## The riser tester (R436) -/

/-- RISER_TEST: a demand access to the riser's channel makes the tester yield, and the test is kept for later; a failure is reported. -/
def execRiserTest (die riser : Nat) (fails : Bool) (s : State) : Host.Outcome State Fault Refusal :=
  if 4096 ≤ riser then .next s
  else if riser / 16 ∈ queuedAt s die then .next (onDie s die (fun d => { d with tester := some riser }))
  else
    let s1 := onDie s die (fun d => { d with tester := none })
    .next (if fails then notify s1 (.riserFailed die riser) else s1)

end Sys2Proof.Machine
end

