-- ==== Sys2Proof/Machine/Mesh.lean ====
section
/-!
DEFINITION. The die mesh: routing, arbitration, ages and promotion (spec 28, R437 to R443). The queues hold the timing of messages; their effects
are the events that deliver them. Ports: 0 local, 1 north, 2 east, 3 south, 4 west; stop (x, y) is 4 y + x. -/
namespace Sys2Proof.Machine

/-! ## Stops and queues (R437, R439, Table 28.1) -/

/-- The stops of cluster c: half a, half b. -/
def clusterStop (cl half : Nat) : Nat := ([1, 4, 2, 7, 8, 13, 11, 14] : List Nat).getD (cl % 4 * 2 + half) 0
def coreStop (core : Nat) : Nat := clusterStop (core / 48) (if core % 48 < 24 then 0 else 1)
/-- Hub stops split lines by PA[7]. -/
def hubStop (line : Nat) : Nat := 5 + line % 2
def hokuxStop : Nat := 9
def cxlStop : Nat := 10
/-- The stop of HBM channel c. -/
def hbmStop (c : Nat) : Nat := ([0, 3, 12, 15] : List Nat).getD (c / 48) 0
def queueKey (stop port vc : Nat) : Nat := 20 * stop + 4 * port + vc
def meshQ (d : Die) (stop port vc : Nat) : List Flit := tabGet [] d.mesh (queueKey stop port vc)
def meshPut (d : Die) (stop port vc : Nat) (q : List Flit) : Die := { d with mesh := tabSet [] d.mesh (queueKey stop port vc) q }
/-- The output port of a flit at a stop: x first, then y. -/
def routeOf (stop dest : Nat) : Nat :=
  if stop % 4 < dest % 4 then 2 else if dest % 4 < stop % 4 then 4 else if stop / 4 < dest / 4 then 3 else if dest / 4 < stop / 4 then 1 else 0
/-- The next stop through an output port, and the input port there. -/
def nextStop (stop out : Nat) : Nat × Nat :=
  if out = 1 then (stop - 4, 3) else if out = 2 then (stop + 1, 4) else if out = 3 then (stop + 4, 1) else (stop - 1, 2)
/-- A queue has a free place. -/
def hasRoom (d : Die) (stop port vc : Nat) : Bool := decide ((meshQ d stop port vc).length < 8)

/-! ## Arbitration (R441, R442) -/

/-- The eligible heads of an output port: input port, channel, flit. -/
def eligible (d : Die) (stop out : Nat) : List (Nat × Nat × Flit) :=
  (below 4).flatMap (fun vc => (below 5).filterMap (fun p => match (meshQ d stop p vc).head? with
    | some f => if routeOf stop f.dest = out ∧ (out = 0 ∨ hasRoom d (nextStop stop out).1 (nextStop stop out).2 vc = true) then some (p, vc, f) else none
    | none => none))
/-- The promoted head that goes first: earliest promotion, lower channel, lower port. -/
def firstPromoted (l : List (Nat × Nat × Flit)) : Option (Nat × Nat × Flit) :=
  l.foldl (fun m x => match x.2.2.promoted, m with
    | none, _ => m
    | some _, none => some x
    | some t, some y => if t < y.2.2.promoted.getD 0 then some x else m) none
/-- The head of a channel that goes first: round-robin from the port's pointer. -/
def firstOf (p : MeshPort) (l : List (Nat × Nat × Flit)) (vc : Nat) : Option (Nat × Nat × Flit) :=
  (below 5).findSome? (fun i => l.find? (fun x => decide (x.2.1 = vc ∧ x.1 = (tabGet 0 p.ptr vc + i) % 5)))
/-- The winner of a cycle, with the count w after it. -/
def arbitrate (p : MeshPort) (l : List (Nat × Nat × Flit)) : Option ((Nat × Nat × Flit) × Nat) :=
  match firstPromoted l with
  | some x => some (x, p.w)
  | none => match firstOf p l 3 with
    | some x => some (x, p.w)
    | none => match firstOf p l 2 with
      | some x => some (x, p.w)
      | none => match firstOf p l 0, firstOf p l 1 with
        | some x, some y => if p.w < 4 then some (x, p.w + 1) else some (y, 0)
        | some x, none => some (x, p.w)
        | none, some y => some (y, p.w)
        | none, none => none
/-- A head that lost this cycle ages. -/
def ageHead (d : Die) (stop : Nat) (x : Nat × Nat × Flit) : Die :=
  match meshQ d stop x.1 x.2.1 with
  | f :: r => meshPut d stop x.1 x.2.1 ({ f with age := f.age + 1 } :: r)
  | [] => d
/-- MESH_GRANT: one cycle of an output port. The winner moves on with age 0, its channel's pointer passes it, and the losers age. -/
def execMeshGrant (die stop port : Nat) (s : State) : Host.Outcome State Fault Refusal :=
  let d := dieAt s die
  let l := eligible d stop port
  let key := 5 * stop + port
  match arbitrate (tabGet {} d.ports key) l with
  | none => .next s
  | some (win, w) =>
    let losers := l.filter (fun x => decide (x.1 ≠ win.1 ∨ x.2.1 ≠ win.2.1))
    let d1 := losers.foldl (fun a x => ageHead a stop x) d
    let d2 := meshPut d1 stop win.1 win.2.1 ((meshQ d1 stop win.1 win.2.1).drop 1)
    let d3 := if port = 0 then d2 else (let n := nextStop stop port; meshPut d2 n.1 n.2 win.2.1 (meshQ d2 n.1 n.2 win.2.1 ++ [{ dest := win.2.2.dest }]))
    let p := tabGet {} d.ports key
    let d4 := { d3 with ports := tabSet {} d3.ports key { w := w, ptr := tabSet 0 p.ptr win.2.1 ((win.1 + 1) % 5) } }
    .next (postAll (putDie s die d4) ((losers.filter (fun x => decide (x.2.2.age = 31))).map (fun x => Msg.meshPromote die stop x.1 x.2.1)))
/-- MESH_PROMOTE: a head whose age is 32 is promoted (R442). -/
def execMeshPromote (die stop port vc : Nat) (s : State) : Host.Outcome State Fault Refusal :=
  match meshQ (dieAt s die) stop port vc with
  | f :: r => .next (if 32 ≤ f.age ∧ f.promoted = none then onDie s die (fun d => meshPut d stop port vc ({ f with promoted := some s.cycle } :: r)) else s)
  | [] => .next s

/-! ## What crosses the mesh (R437, R439, Table 28.2) -/

/-- Die, source stop, destination stop and channel of a message; none for what does not cross a mesh. -/
def meshPath (s : State) (m : Msg) : Option (Nat × Nat × Nat × Nat) :=
  let line (id : Nat) : Nat := match tabFind s.stores id with | some p => p.line | none => 0
  let up (cl : Nat) (half l vc : Nat) : Option (Nat × Nat × Nat × Nat) := some (cl / 4, clusterStop cl half, hubStop l, vc)
  let half (slot : Nat) : Nat := if coreOf slot % 48 < 24 then 0 else 1
  match m with
  | .hubFill cl l slot _ _ => up cl (half slot) l 0
  | .hubRenewal cl l slot _ _ _ => up cl (half slot) l 0
  | .clocheVerify core _ l _ _ _ => some (core / 192, coreStop core, hubStop l, 0)
  | .hubStoreStamp id => (tabFind s.stores id).bind (fun p => up p.cl (half p.slot) p.line 0)
  | .homeAtomic id => (tabFind s.remotes id).bind (fun r => if r.hub = dieOf r.slot then up (clusterOf r.slot) (half r.slot) (r.pa / 128) 0 else some (r.hub, hokuxStop, hubStop (r.pa / 128), 0))
  | .tileFillReturn cl _ l => some (cl / 4, (match channelOf (l * 128) with | some c => if c < 256 then clusterStop (c % 8 / 2) (c % 2) else hbmStop (c - 256) | none => cxlStop), clusterStop cl 0, 2)
  | .tileWritebackAck cl _ => up cl 0 0 1
  | .stampResponse id _ _ => (tabFind s.stores id).map (fun p => (p.cl / 4, hubStop (line id), clusterStop p.cl (half p.slot), 2))
  | .leaseResponse cl l _ _ _ _ _ => some (cl / 4, hubStop l, clusterStop cl 0, 2)
  | .clocheVerdict core _ l _ _ => some (core / 192, hubStop l, coreStop core, 2)
  | .coherenceData l die _ _ _ => some (die, hokuxStop, hubStop l, 2)
  | .atomicResponse id _ _ => (tabFind s.remotes id).map (fun r => (dieOf r.slot, hubStop (r.pa / 128), clusterStop (clusterOf r.slot) (half r.slot), 2))
  | .rds l _ => some (homeOf s (l * 128), hokuxStop, hubStop l, 3)
  | .rdx l _ => some (homeOf s (l * 128), hokuxStop, hubStop l, 3)
  | .upg l _ => some (homeOf s (l * 128), hokuxStop, hubStop l, 3)
  | .wb l _ _ _ => some (homeOf s (l * 128), hokuxStop, hubStop l, 3)
  | .evict l _ => some (homeOf s (l * 128), hokuxStop, hubStop l, 3)
  | .fwds l h _ => some (h, hokuxStop, hubStop l, 3)
  | .fwdx l h _ => some (h, hokuxStop, hubStop l, 3)
  | .inv l h _ => some (h, hokuxStop, hubStop l, 3)
  | .coherenceAck l _ _ => some (homeOf s (l * 128), hokuxStop, hubStop l, 3)
  | .shootRemote die _ => some (die, hokuxStop, hubStop 0, 3)
  | .congestionLevelApply core => some (core / 192, hbmStop 0, coreStop core, 3)
  | .hostMemrdS h => (hostLine s h).map (fun l => (homeOf s (l * 128), cxlStop, hubStop l, 3))
  | .hostMemrdA h => (hostLine s h).map (fun l => (homeOf s (l * 128), cxlStop, hubStop l, 3))
  | .hostMemrdI h => (hostLine s h).map (fun l => (homeOf s (l * 128), cxlStop, hubStop l, 3))
  | .hostMemwr h _ => (hostLine s h).map (fun l => (homeOf s (l * 128), cxlStop, hubStop l, 3))
  | _ => none
/-- A message enters the mesh at its source stop; its flit waits there where the queue has a place. -/
def meshNote (s : State) (m : Msg) : State :=
  match meshPath s m with
  | none => s
  | some (die, src, dst, vc) => onDie s die (fun d => if hasRoom d src 0 vc then meshPut d src 0 vc (meshQ d src 0 vc ++ [{ dest := dst }]) else d)

end Sys2Proof.Machine
end

