-- ==== Sys2Proof/Machine/Failure.lean ====
section
/-!
DEFINITION. Errors and losses: soft errors, scrubbing, lost parts, failed dies, pool devices and external ports (spec 24, R399 to R405; 26,
R422, R423, R425; 29, R451 to R454). -/
namespace Sys2Proof.Machine

/-! ## External ports (spec 24, R399; 26, R424, R425) -/

/-- An external port goes down: with the last port, transfers on their way fail, and phases with destinations on other devices complete in error. -/
def hokuxDown (s : State) (port : Nat) : State :=
  let s1 := { s with hokuxUp := s.hokuxUp.filter (fun p => decide (p ≠ port)) }
  if !s1.hokuxUp.isEmpty || s.hokuxUp.isEmpty then s1
  else
    let s2 := s1.dies.foldl (fun t d => (d.2.queues.filter (fun q => q.2.xfer)).foldl (fun u q => haltQueue (onQueue u d.1 q.1 (fun x => { x with xfer := false })) d.1 q.1 3) t) s1
    let open' := s2.objs.filter (fun o => decide (o.2.lvl = 3) && !o.2.complete && !o.2.root && o.2.dests.any (fun x => decide (x.2.1 ≠ 0)))
    open'.foldl (fun t o => completePhase (onObj t o.1 (fun x => { x with err := true })) o.1) s2
/-- HOKUX_PORT_DOWN. -/
def execHokuxPortDown (port : Nat) (s : State) : Host.Outcome State Fault Refusal := .next (hokuxDown s port)

/-! ## Soft errors and the SRAM scrubber (spec 24, R399 to R401) -/

/-- A line copy of a cluster has a sector poisoned. -/
def poisonCopy (s : State) (cl line sector : Nat) : State := onCopy s cl line (fun x => { x with psn := x.psn ||| BitVec.ofNat 4 (2 ^ sector) })
/-- A lane of a vector register takes the free value that an error leaves; registers hold no poison (spec 23, R389). -/
def strikeLane (s : State) (slot reg l : Nat) : State :=
  match drillAt s slot with
  | none => s
  | some d => { putDrill s slot (vPutBase d reg (BitVec.ofNat 32 (2 ^ l)) (vecOfLanes (fun _ => (Config.gapValue s.tick).toNat))) with tick := s.tick + 1 }
/-- SOFT_ERROR (Table 24.1): a correctable error is counted, and in the bench waits for the scrubber; an uncorrectable one poisons its
sector; a datapath has no check (R401); a link retries, and goes down past its limit
(links 0 to 3 are the CXL ports, 4 to 19 the external Hokux ports). -/
def execSoftError (target : ErrSite) (verdict : Check) (s : State) : Host.Outcome State Fault Refusal :=
  match verdict, target with
  | _, .datapath slot reg l => .next (strikeLane s slot reg l)
  | .clean, _ => .next s
  | .correctable, .bench core off => .next (onCore s core (fun c => { c with soft := if off ∈ c.soft then c.soft else c.soft ++ [off] }))
  | .correctable, .link _ => .next s
  | .correctable, _ => .next (countCe s)
  | .uncorrectable, .memory pa => .next (countUe { s with psn := psnSet s.psn (pa / 32) true })
  | .uncorrectable, .bench core off => .next (countUe (benchSetPsn s core (off / 32) true))
  | .uncorrectable, .tendril cl tile off => .next (countUe (poisonCopy s cl (tile * 16 + off / 128) (off % 128 / 32)))
  | .uncorrectable, .vreg slot reg l => .next (countUe (strikeLane s slot reg l))
  | .uncorrectable, .link port => if port < 4 then .next (linkDown s port) else .next (hokuxDown s (port - 4))
/-- SRAM_SCRUB: the bank is woken, and a correctable error of the word is counted and written back corrected (R400; spec 31, R465). -/
def execSramScrub (core addr : Nat) (s : State) : Host.Outcome State Fault Refusal :=
  let word (x : Nat) : Bool := decide (x / 8 = addr / 8)
  let s1 := onCore s core (fun c => { c with power := tabDel c.power (addr / 65536) })
  if (coreAt s core).soft.any word then .next (countCe (onCore s1 core (fun c => { c with soft := c.soft.filter (fun x => !word x) }))) else .next s1

/-! ## Lost parts (spec 24, R405) -/

/-- Every drill that p accepts is killed and its bed cancelled. -/
def killWhere (s : State) (p : Nat × Drill → Bool) : State := ((s.drills.filter p).map (fun e => e.2.bed)).foldl cancelObj s
/-- Sectors of a line of which a lost copy held the newest bytes are poisoned in memory. -/
def loseDirty (s : State) (y : Nat × LineCopy) : State :=
  { s with psn := (below 4).foldl (fun p k => if bitsOf y.2.dirty.toNat (32 * k) 32 = 0 then p else psnSet p (4 * y.1 + k) true) s.psn }
/-- PART_LOSS. -/
def execPartLoss (part : Part) (s : State) : Host.Outcome State Fault Refusal :=
  let s1 := if part ∈ s.lostParts then s else { s with lostParts := s.lostParts ++ [part] }
  match part with
  | .riser _ _ => .next s1
  | .canopy _ => .next s1
  | .sramBank core bank =>
    let cl := clusterOfCore core
    if 8 ≤ bank ∨ bank < 8 - (coreAt s core).lend then .next (killWhere s1 (fun e => decide (coreOf e.1 = core)))
    else
      let hit (t : Nat × TileSt) : Bool := decide (Config.slotBank cl t.2.pos = core % 48 * 8 + bank)
      let gone := (clAt s1 cl).tiles.filter hit
      let jobs := gone.map (fun t => t.2.job)
      let s2 := onCl s1 cl (fun c => { c with tiles := c.tiles.filter (fun t => !hit t) })
      let s3 := (gone.flatMap (fun t => t.2.lines.filter (fun y => !y.2.shared))).foldl loseDirty s2
      .next (killWhere s3 (fun e => decide (clusterOf e.1 = cl ∧ e.2.job ∈ jobs)))

/-! ## Pool devices (spec 29, R452 to R454) -/

/-- A pool line reaches the engine operation that asked for it: the commands of the drill and class that may move, or the drill's matrix operation
at the head of its queue. -/
def giveLine (s : State) (r : Remote) (x : Vec) (psn : BitVec 4) : State :=
  let line := r.pa / 128
  if r.idx = 2 then
    let core := coreOf r.slot
    post (onCore s core (fun c => { c with mq := match c.mq with
      | m :: ms => (if m.slot = r.slot then { m with pool := tabPut m.pool line (x, psn) } else m) :: ms
      | [] => [] })) (.matrixRetire core)
  else
    let q := engineQ s r.slot
    let q1 := (below q.length).filterMap (fun i => (q[i]?).map (fun c =>
      if c.slot = r.slot ∧ c.cls = r.idx ∧ (portOf c ≠ none ∨ (q.take i).all (fun e => decide (e.slot ≠ r.slot ∨ e.cls ≠ c.cls)) = true) then { c with pool := tabPut c.pool line (x, psn) } else c))
    post (engineSet s r.slot q1) (.copyRetire r.slot r.idx)
/-- A store to the pool, or to a home that has failed, is over. -/
def storeOver (s : State) (id slot : Nat) : State := storesMoved (wake { s with remotes := tabDel s.remotes id } (fun w => decide (w = .retire) || (match w with | .shoot _ => true | _ => false))) slot
/-- What a remote access ends with: its value to the word, the end of a store, its line to the engine. -/
def answerRemote (s : State) (id : Nat) (r : Remote) (x : Vec) (bad : Bool) : State :=
  if r.kind = 2 then storeOver s id r.slot
  else if r.kind = 3 then giveLine { s with remotes := tabDel s.remotes id } r x (if bad then 15 else 0)
  else if r.answer.isSome then s
  else wake { s with remotes := tabPut s.remotes id { r with answer := some (bitsOf x.toNat (8 * (r.pa % 128)) (8 * r.size), bad) } } (fun w => match w with | .atomic _ => true | _ => false)
/-- POOL_COMPLETION: the device's data or acknowledgement is back; the word takes its bytes from their places in the line. -/
def execPoolCompletion (id : Nat) (data : Vec) (psn : Bool) (s : State) : Host.Outcome State Fault Refusal :=
  match tabFind s.remotes id with
  | none => .next s
  | some r => if tierOf r.pa = some 3 then .next (answerRemote s id r data psn) else .next s
/-- Remote accesses that p accepts end with poison, and stores among them are discarded. -/
def failRemotes (s : State) (p : Remote → Bool) : State :=
  let l := s.remotes.filter (fun r => p r.2)
  let s1 := { s with agenda := s.agenda.filter (fun m => match m with | .homeAtomic id => !l.any (fun r => decide (r.1 = id)) | _ => true) }
  l.foldl (fun t r => answerRemote t r.1 r.2 0 true) s1
/-- POOL_FAILURE: FAIL is set, and what is pending in the window ends. -/
def execPoolFailure (win : Nat) (s : State) : Host.Outcome State Fault Refusal :=
  let w := tabGet 0 s.mgmt.pwin (2 * win)
  let s1 := failRemotes s (fun r => decide (tierOf r.pa = some 3 ∧ poolWindow s r.pa = some win))
  .next (notify { s1 with mgmt := { s1.mgmt with pwin := tabSet 0 s1.mgmt.pwin (2 * win) (w ||| BitVec.ofNat 64 (2 ^ 62)) } } (.poolFailed win))

/-! ## A failed die (spec 26, R422, R423) -/

/-- The orphan log of a die: its base where firmware has set one in the die's canopy, and its capacity. -/
def orphanLog (s : State) (die : Nat) : Option Nat × Nat :=
  let b := (tabGet 0 s.mgmt.olbase die).toNat
  (if tierOf b = some 0 ∧ !inHubWindow b ∧ homeOf s b = die then some b else none, (tabGet 0 s.mgmt.olcap die).toNat)
/-- The record of a frozen line (Table 26.3). -/
def orphanRecord (st die line : Nat) (x : Vec) (psn : BitVec 4) : Nat := st * 2 ^ 62 + die * 2 ^ 60 + line * 128 + psn.toNat * 2 ^ 64 + x.toNat * 2 ^ 1024
/-- The header as it stands. -/
def writeHeader (s : State) (die failed : Nat) : State :=
  match orphanLog s die with
  | (some b, cap) => coherentWrite s b 64 ((dieAt s die).logged * 2 ^ 32 + cap + ((dieAt s die).logLost * 2 ^ 32 + failed) * 2 ^ 64)
  | (none, _) => s
/-- A frozen line enters the log, its record before COUNT, or is counted in LOST. -/
def logLine (s : State) (die failed st line : Nat) (x : Vec) (psn : BitVec 4) : State :=
  match orphanLog s die with
  | (some b, cap) =>
    if (dieAt s die).logged < cap then
      let s1 := coherentWrite s (b + 64 + 256 * (dieAt s die).logged) 256 (orphanRecord st die line x psn)
      writeHeader (onDie s1 die (fun d => { d with logged := d.logged + 1 })) die failed
    else writeHeader (onDie s die (fun d => { d with logLost := d.logLost + 1 })) die failed
  | (none, _) => onDie s die (fun d => { d with logLost := d.logLost + 1 })
/-- One surviving hub serves the failure of a die: steps 2 to 4 of R422, and the operations it held. -/
def surviveDie (failed : Nat) (s : State) (die : Nat) : State :=
  let mine (l : Nat) : Bool := decide (homeOf s (l * 128) = failed)
  let s0 := writeHeader s die failed
  let lines := (dieAt s0 die).lines.filter (fun l => mine l.1)
  let s1 := lines.foldl (fun t l => if l.2.st = .m then logLine t die failed 1 l.1 l.2.data l.2.psn else if l.2.st = .o then logLine t die failed 2 l.1 l.2.data l.2.psn else t) s0
  let s2 := onDie s1 die (fun d => { d with lines := d.lines.filter (fun l => !mine l.1) })
  let base (l : Nat) : Vec := match tabFind (dieAt s0 die).lines l with | some h => h.data | none => 0
  let s3 := (below 4).foldl (fun t k =>
    let cl := 4 * die + k
    let c := clAt t cl
    let tiles := c.tiles.filter (fun x => mine (16 * x.1))
    let back := c.wback.filter (fun x => mine (16 * x.1))
    let dirty := (tiles.flatMap (fun x => x.2.lines.filter (fun y => decide (y.2.dirty ≠ 0) && !y.2.shared))) ++ back.flatMap (·.2)
    let t1 := dirty.foldl (fun u y => logLine u die failed 1 y.1 (mergeBytes (y.2.have' ||| y.2.dirty) y.2.data (base y.1)) y.2.psn) t
    let t2 := onCl t1 cl (fun x => { x with tiles := x.tiles.filter (fun y => !mine (16 * y.1)), wback := x.wback.filter (fun y => !mine (16 * y.1)) })
    onDie t2 die (fun d => (dirty.map (·.1)).foldl restamp d)) s2
  let s4 := onDie s3 die (fun d => (lines.map (·.1)).foldl restamp d)
  let held := ((dieAt s4 die).held.filterMap (msgLine s4)).filter mine
  held.foldl (fun t l => releaseHeld t die l) s4
/-- Lines of surviving homes of which the failed die held the only newest copy are poisoned, and it holds none any more. -/
def forgetHolder (failed : Nat) (s : State) (die : Nat) : State :=
  ((dieAt s die).dir.filter (fun e => hasBit e.2.holders failed)).foldl (fun t e =>
    dirDrop (match e.2.owner with | some (o, _) => if o = failed then poisonLine t e.1 else t | none => t) e.1 failed) s
/-- The failure of a die as a whole. -/
def failDie (s : State) (die : Nat) : State :=
  if (dieAt s die).failed then s
  else
    let s1 := onDie s die (fun d => { d with failed := true })
    let live := (below 4).filter (fun k => !(dieAt s1 k).failed)
    let s2 := live.foldl (surviveDie die) s1
    let s3 := dropAgent (live.foldl (forgetHolder die) s2) die
    let s4 := failRemotes s3 (fun r => decide (r.hub = die ∧ r.kind = 0 ∧ tierOf r.pa ≠ some 3 ∨ homeOf s r.pa = die))
    wake { s4 with shoots := s4.shoots.map (fun x => (x.1, { x.2 with await := x.2.await.filter (fun a => decide (a ≠ die)) })) }
      (fun w => onAccess w || decide (w = .retire) || (match w with | .shoot _ => true | _ => false))
/-- DIE_FAILURE. -/
def execDieFailure (die : Nat) (s : State) : Host.Outcome State Fault Refusal := .next (failDie s die)

end Sys2Proof.Machine
end

