-- ==== Sys2Proof/Machine/Manage.lean ====
section
/-!
DEFINITION. Bring-up, power and management: boot, recovery, attestation, heat, bank power, the management registers and the debugger (spec 31,
R462 to R469; 29, R451, R459, R460; 23, R398). -/
namespace Sys2Proof.Machine

/-! ## Boot (R462, R463) -/

def bstatBit (b : Nat) : BitVec 32 := BitVec.ofNat 32 (2 ^ b)
/-- BSTAT changed. -/
def onBstat (s : State) (f : BitVec 32 → BitVec 32) : State := { s with mgmt := { s.mgmt with bstat := f s.mgmt.bstat } }
def inRecovery (s : State) : Bool := bitOf s.mgmt.bstat.toNat 9
/-- The stage is recorded before it begins. -/
def setStage (s : State) (k : Nat) : State := onBstat s (fun b => (b &&& 0xFFFFFFF8) ||| BitVec.ofNat 32 (k % 8))
/-- Whether a stage fails. -/
def stageFails (im : Image) (k : Nat) : Bool := if k = 2 then !im.verifies || decide (im.version < im.minimum) else decide (im.failing = some k)
/-- The base of a die's mailboxes in its own HBM. -/
def publishedBase (die : Nat) : Nat := die * 0x1800000000 + ((Config.mailboxBase die).toNat + 1) * 16384
/-- The work of a stage (Table 31.1). -/
def stageWork (s : State) (im : Image) (k : Nat) : State :=
  if k = 2 then onBstat s (fun b => (b &&& 0x0000FFFF) ||| BitVec.ofNat 32 (im.version.toNat * 65536))
  else if k = 4 then
    { s with
      cores := s.cores.map (fun c => (c.1, { c.2 with bench := [], benchPsn := [], tags := [], tiles := [], esp := [], espTy := [], soft := [] })),
      clusters := s.clusters.map (fun c => (c.1, { c.2 with tiles := [], wback := [] })),
      dies := (below 4).foldl (fun t d => tabPut t d { tabGet {} t d with trained := true }) s.dies,
      mgmt := { s.mgmt with hbmrate := 0 } }
  else if k = 5 then { s with hokuxUp := below 16 }
  else if k = 6 then
    onBstat { s with cxlUp := below 4, dies := (below 4).foldl (fun t d => tabPut t d { tabGet {} t d with mailBase := publishedBase d }) s.dies } (fun b => b ||| bstatBit 10)
  else s
/-- The stages from k on, n of them; a stage that fails stops the sequence with ERR, and stage 2 enters recovery. -/
def bootFrom (s : State) (im : Image) (k n : Nat) : State :=
  match n with
  | 0 => s
  | m + 1 =>
    let s1 := setStage s k
    if stageFails im k then onBstat s1 (fun b => b ||| bstatBit 8 ||| (if k = 2 then bstatBit 9 else 0)) else bootFrom (stageWork s1 im k) im (k + 1) m
/-- The module as power comes up: every part at its reset value but the memory of the host and the pool, and lost parts. -/
def powerUp (s : State) : State :=
  { State.reset with
    mem := s.mem.filter (fun c => decide (hostBase ≤ c.1)), psn := s.psn.filter (fun k => decide (hostBase ≤ k * 32)),
    lostParts := s.lostParts, notices := s.notices, sched := s.sched, tick := s.tick, cycle := s.cycle }
/-- POWER_GOOD. -/
def execPowerGood (image : Image) (s : State) : Host.Outcome State Fault Refusal := .next (bootFrom (powerUp s) image 1 6)
/-- RECOVERY_IMAGE: in recovery, the sequence starts again at stage 2. -/
def execRecoveryImage (image : Image) (s : State) : Host.Outcome State Fault Refusal :=
  if inRecovery s then .next (bootFrom (onBstat s (fun b => b &&& ~~~(bstatBit 8 ||| bstatBit 9))) image 2 5) else .next s
/-- SPDM_REQUEST: the signed answer over the nonce (spec 29, R460). -/
def execSpdmRequest (port : Nat) (nonce : Word) (s : State) : Host.Outcome State Fault Refusal := .next (notify s (.spdm port (Config.spdmAnswer nonce)))

/-! ## Heat and power (R465, R466) -/

/-- Level of a temperature, 4 for a trip (Table 31.2). -/
def heatLevel (t : Nat) : Nat := if t < 95 then 0 else if t < 100 then 1 else if t < 105 then 2 else if t < 110 then 3 else 4
/-- A die's level is the greater of its hub's own and firmware's; below 3, stalled engine words issue again. -/
def setLevel (s : State) (die hot low : Nat) : State :=
  let n := max hot low
  let s1 := onDie s die (fun d => { d with hot := hot, throttleMin := low, level := n })
  if n < 3 then wake s1 (fun w => decide (w = .engine)) else s1
/-- THERMAL_LEVEL_CHANGE: TEMP is reported, the level rises at once and falls with 3 °C of hysteresis; a trip fails the die and takes its CXL port
down. -/
def execThermalLevelChange (die temp : Nat) (s : State) : Host.Outcome State Fault Refusal :=
  let t := min temp 255
  let old := bitsOf s.mgmt.temp.toNat (8 * die) 8
  let s1 := { s with mgmt := { s.mgmt with temp := BitVec.ofNat 32 (s.mgmt.temp.toNat - old * 2 ^ (8 * die) + t * 2 ^ (8 * die)) } }
  let hot := (dieAt s die).hot
  let up := heatLevel temp
  if up = 4 then .next (linkDown (failDie s1 die) die)
  else .next (setLevel s1 die (if hot ≤ up then up else max up (min hot (heatLevel (temp + 3)))) (dieAt s die).throttleMin)
/-- Whether a job owns a bank, or a Tendril holds it. Banks 0 to 7 are the bench and what is lent; the others hold registers and engine store. -/
def bankInUse (c : CoreSt) (bank : Nat) : Bool :=
  if bank < 8 then decide (8 - c.lend ≤ bank) || c.ownBench.isSome else !c.ownRegs.isEmpty || c.ownTiles.isSome || c.ownEsp.isSome
/-- SRAM_BANK_POWER: firmware changes the power of a bank that nobody uses. -/
def execSramBankPower (core bank : Nat) (power : BankPower) (s : State) : Host.Outcome State Fault Refusal :=
  .next (onCore s core (fun c => if bankInUse c bank then c else { c with power := tabSet .on c.power bank power }))

/-! ## Management registers (R468, R469, Table 31.3) -/

/-- THR as it reads. -/
def thrWord (s : State) : Nat := packFields 2 (fun d => (dieAt s d).level) 4
/-- A register as the host and the Gardeners read it; during recovery every register but BSTAT reads 0. -/
def mgmtRead (s : State) (off : Nat) : Word :=
  let m := s.mgmt
  if off = 0x0008 then m.bstat.setWidth 64
  else if inRecovery s then 0
  else if off = 0x0000 then 0x0D4A0300
  else if off = 0x0010 then m.temp.setWidth 64
  else if off = 0x0018 then BitVec.ofNat 64 (thrWord s)
  else if off = 0x0020 then m.pcap.setWidth 64
  else if off = 0x0028 then m.hbmrate.setWidth 64
  else if off = 0x0030 then m.cec
  else if off = 0x0038 then m.uec
  else if 0x0100 ≤ off ∧ off < 0x0140 ∧ off % 16 = 0 then tabGet 0 m.olbase ((off - 0x0100) / 16)
  else if 0x0100 ≤ off ∧ off < 0x0140 ∧ off % 16 = 8 then (tabGet 0 m.olcap ((off - 0x0100) / 16)).setWidth 64
  else if 0x0200 ≤ off ∧ off < 0x0300 ∧ off % 8 = 0 then tabGet 0 m.pwin ((off - 0x0200) / 8)
  else if off = 0x0400 then m.dbgaddr
  else if off = 0x0408 then m.dbgctl.setWidth 64
  else if 0x0420 ≤ off ∧ off < 0x0440 ∧ off % 8 = 0 then BitVec.ofNat 64 (bitsOf m.dbgdata.toNat (8 * (off - 0x0420)) 64)
  else 0
/-- Whether a die has failed. -/
def anyFailed (s : State) : Bool := s.dies.any (fun d => d.2.failed)
/-- HBMRATE written: a legal rate is set and every stack is to be retrained (spec 27, R435). -/
def setRate (s : State) (x : Nat) : State :=
  if x % 4 = 3 then s
  else
    let s1 := { s with mgmt := { s.mgmt with hbmrate := BitVec.ofNat 32 (x % 4) } }
    (below 8).foldl (fun t i => post (onDie t (i / 2) (fun d => { d with retrain := tabPut d.retrain (i % 2) s.cycle })) (.hbmRetrain (i / 2) (i % 2))) s1
/-- A pool window word written: firmware clears FAIL and cannot set it; reserved bits stay 0 (spec 29, Table 29.3). -/
def setWindow (s : State) (i : Nat) (x : Word) : State :=
  let old := tabGet 0 s.mgmt.pwin i
  let keep : Word := if i % 2 = 0 then 0xBFFF0000003FFFFF else 0x3FFFFF
  let y := (x &&& keep) ||| (if i % 2 = 0 then x &&& old &&& BitVec.ofNat 64 (2 ^ 62) else 0)
  { s with mgmt := { s.mgmt with pwin := tabSet 0 s.mgmt.pwin i y } }
/-- DBGCTL written: GO starts a read unless one is under way. -/
def startDebug (s : State) (x : Nat) : State :=
  if !bitOf x 0 || s.mgmt.dbgbusy then s else post { s with mgmt := { s.mgmt with dbgbusy := true, dbgctl := 0 } } .debugReadDone
/-- HBMRATE_WRITE. -/
def execHbmrateWrite (value : BitVec 32) (s : State) : Host.Outcome State Fault Refusal := if inRecovery s then .next s else .next (setRate s value.toNat)
/-- PWIN_WRITE. -/
def execPwinWrite (win word : Nat) (value : Word) (s : State) : Host.Outcome State Fault Refusal := if inRecovery s then .next s else .next (setWindow s (2 * win + word) value)
/-- DEBUG_READ. -/
def execDebugRead (value : BitVec 32) (s : State) : Host.Outcome State Fault Refusal := if inRecovery s then .next s else .next (startDebug s value.toNat)
/-- Whether a sector is powered: a die that has tripped or failed has its stacks off, and no part of the module is behind a hole of the map. -/
def powered (s : State) (pa : Nat) : Bool := (tierOf pa).isSome && !(dieAt s (homeOf s pa)).failed
/-- DEBUG_READ_DONE (R398, R469): the sector as a .by access reads it; an unpowered one reads as all ones. -/
def execDebugReadDone (s : State) : Host.Outcome State Fault Refusal :=
  if !s.mgmt.dbgbusy then .next s
  else
    let pa := s.mgmt.dbgaddr.toNat
    let on := powered s pa
    let x : BitVec 256 := if on then BitVec.ofNat 256 (freshRead s pa 32) else BitVec.allOnes 256
    .next { s with mgmt := { s.mgmt with dbgbusy := false, dbgdata := x, dbgctl := if on then 2 else 6 } }
/-- MGMT_REGISTER_WRITE, by the host or, with `fw`, by firmware. THR: firmware raises a die's level above its hub's own. -/
def execMgmtRegisterWrite (off : Nat) (value : Word) (fw : Bool) (s : State) : Host.Outcome State Fault Refusal :=
  let x := value.toNat
  let m := s.mgmt
  let put (y : Mgmt) : State := { s with mgmt := y }
  if off = 0x0008 ∧ fw = true then .next (put { m with bstat := BitVec.ofNat 32 x &&& 0xFFFF0707 })
  else if inRecovery s then .next s
  else if off = 0x0018 ∧ fw = true then
    .next ((below 4).foldl (fun t d => let f := bitsOf x (2 * d) 2; setLevel t d (dieAt t d).hot (if (dieAt t d).hot < f then f else 0)) s)
  else if off = 0x0020 then .next (if 1200 ≤ x % 4096 ∧ x % 4096 ≤ 2400 then put { m with pcap := BitVec.ofNat 32 (x % 4096) } else s)
  else if off = 0x0028 then .next (setRate s x)
  else if off = 0x0030 ∧ fw = true then .next (put { m with cec := value })
  else if off = 0x0038 ∧ fw = true then .next (put { m with uec := value })
  else if 0x0100 ≤ off ∧ off < 0x0140 ∧ off % 16 = 0 ∧ fw = true then
    .next (if anyFailed s then s else put { m with olbase := tabSet 0 m.olbase ((off - 0x0100) / 16) (BitVec.ofNat 64 (x / 256 * 256)) })
  else if 0x0100 ≤ off ∧ off < 0x0140 ∧ off % 16 = 8 ∧ fw = true then
    .next (if anyFailed s then s else put { m with olcap := tabSet 0 m.olcap ((off - 0x0100) / 16) (BitVec.ofNat 32 x) })
  else if 0x0200 ≤ off ∧ off < 0x0300 ∧ off % 8 = 0 ∧ fw = true then .next (setWindow s ((off - 0x0200) / 8) value)
  else if off = 0x0400 then .next (put { m with dbgaddr := BitVec.ofNat 64 (bitsOf x 5 47 * 32) })
  else if off = 0x0408 then .next (startDebug s x)
  else .next s

end Sys2Proof.Machine
end

