-- ==== Sys2Proof/Machine/Dispatch.lean ====
section
/-!
DEFINITION. One arm per instruction: its meaning. -/
namespace Sys2Proof.Machine

def exec (i : Instr) (s : State) : Host.Outcome State Fault Refusal :=
  match i with
  | .add d a b => Sys2Proof.Machine.execAdd d a b s
  | .sub d a b => Sys2Proof.Machine.execSub d a b s
  | .mul d a b => Sys2Proof.Machine.execMul d a b s
  | .mulh d a b => Sys2Proof.Machine.execMulh d a b s
  | .mulhn d a b => Sys2Proof.Machine.execMulhn d a b s
  | .div d a b => Sys2Proof.Machine.execDiv d a b s
  | .divn d a b => Sys2Proof.Machine.execDivn d a b s
  | .rem d a b => Sys2Proof.Machine.execRem d a b s
  | .remn d a b => Sys2Proof.Machine.execRemn d a b s
  | .and d a b => Sys2Proof.Machine.execAnd d a b s
  | .or d a b => Sys2Proof.Machine.execOr d a b s
  | .xor d a b => Sys2Proof.Machine.execXor d a b s
  | .shl d a b => Sys2Proof.Machine.execShl d a b s
  | .shr d a b => Sys2Proof.Machine.execShr d a b s
  | .sha d a b => Sys2Proof.Machine.execSha d a b s
  | .min d a b => Sys2Proof.Machine.execMin d a b s
  | .max d a b => Sys2Proof.Machine.execMax d a b s
  | .minn d a b => Sys2Proof.Machine.execMinn d a b s
  | .maxn d a b => Sys2Proof.Machine.execMaxn d a b s
  | .slt d a b => Sys2Proof.Machine.execSlt d a b s
  | .sltn d a b => Sys2Proof.Machine.execSltn d a b s
  | .seq d a b => Sys2Proof.Machine.execSeq d a b s
  | .clz d a => Sys2Proof.Machine.execClz d a s
  | .ctz d a => Sys2Proof.Machine.execCtz d a s
  | .popc d a => Sys2Proof.Machine.execPopc d a s
  | .addsh d a b st => Sys2Proof.Machine.execAddsh d a b st s
  | .addi d a im => Sys2Proof.Machine.execAddi d a im s
  | .andi d a im => Sys2Proof.Machine.execAndi d a im s
  | .ori d a im => Sys2Proof.Machine.execOri d a im s
  | .xori d a im => Sys2Proof.Machine.execXori d a im s
  | .shli d a c => Sys2Proof.Machine.execShli d a c s
  | .shri d a c => Sys2Proof.Machine.execShri d a c s
  | .shai d a c => Sys2Proof.Machine.execShai d a c s
  | .slti d a im => Sys2Proof.Machine.execSlti d a im s
  | .sltni d a im => Sys2Proof.Machine.execSltni d a im s
  | .muli d a im => Sys2Proof.Machine.execMuli d a im s
  | .ldhi d im => Sys2Proof.Machine.execLdhi d im s
  | .pcadd d im => Sys2Proof.Machine.execPcadd d im s
  | .beq a b o => Sys2Proof.Machine.execBeq a b o s
  | .bne a b o => Sys2Proof.Machine.execBne a b o s
  | .blt a b o => Sys2Proof.Machine.execBlt a b o s
  | .bge a b o => Sys2Proof.Machine.execBge a b o s
  | .bltn a b o => Sys2Proof.Machine.execBltn a b o s
  | .bgen a b o => Sys2Proof.Machine.execBgen a b o s
  | .jmp o => Sys2Proof.Machine.execJmp o s
  | .call o => Sys2Proof.Machine.execCall o s
  | .jr a im => Sys2Proof.Machine.execJr a im s
  | .callr d a im => Sys2Proof.Machine.execCallr d a im s
  | .ldI8 d a l y o => Sys2Proof.Machine.execLdI8 d a l y o s
  | .ldI16 d a l y o => Sys2Proof.Machine.execLdI16 d a l y o s
  | .ldI32 d a l y o => Sys2Proof.Machine.execLdI32 d a l y o s
  | .ldI64 d a l y o => Sys2Proof.Machine.execLdI64 d a l y o s
  | .ldnN8 d a l y o => Sys2Proof.Machine.execLdnN8 d a l y o s
  | .ldnN16 d a l y o => Sys2Proof.Machine.execLdnN16 d a l y o s
  | .ldnN32 d a l y o => Sys2Proof.Machine.execLdnN32 d a l y o s
  | .stI8 st a y o => Sys2Proof.Machine.execStI8 st a y o s
  | .stI16 st a y o => Sys2Proof.Machine.execStI16 st a y o s
  | .stI32 st a y o => Sys2Proof.Machine.execStI32 st a y o s
  | .stI64 st a y o => Sys2Proof.Machine.execStI64 st a y o s
  | .ldaN32 d a l c o => Sys2Proof.Machine.execLdaN32 d a l c o s
  | .ldaI64 d a l c o => Sys2Proof.Machine.execLdaI64 d a l c o s
  | .stlI32 st a c o => Sys2Proof.Machine.execStlI32 st a c o s
  | .stlI64 st a c o => Sys2Proof.Machine.execStlI64 st a c o s
  | .ldcN32 d a l o => Sys2Proof.Machine.execLdcN32 d a l o s
  | .ldcI64 d a l o => Sys2Proof.Machine.execLdcI64 d a l o s
  | .ldbN32 d a l o => Sys2Proof.Machine.execLdbN32 d a l o s
  | .ldbI64 d a l o => Sys2Proof.Machine.execLdbI64 d a l o s
  | .stbI32 st a o => Sys2Proof.Machine.execStbI32 st a o s
  | .stbI64 st a o => Sys2Proof.Machine.execStbI64 st a o s
  | .amoAdd d a b c z => Sys2Proof.Machine.execAmoAdd d a b c z s
  | .amoAnd d a b c z => Sys2Proof.Machine.execAmoAnd d a b c z s
  | .amoOr d a b c z => Sys2Proof.Machine.execAmoOr d a b c z s
  | .amoXor d a b c z => Sys2Proof.Machine.execAmoXor d a b c z s
  | .amoMin d a b c z => Sys2Proof.Machine.execAmoMin d a b c z s
  | .amoMax d a b c z => Sys2Proof.Machine.execAmoMax d a b c z s
  | .amoMinn d a b c z => Sys2Proof.Machine.execAmoMinn d a b c z s
  | .amoMaxn d a b c z => Sys2Proof.Machine.execAmoMaxn d a b c z s
  | .amoSwap d a b c z => Sys2Proof.Machine.execAmoSwap d a b c z s
  | .cas d a b c z => Sys2Proof.Machine.execCas d a b c z s
  | .fence c k => Sys2Proof.Machine.execFence c k s
  | .chk o => Sys2Proof.Machine.execChk o s
  | .cldrop a => Sys2Proof.Machine.execCldrop a s
  | .lrun g im => Sys2Proof.Machine.execLrun g im s
  | .lwait => Sys2Proof.Machine.execLwait s
  | .hcnt d h => Sys2Proof.Machine.execHcnt d h s
  | .htry d h => Sys2Proof.Machine.execHtry d h s
  | .tdist d a l o => Sys2Proof.Machine.execTdist d a l o s
  | .tstake d a o => Sys2Proof.Machine.execTstake d a o s
  | .tunstake d a o => Sys2Proof.Machine.execTunstake d a o s
  | .ttouch a o => Sys2Proof.Machine.execTtouch a o s
  | .bresize d a => Sys2Proof.Machine.execBresize d a s
  | .xlin d a b => Sys2Proof.Machine.execXlin d a b s
  | .xstr d a b => Sys2Proof.Machine.execXstr d a b s
  | .xmc d a b => Sys2Proof.Machine.execXmc d a b s
  | .xzero d a => Sys2Proof.Machine.execXzero d a s
  | .xwait c n => Sys2Proof.Machine.execXwait c n s
  | .xyield a c n => Sys2Proof.Machine.execXyield a c n s
  | .bari d a b => Sys2Proof.Machine.execBari d a b s
  | .bara d a b => Sys2Proof.Machine.execBara d a b s
  | .barw d a b => Sys2Proof.Machine.execBarw d a b s
  | .bart d a b => Sys2Proof.Machine.execBart d a b s
  | .launch d a => Sys2Proof.Machine.execLaunch d a s
  | .cancel a l => Sys2Proof.Machine.execCancel a l s
  | .cntrd d a l => Sys2Proof.Machine.execCntrd d a l s
  | .phopen d a => Sys2Proof.Machine.execPhopen d a s
  | .phwait a => Sys2Proof.Machine.execPhwait a s
  | .trayput a b => Sys2Proof.Machine.execTrayput a b s
  | .traytake d => Sys2Proof.Machine.execTraytake d s
  | .sysr d im => Sys2Proof.Machine.execSysr d im s
  | .sysw a im => Sys2Proof.Machine.execSysw a im s
  | .trap im => Sys2Proof.Machine.execTrap im s
  | .eret => Sys2Proof.Machine.execEret s
  | .yield => Sys2Proof.Machine.execYield s
  | .exit => Sys2Proof.Machine.execExit s
  | .shoot a b c => Sys2Proof.Machine.execShoot a b c s
  | .clsave a => Sys2Proof.Machine.execClsave a s
  | .clrest a => Sys2Proof.Machine.execClrest a s
  | .vadd w => Sys2Proof.Machine.execVadd w s
  | .vsub w => Sys2Proof.Machine.execVsub w s
  | .vmul w => Sys2Proof.Machine.execVmul w s
  | .vmulh w => Sys2Proof.Machine.execVmulh w s
  | .vmad w => Sys2Proof.Machine.execVmad w s
  | .vand w => Sys2Proof.Machine.execVand w s
  | .vor w => Sys2Proof.Machine.execVor w s
  | .vxor w => Sys2Proof.Machine.execVxor w s
  | .vnot w => Sys2Proof.Machine.execVnot w s
  | .vshl w => Sys2Proof.Machine.execVshl w s
  | .vshr w => Sys2Proof.Machine.execVshr w s
  | .vsha w => Sys2Proof.Machine.execVsha w s
  | .vmin w => Sys2Proof.Machine.execVmin w s
  | .vmax w => Sys2Proof.Machine.execVmax w s
  | .vabs w => Sys2Proof.Machine.execVabs w s
  | .vneg w => Sys2Proof.Machine.execVneg w s
  | .vclz w => Sys2Proof.Machine.execVclz w s
  | .vpopc w => Sys2Proof.Machine.execVpopc w s
  | .vsel w => Sys2Proof.Machine.execVsel w s
  | .vfadd w => Sys2Proof.Machine.execVfadd w s
  | .vfsub w => Sys2Proof.Machine.execVfsub w s
  | .vfmul w => Sys2Proof.Machine.execVfmul w s
  | .vfma w => Sys2Proof.Machine.execVfma w s
  | .vfms w => Sys2Proof.Machine.execVfms w s
  | .vfnma w => Sys2Proof.Machine.execVfnma w s
  | .vfdiv w => Sys2Proof.Machine.execVfdiv w s
  | .vfsqrt w => Sys2Proof.Machine.execVfsqrt w s
  | .vfrcp w => Sys2Proof.Machine.execVfrcp w s
  | .vfrsq w => Sys2Proof.Machine.execVfrsq w s
  | .vfexp2 w => Sys2Proof.Machine.execVfexp2 w s
  | .vflog2 w => Sys2Proof.Machine.execVflog2 w s
  | .vfmin w => Sys2Proof.Machine.execVfmin w s
  | .vfmax w => Sys2Proof.Machine.execVfmax w s
  | .vfabs w => Sys2Proof.Machine.execVfabs w s
  | .vfneg w => Sys2Proof.Machine.execVfneg w s
  | .vfclass w => Sys2Proof.Machine.execVfclass w s
  | .vcmp w => Sys2Proof.Machine.execVcmp w s
  | .vcvt w => Sys2Proof.Machine.execVcvt w s
  | .vreqb w => Sys2Proof.Machine.execVreqb w s
  | .vqblk w => Sys2Proof.Machine.execVqblk w s
  | .vdqb w => Sys2Proof.Machine.execVdqb w s
  | .sadd w => Sys2Proof.Machine.execSadd w s
  | .saddi w => Sys2Proof.Machine.execSaddi w s
  | .ssub w => Sys2Proof.Machine.execSsub w s
  | .smul w => Sys2Proof.Machine.execSmul w s
  | .sshl w => Sys2Proof.Machine.execSshl w s
  | .smov w => Sys2Proof.Machine.execSmov w s
  | .vmov w => Sys2Proof.Machine.execVmov w s
  | .vmovi w => Sys2Proof.Machine.execVmovi w s
  | .vlane w => Sys2Proof.Machine.execVlane w s
  | .vbcs w => Sys2Proof.Machine.execVbcs w s
  | .vexs w => Sys2Proof.Machine.execVexs w s
  | .kand w => Sys2Proof.Machine.execKand w s
  | .kor w => Sys2Proof.Machine.execKor w s
  | .kxor w => Sys2Proof.Machine.execKxor w s
  | .knot w => Sys2Proof.Machine.execKnot w s
  | .kmov w => Sys2Proof.Machine.execKmov w s
  | .kpopc w => Sys2Proof.Machine.execKpopc w s
  | .lmask w => Sys2Proof.Machine.execLmask w s
  | .lgetm w => Sys2Proof.Machine.execLgetm w s
  | .vshuf w => Sys2Proof.Machine.execVshuf w s
  | .vshfup w => Sys2Proof.Machine.execVshfup w s
  | .vshfdn w => Sys2Proof.Machine.execVshfdn w s
  | .vbcl w => Sys2Proof.Machine.execVbcl w s
  | .vvote w => Sys2Proof.Machine.execVvote w s
  | .vballot w => Sys2Proof.Machine.execVballot w s
  | .vscan w => Sys2Proof.Machine.execVscan w s
  | .vred w => Sys2Proof.Machine.execVred w s
  | .vld w => Sys2Proof.Machine.execVld w s
  | .vst w => Sys2Proof.Machine.execVst w s
  | .vldb w => Sys2Proof.Machine.execVldb w s
  | .vstb w => Sys2Proof.Machine.execVstb w s
  | .vldf w => Sys2Proof.Machine.execVldf w s
  | .vstf w => Sys2Proof.Machine.execVstf w s
  | .vlda w => Sys2Proof.Machine.execVlda w s
  | .vstl w => Sys2Proof.Machine.execVstl w s
  | .vldc w => Sys2Proof.Machine.execVldc w s
  | .vamo w => Sys2Proof.Machine.execVamo w s
  | .vcas w => Sys2Proof.Machine.execVcas w s
  | .xidx w => Sys2Proof.Machine.execXidx w s
  | .lbr w => Sys2Proof.Machine.execLbr w s
  | .sbr w => Sys2Proof.Machine.execSbr w s
  | .ljmp w => Sys2Proof.Machine.execLjmp w s
  | .lcall w => Sys2Proof.Machine.execLcall w s
  | .lret w => Sys2Proof.Machine.execLret w s
  | .ljoin w => Sys2Proof.Machine.execLjoin w s
  | .lyield w => Sys2Proof.Machine.execLyield w s
  | .lend w => Sys2Proof.Machine.execLend w s
  | .lexit w => Sys2Proof.Machine.execLexit w s
  | .mssa w => Sys2Proof.Machine.execMssa w s
  | .mdot w => Sys2Proof.Machine.execMdot w s
  | .mzero w => Sys2Proof.Machine.execMzero w s
  | .mload w => Sys2Proof.Machine.execMload w s
  | .mdrain w => Sys2Proof.Machine.execMdrain w s
  | .einit w => Sys2Proof.Machine.execEinit w s
  | .eapp w => Sys2Proof.Machine.execEapp w s
  | .eleft w => Sys2Proof.Machine.execEleft w s
  | .eright w => Sys2Proof.Machine.execEright w s
  | .ecap w => Sys2Proof.Machine.execEcap w s
  | .estat w => Sys2Proof.Machine.execEstat w s
  | .esave w => Sys2Proof.Machine.execEsave w s
  | .erest w => Sys2Proof.Machine.execErest w s
  | .routineStart slot => Sys2Proof.Machine.execRoutineStart slot s
  | .lrunQueueSlotFree slot => Sys2Proof.Machine.execLrunQueueSlotFree slot s
  | .lwaitRelease slot => Sys2Proof.Machine.execLwaitRelease slot s
  | .parkedWordRetest slot leaf => Sys2Proof.Machine.execParkedWordRetest slot leaf s
  | .asyncTrapHoldExpiry slot => Sys2Proof.Machine.execAsyncTrapHoldExpiry slot s
  | .drillRetire slot => Sys2Proof.Machine.execDrillRetire slot s
  | .bindRecordValid slot w0 w1 w2 w3 => Sys2Proof.Machine.execBindRecordValid slot w0 w1 w2 w3 s
  | .launchDependenceRelease obj => Sys2Proof.Machine.execLaunchDependenceRelease obj s
  | .phaseArrival obj dest err => Sys2Proof.Machine.execPhaseArrival obj dest err s
  | .phaseLineRaise obj dest => Sys2Proof.Machine.execPhaseLineRaise obj dest s
  | .phwaitRelease slot => Sys2Proof.Machine.execPhwaitRelease slot s
  | .trayputResume slot => Sys2Proof.Machine.execTrayputResume slot s
  | .congestionSample die => Sys2Proof.Machine.execCongestionSample die s
  | .congestionLevelApply core => Sys2Proof.Machine.execCongestionLevelApply core s
  | .throttlePointerAdvance core => Sys2Proof.Machine.execThrottlePointerAdvance core s
  | .signallerUnmappedEvent die q => Sys2Proof.Machine.execSignallerUnmappedEvent die q s
  | .mailboxWrite die pair data => Sys2Proof.Machine.execMailboxWrite die pair data s
  | .queueNop die q => Sys2Proof.Machine.execQueueNop die q s
  | .queueLaunch die q => Sys2Proof.Machine.execQueueLaunch die q s
  | .queueWait die q => Sys2Proof.Machine.execQueueWait die q s
  | .queueSignal die q => Sys2Proof.Machine.execQueueSignal die q s
  | .queueXfer die q => Sys2Proof.Machine.execQueueXfer die q s
  | .barwWake slot => Sys2Proof.Machine.execBarwWake slot s
  | .tendrilStep cl => Sys2Proof.Machine.execTendrilStep cl s
  | .tileLand cl tile => Sys2Proof.Machine.execTileLand cl tile s
  | .tileFillReturn cl tile line => Sys2Proof.Machine.execTileFillReturn cl tile line s
  | .tileWritebackAck cl tile => Sys2Proof.Machine.execTileWritebackAck cl tile s
  | .hubStoreStamp id => Sys2Proof.Machine.execHubStoreStamp id s
  | .stampResponse id w wts => Sys2Proof.Machine.execStampResponse id w wts s
  | .hubFill cl line slot dt lease => Sys2Proof.Machine.execHubFill cl line slot dt lease s
  | .hubRenewal cl line slot dt lease wts => Sys2Proof.Machine.execHubRenewal cl line slot dt lease wts s
  | .leaseResponse cl line slot wts rts data psn => Sys2Proof.Machine.execLeaseResponse cl line slot wts rts data psn s
  | .pageReclassify pte => Sys2Proof.Machine.execPageReclassify pte s
  | .regionMerge die base size => Sys2Proof.Machine.execRegionMerge die base size s
  | .dtDrift slot => Sys2Proof.Machine.execDtDrift slot s
  | .stampRebase die => Sys2Proof.Machine.execStampRebase die s
  | .clocheVerify core ent line wts dt lease => Sys2Proof.Machine.execClocheVerify core ent line wts dt lease s
  | .clocheVerdict core ent line wts struck => Sys2Proof.Machine.execClocheVerdict core ent line wts struck s
  | .chkResolve slot => Sys2Proof.Machine.execChkResolve slot s
  | .translationWalk die job page store => Sys2Proof.Machine.execTranslationWalk die job page store s
  | .poolPageAdd die size pa => Sys2Proof.Machine.execPoolPageAdd die size pa s
  | .benchMapWrite core idx off len va job => Sys2Proof.Machine.execBenchMapWrite core idx off len va job s
  | .benchMapWriteback core idx => Sys2Proof.Machine.execBenchMapWriteback core idx s
  | .migrationMove die job va frame => Sys2Proof.Machine.execMigrationMove die job va frame s
  | .shootRemote die id => Sys2Proof.Machine.execShootRemote die id s
  | .copyRetire slot cls => Sys2Proof.Machine.execCopyRetire slot cls s
  | .xwaitRelease slot => Sys2Proof.Machine.execXwaitRelease slot s
  | .xyieldWake slot => Sys2Proof.Machine.execXyieldWake slot s
  | .matrixAccept slot => Sys2Proof.Machine.execMatrixAccept slot s
  | .matrixRetire core => Sys2Proof.Machine.execMatrixRetire core s
  | .matrixErrorTrap slot => Sys2Proof.Machine.execMatrixErrorTrap slot s
  | .preemptCommand slot deadline => Sys2Proof.Machine.execPreemptCommand slot deadline s
  | .preemptionTrap slot => Sys2Proof.Machine.execPreemptionTrap slot s
  | .unbind slot => Sys2Proof.Machine.execUnbind slot s
  | .firmwareResume slot scr => Sys2Proof.Machine.execFirmwareResume slot scr s
  | .sramScrub core addr => Sys2Proof.Machine.execSramScrub core addr s
  | .ownerZeroing core job => Sys2Proof.Machine.execOwnerZeroing core job s
  | .jobEnd job => Sys2Proof.Machine.execJobEnd job s
  | .snapshot job region => Sys2Proof.Machine.execSnapshot job region s
  | .partLoss part => Sys2Proof.Machine.execPartLoss part s
  | .rds line agent => Sys2Proof.Machine.execRds line agent s
  | .rdx line agent => Sys2Proof.Machine.execRdx line agent s
  | .upg line agent => Sys2Proof.Machine.execUpg line agent s
  | .wb line agent data psn => Sys2Proof.Machine.execWb line agent data psn s
  | .evict line agent => Sys2Proof.Machine.execEvict line agent s
  | .fwds line holder req => Sys2Proof.Machine.execFwds line holder req s
  | .fwdx line holder req => Sys2Proof.Machine.execFwdx line holder req s
  | .inv line holder req => Sys2Proof.Machine.execInv line holder req s
  | .coherenceData line die st data psn => Sys2Proof.Machine.execCoherenceData line die st data psn s
  | .coherenceAck line agent gone => Sys2Proof.Machine.execCoherenceAck line agent gone s
  | .homeAtomic id => Sys2Proof.Machine.execHomeAtomic id s
  | .atomicResponse id old psn => Sys2Proof.Machine.execAtomicResponse id old psn s
  | .dieFailure die => Sys2Proof.Machine.execDieFailure die s
  | .devicePhaseArrival obj dest err => Sys2Proof.Machine.execDevicePhaseArrival obj dest err s
  | .bankRefresh die chan bank => Sys2Proof.Machine.execBankRefresh die chan bank s
  | .rowClose die chan bank => Sys2Proof.Machine.execRowClose die chan bank s
  | .dramScrub die chan bank row line verdict => Sys2Proof.Machine.execDramScrub die chan bank row line verdict s
  | .hbmRetrain die stack => Sys2Proof.Machine.execHbmRetrain die stack s
  | .riserTest die riser fails => Sys2Proof.Machine.execRiserTest die riser fails s
  | .meshPromote die stop port vc => Sys2Proof.Machine.execMeshPromote die stop port vc s
  | .hostMemrdS line => Sys2Proof.Machine.execHostMemrdS line s
  | .hostMemrdA line => Sys2Proof.Machine.execHostMemrdA line s
  | .hostMemrdI line => Sys2Proof.Machine.execHostMemrdI line s
  | .hostMemwr line data => Sys2Proof.Machine.execHostMemwr line data s
  | .birsp line => Sys2Proof.Machine.execBirsp line s
  | .bisnpTimeout line => Sys2Proof.Machine.execBisnpTimeout line s
  | .hostCacheCompletion line data => Sys2Proof.Machine.execHostCacheCompletion line data s
  | .snpinv line => Sys2Proof.Machine.execSnpinv line s
  | .snpdata line => Sys2Proof.Machine.execSnpdata line s
  | .snpcur line => Sys2Proof.Machine.execSnpcur line s
  | .poolCompletion id data psn => Sys2Proof.Machine.execPoolCompletion id data psn s
  | .poolFailure win => Sys2Proof.Machine.execPoolFailure win s
  | .portLinkDown port => Sys2Proof.Machine.execPortLinkDown port s
  | .powerGood image => Sys2Proof.Machine.execPowerGood image s
  | .recoveryImage image => Sys2Proof.Machine.execRecoveryImage image s
  | .spdmRequest port nonce => Sys2Proof.Machine.execSpdmRequest port nonce s
  | .thermalLevelChange die temp => Sys2Proof.Machine.execThermalLevelChange die temp s
  | .sramBankPower core bank power => Sys2Proof.Machine.execSramBankPower core bank power s
  | .hbmrateWrite value => Sys2Proof.Machine.execHbmrateWrite value s
  | .pwinWrite win word value => Sys2Proof.Machine.execPwinWrite win word value s
  | .debugRead value => Sys2Proof.Machine.execDebugRead value s
  | .debugReadDone => Sys2Proof.Machine.execDebugReadDone s
  | .mgmtRegisterWrite off value fw => Sys2Proof.Machine.execMgmtRegisterWrite off value fw s
  | .illegalInstruction slot leaf word => Sys2Proof.Machine.execIllegalInstruction slot leaf word s
  | .instructionFetchFault slot leaf addr sector => Sys2Proof.Machine.execInstructionFetchFault slot leaf addr sector s
  | .queueSlotMap die pair mapped => Sys2Proof.Machine.execQueueSlotMap die pair mapped s
  | .gardenerCancel slot => Sys2Proof.Machine.execGardenerCancel slot s
  | .replayModeSet job mode base size => Sys2Proof.Machine.execReplayModeSet job mode base size s
  | .replayLogSpaceFreed job count => Sys2Proof.Machine.execReplayLogSpaceFreed job count s
  | .translationCacheDrop core dieLevel job page => Sys2Proof.Machine.execTranslationCacheDrop core dieLevel job page s
  | .meshGrant die stop port => Sys2Proof.Machine.execMeshGrant die stop port s
  | .hokuxPortDown port => Sys2Proof.Machine.execHokuxPortDown port s
  | .xferComplete die q ok => Sys2Proof.Machine.execXferComplete die q ok s
  | .incomingXfer addr data => Sys2Proof.Machine.execIncomingXfer addr data s
  | .phaseLineSideband obj dest => Sys2Proof.Machine.execPhaseLineSideband obj dest s
  | .softError target verdict => Sys2Proof.Machine.execSoftError target verdict s

end Sys2Proof.Machine
end

