-- ==== Sys2Proof/Machine/Issue.lean ====
section
/-!
DEFINITION. Who moves: fetching a word and running it, delivering a message, the issue ranking of a core, and the cycle of the module (spec 01,
R15 to R17; 02, R54; 10, R204, R205; 23, R388). -/
namespace Sys2Proof.Machine

/-! ## Fetch -/

/-- What a fetch answers: the word, a wait for a walk, or the fetch fault with the poisoned sector that caused it. -/
inductive Fetch where
  | word (x : Nat)
  | wait (s : State)
  | fault (sector : Option Nat)
/-- The first poisoned sector of n bytes at a physical address. -/
def fetchPoison (s : State) (pa n : Nat) : Option Nat :=
  (upFrom (pa / 32) ((pa + n - 1) / 32 + 1 - pa / 32)).findSome? (fun k => if freshPsn s (32 * k) || !reachable s (k / 4) then some (32 * k) else none)
/-- n bytes of code at a virtual address within one 4 KiB page. -/
def fetchPiece (s : State) (slot : Nat) (d : Drill) (leaf : Bool) (va n : Nat) : Fetch :=
  match translate s slot d .fetch leaf va with
  | .miss => .wait (askWalk s slot d .fetch va)
  | .fault _ => .fault none
  | .hit pa _ => match fetchPoison s pa n with
    | some p => .fault (some p)
    | none => .word (if inHubWindow pa then 0 else freshRead s pa n)
/-- The word at a PC, as one read; a leaf word may cross into a second page. -/
def fetchWord (s : State) (slot : Nat) (d : Drill) (leaf : Bool) (va n : Nat) : Fetch :=
  let k := min n (4096 - va % 4096)
  match fetchPiece s slot d leaf va k with
  | .word x =>
    if k = n then .word x
    else (match fetchPiece s slot d leaf (va + k) (n - k) with
      | .word y => .word (x + y * 2 ^ (8 * k))
      | r => r)
  | r => r

/-! ## Issue of one word -/

/-- What has fallen due is taken after a word, and drills that yielded hear of it. -/
def afterWord (slot : Nat) (o : Host.Outcome State Fault Refusal) : Host.Outcome State Fault Refusal :=
  match o with
  | .next t => .next (boundary t slot)
  | o => o
/-- The stem stream of a slot issues its next word. -/
def runStem (slot : Nat) (s : State) : Host.Outcome State Fault Refusal :=
  match drillAt s slot with
  | none => .next s
  | some d =>
    if !stemReady s slot d then .next s
    else if !stemTargetOk s d d.pc.toNat then afterWord slot (execInstructionFetchFault slot false d.pc none s)
    else match fetchWord s slot d false d.pc.toNat 4 with
      | .wait t => .next (onDrill t slot (fun e => { e with stemWait := .walk }))
      | .fault p => afterWord slot (execInstructionFetchFault slot false d.pc p s)
      | .word x => match decodeStem (BitVec.ofNat 32 x) with
        | .ok i => afterWord slot (exec i { s with cur := slot })
        | .error _ => afterWord slot (execIllegalInstruction slot false (BitVec.ofNat 96 x) s)
/-- The leaf stream of a slot issues the next word of its running split. -/
def runLeaf (slot : Nat) (s : State) : Host.Outcome State Fault Refusal :=
  match drillAt s slot with
  | none => .next s
  | some d =>
    let pc := (runSplit (leafCtx d)).pc
    if !leafReady s slot d then .next s
    else if !leafTargetOk s d pc.toNat then afterWord slot (execInstructionFetchFault slot true pc none s)
    else match fetchWord s slot d true pc.toNat 12 with
      | .wait t => .next (onDrill t slot (fun e => { e with leafWait := .walk }))
      | .fault p => afterWord slot (execInstructionFetchFault slot true pc p s)
      | .word x => match decodeLeaf (BitVec.ofNat 96 x) with
        | .ok i => afterWord slot (exec i { s with cur := slot })
        | .error _ => afterWord slot (execIllegalInstruction slot true (BitVec.ofNat 96 x) s)
/-- Whether an instruction is a word of a stream, which only its stream may run, and not an event. -/
def isWord (i : Instr) : Bool := (encode i).isSome
/-- An event from outside, or of a part that acts by itself. -/
def runInput (i : Instr) (s : State) : Host.Outcome State Fault Refusal := if isWord i || !i.wf then .next s else exec i s

/-! ## Messages -/

/-- What a message leaves in the timing of mesh and DRAM when it is delivered (spec 27, R428; 28, R437). -/
def noteTraffic (s : State) (m : Msg) : State :=
  let fill := match m with | .hubFill .. => true | .tileFillReturn .. => true | .rds .. => true | .rdx .. => true | _ => false
  (dramLines s m).foldl (fun t l => noteRow t l fill) (meshNote s m)
/-- A message arrives as the event that it is. -/
def deliver (m : Msg) (s : State) : Host.Outcome State Fault Refusal :=
  match m with
  | .routineStart slot => Sys2Proof.Machine.execRoutineStart slot s
  | .lrunQueueSlotFree slot => Sys2Proof.Machine.execLrunQueueSlotFree slot s
  | .lwaitRelease slot => Sys2Proof.Machine.execLwaitRelease slot s
  | .parkedWordRetest slot leaf => Sys2Proof.Machine.execParkedWordRetest slot leaf s
  | .drillRetire slot => Sys2Proof.Machine.execDrillRetire slot s
  | .launchDependenceRelease obj => Sys2Proof.Machine.execLaunchDependenceRelease obj s
  | .phaseArrival obj dest err => Sys2Proof.Machine.execPhaseArrival obj dest err s
  | .phaseLineRaise obj dest => Sys2Proof.Machine.execPhaseLineRaise obj dest s
  | .phwaitRelease slot => Sys2Proof.Machine.execPhwaitRelease slot s
  | .trayputResume slot => Sys2Proof.Machine.execTrayputResume slot s
  | .congestionLevelApply core => Sys2Proof.Machine.execCongestionLevelApply core s
  | .queueNop die q => Sys2Proof.Machine.execQueueNop die q s
  | .queueLaunch die q => Sys2Proof.Machine.execQueueLaunch die q s
  | .queueWait die q => Sys2Proof.Machine.execQueueWait die q s
  | .queueSignal die q => Sys2Proof.Machine.execQueueSignal die q s
  | .queueXfer die q => Sys2Proof.Machine.execQueueXfer die q s
  | .barwWake slot => Sys2Proof.Machine.execBarwWake slot s
  | .tendrilStep cl => Sys2Proof.Machine.execTendrilStep cl s
  | .tileLand cl tile => Sys2Proof.Machine.execTileLand cl tile s
  | .tileFillReturn cl tile line => Sys2Proof.Machine.execTileFillReturn cl tile line s
  | .tileWritebackAck cl tile => Sys2Proof.Machine.execTileWritebackAck cl tile s
  | .hubStoreStamp id => Sys2Proof.Machine.execHubStoreStamp id s
  | .stampResponse id w wts => Sys2Proof.Machine.execStampResponse id w wts s
  | .hubFill cl line slot dt lease => Sys2Proof.Machine.execHubFill cl line slot dt lease s
  | .hubRenewal cl line slot dt lease wts => Sys2Proof.Machine.execHubRenewal cl line slot dt lease wts s
  | .leaseResponse cl line slot wts rts data psn => Sys2Proof.Machine.execLeaseResponse cl line slot wts rts data psn s
  | .pageReclassify pte => Sys2Proof.Machine.execPageReclassify pte s
  | .clocheVerify core ent line wts dt lease => Sys2Proof.Machine.execClocheVerify core ent line wts dt lease s
  | .clocheVerdict core ent line wts struck => Sys2Proof.Machine.execClocheVerdict core ent line wts struck s
  | .chkResolve slot => Sys2Proof.Machine.execChkResolve slot s
  | .translationWalk die job page store => Sys2Proof.Machine.execTranslationWalk die job page store s
  | .benchMapWriteback core idx => Sys2Proof.Machine.execBenchMapWriteback core idx s
  | .migrationMove die job va frame => Sys2Proof.Machine.execMigrationMove die job va frame s
  | .shootRemote die id => Sys2Proof.Machine.execShootRemote die id s
  | .copyRetire slot cls => Sys2Proof.Machine.execCopyRetire slot cls s
  | .xwaitRelease slot => Sys2Proof.Machine.execXwaitRelease slot s
  | .xyieldWake slot => Sys2Proof.Machine.execXyieldWake slot s
  | .matrixAccept slot => Sys2Proof.Machine.execMatrixAccept slot s
  | .matrixRetire core => Sys2Proof.Machine.execMatrixRetire core s
  | .matrixErrorTrap slot => Sys2Proof.Machine.execMatrixErrorTrap slot s
  | .preemptionTrap slot => Sys2Proof.Machine.execPreemptionTrap slot s
  | .asyncTrapHoldExpiry slot => Sys2Proof.Machine.execAsyncTrapHoldExpiry slot s
  | .unbind slot => Sys2Proof.Machine.execUnbind slot s
  | .ownerZeroing core job => Sys2Proof.Machine.execOwnerZeroing core job s
  | .rds line agent => Sys2Proof.Machine.execRds line agent s
  | .rdx line agent => Sys2Proof.Machine.execRdx line agent s
  | .upg line agent => Sys2Proof.Machine.execUpg line agent s
  | .wb line agent data psn => Sys2Proof.Machine.execWb line agent data psn s
  | .evict line agent => Sys2Proof.Machine.execEvict line agent s
  | .fwds line holder req => Sys2Proof.Machine.execFwds line holder req s
  | .fwdx line holder req => Sys2Proof.Machine.execFwdx line holder req s
  | .inv line holder req => Sys2Proof.Machine.execInv line holder req s
  | .coherenceData line die st data psn => Sys2Proof.Machine.execCoherenceData line die st data psn s
  | .coherenceAck line agent gone => Sys2Proof.Machine.execCoherenceAck line agent gone s
  | .homeAtomic id => Sys2Proof.Machine.execHomeAtomic id s
  | .atomicResponse id old psn => Sys2Proof.Machine.execAtomicResponse id old psn s
  | .hbmRetrain die stack => Sys2Proof.Machine.execHbmRetrain die stack s
  | .meshPromote die stop port vc => Sys2Proof.Machine.execMeshPromote die stop port vc s
  | .debugReadDone => Sys2Proof.Machine.execDebugReadDone s
  | .hostMemrdS line => Sys2Proof.Machine.execHostMemrdS line s
  | .hostMemrdA line => Sys2Proof.Machine.execHostMemrdA line s
  | .hostMemrdI line => Sys2Proof.Machine.execHostMemrdI line s
  | .hostMemwr line data => Sys2Proof.Machine.execHostMemwr line data s
  | .snpinv line => Sys2Proof.Machine.execSnpinv line s
  | .snpdata line => Sys2Proof.Machine.execSnpdata line s
  | .snpcur line => Sys2Proof.Machine.execSnpcur line s
  | .dtDrift slot => Sys2Proof.Machine.execDtDrift slot s
  | .throttlePointerAdvance core => Sys2Proof.Machine.execThrottlePointerAdvance core s
  | .congestionSample die => Sys2Proof.Machine.execCongestionSample die s

/-! ## The issue ranking of a core (spec 10, R204, R205) -/

/-- The cycle at which a stream's instruction became ready. -/
def readyAt (ready : Nat) (last : Option Nat) : Nat := max ready (last.getD 0)
/-- Earlier issue, none before any. -/
def issuedBefore (a b : Option Nat) : Bool := match a, b with | none, none => false | none, some _ => true | some _, none => false | some x, some y => decide (x < y)
/-- The candidate of an eligible drill: leaf or stem. -/
def candidate (s : State) (slot : Nat) (d : Drill) : Bool :=
  let a := readyAt d.readyStem d.lastStem
  let b := readyAt d.readyLeaf d.lastLeaf
  if !stemReady s slot d then true else if !leafReady s slot d then false else if b < a then true else if a < b then false else issuedBefore d.lastLeaf d.lastStem
/-- The cycle of a drill's last issue. -/
def lastIssue (d : Drill) : Option Nat := match d.lastStem, d.lastLeaf with | some a, some b => some (max a b) | some a, none => some a | none, x => x
/-- Rank among eligible drills: last issue, then PRIO, then context. -/
def ranksBefore (a b : Nat × Drill) : Bool :=
  issuedBefore (lastIssue a.2) (lastIssue b.2) || (decide (lastIssue a.2 = lastIssue b.2) && (decide (b.2.prio < a.2.prio) || (decide (a.2.prio = b.2.prio) && decide (a.1 < b.1))))
/-- Rank among the drills that a congested core may issue: PRIO, then context from the throttle pointer. -/
def throttleBefore (ptr : Nat) (a b : Nat × Drill) : Bool :=
  decide (b.2.prio < a.2.prio) || (decide (a.2.prio = b.2.prio) && decide ((a.1 % 16 + 16 - ptr) % 16 < (b.1 % 16 + 16 - ptr) % 16))
def insertBy (before : Nat × Drill → Nat × Drill → Bool) (x : Nat × Drill) (l : List (Nat × Drill)) : List (Nat × Drill) :=
  match l with
  | [] => [x]
  | y :: r => if before x y then x :: y :: r else y :: insertBy before x r
def sortBy (before : Nat × Drill → Nat × Drill → Bool) (l : List (Nat × Drill)) : List (Nat × Drill) := l.foldl (fun a x => insertBy before x a) []
/-- How many drills a core may issue at a congestion level. -/
def issueLimit (level : Nat) : Nat := if level = 0 then 16 else 16 - 4 * level
/-- A stream's turn. -/
def turnOfStream (leaf : Bool) (slot : Nat) : Turn := if leaf then .leaf slot else .stem slot
/-- The words that a core issues in a cycle. -/
def issueCore (s : State) (core : Nat) : List Turn :=
  let c := coreAt s core
  let able := s.drills.filter (fun e => decide (coreOf e.1 = core) && drillReady s e.1 e.2)
  let ranked := sortBy ranksBefore ((sortBy (throttleBefore c.throttle) able).take (issueLimit c.congestion))
  let first := (ranked.take 4).map (fun e => turnOfStream (candidate s e.1 e.2) e.1)
  let second := ranked.filterMap (fun e => if stemReady s e.1 e.2 && leafReady s e.1 e.2 then some (turnOfStream (!candidate s e.1 e.2) e.1) else none)
  first ++ (if ranked.length < 4 then second.take (4 - ranked.length) else [])
/-- The words that the module issues in a cycle. -/
def issueAll (s : State) : List Turn := (below 4).flatMap (fun die => (boundCores s die).flatMap (issueCore s))

/-! ## The cycle -/

/-- A word that waits on the model's own conditions tries again; one that is parked (R112) does not. -/
def retries (w : Wait) : Bool :=
  match w with
  | .none => false
  | .hose => false
  | .chk .. => false
  | .xyield .. => false
  | .phwait _ => false
  | .barw .. => false
  | .pool .. => false
  | .exited => false
  | .halted _ => false
  | .unbind => false
  | _ => true
/-- The messages that fall due with the clock (spec 15, R266; 10, R205; 27, R429), and those of operations that are still under way. -/
def clockMsgs (s : State) : List Msg :=
  let dies := (below 4).filter (fun d => !(boundCores s d).isEmpty)
  (if s.cycle % 1024 = 0 then s.drills.map (fun e => Msg.dtDrift e.1) ++ (dies.flatMap (boundCores s)).map (fun c => Msg.throttlePointerAdvance c) else [])
  ++ (if s.cycle % 64 = 0 then dies.map (fun d => Msg.congestionSample d) else [])
  ++ (s.cores.filter (fun c => !c.2.mq.isEmpty)).map (fun c => Msg.matrixRetire c.1)
  ++ s.clusters.flatMap (fun c => c.2.engines.flatMap (fun e => e.2.map (fun x => Msg.copyRetire x.slot x.cls)))
  ++ s.dies.flatMap (fun d => (match d.2.move with | some m => [Msg.migrationMove d.1 m.job m.va m.frame] | none => []) ++ d.2.retrain.map (fun r => Msg.hbmRetrain d.1 r.1))
/-- A stream that is not ready now becomes ready later than this cycle. -/
def markReady (s : State) : State :=
  { s with drills := s.drills.map (fun e => (e.1, { e.2 with
      readyStem := (if stemReady s e.1 e.2 then e.2.readyStem else s.cycle), readyLeaf := (if leafReady s e.1 e.2 then e.2.readyLeaf else s.cycle) })) }
/-- One cycle of the clock: what falls due is sent, and every core's issue slots are filled. -/
def clock (s : State) : State :=
  let s1 := markReady { s with cycle := s.cycle + 1 }
  let s2 := retestWaits (if s1.cycle % 64 = 0 then wake s1 retries else s1)
  let s3 := postAll s2 (clockMsgs s2)
  { s3 with sched := issueAll s3 }

end Sys2Proof.Machine
end

