-- ==== Sys2Proof/Machine/Step.lean ====
section
/-!
DEFINITION. One step of the module: whose turn it is, else the oldest message in flight, else the clock. -/
namespace Sys2Proof.Machine

/-- The oldest message in flight arrives; without one, the clock advances. -/
def stepAgenda (s : State) : Host.Outcome State Fault Refusal :=
  match s.agenda with
  | m :: r => deliver m (noteTraffic { s with agenda := r } m)
  | [] => .next (clock s)
/-- One step. -/
def step (s : State) : Host.Outcome State Fault Refusal :=
  match s.sched with
  | .stem slot :: r => runStem slot { s with sched := r }
  | .leaf slot :: r => runLeaf slot { s with sched := r }
  | .event :: r => stepAgenda { s with sched := r }
  | .input i :: r => runInput i { s with sched := r }
  | [] => stepAgenda s

/-! ## Placing an instruction where the next step fetches it -/

/-- Page, frame and address at which an instruction is placed. -/
def placeVa : Nat := 0x10000
/-- A drill whose next word of a stream is at placeVa: the one of slot 0, or a new one with all its lanes. -/
def placeDrill (s : State) (leaf : Bool) : Drill :=
  let d := (drillAt s 0).getD { live := 0xFFFFFFFF }
  let base : VAddr := BitVec.ofNat 56 placeVa
  let top : VAddr := BitVec.ofNat 56 (placeVa + 0x10000)
  let e := { d with due := none, killed := false, yields := [] }
  if leaf then
    let f := { e with lbase := base, llim := top, leafWait := .none, stemWait := .none }
    onLeaf f (fun c => putSplit c c.run { splitAt c c.run with
      state := 2, pc := base, em := (if (splitAt c c.run).state = 0 then f.live else (splitAt c c.run).em), sm := (if (splitAt c c.run).state = 0 then f.live else (splitAt c c.run).sm) })
  else { e with pc := base, sbase := base, slim := top, stemWait := .none }
/-- The instruction whose bits are w, of nbits bits, stored where the next step fetches: in a page of HBM that the core's cache translates,
with the drill of slot 0 at its address and its stream's turn next. -/
def State.withFetchWord (s : State) (nbits w : Nat) : State :=
  let leaf := decide (32 < nbits)
  let d := placeDrill s leaf
  let t : Trans := { job := d.job, page := 1, shift := 16, block := 1, word1 := 0x300000000001003C, frame := placeVa }
  let s1 := if d.super then onJob s d.job (fun j => if leaf then { j with klbase := BitVec.ofNat 56 placeVa, kllim := BitVec.ofNat 56 (placeVa + 0x10000) }
      else { j with ksbase := BitVec.ofNat 56 placeVa, kslim := BitVec.ofNat 56 (placeVa + 0x10000) }) else s
  let s2 := onCore (putDrill s1 0 d) 0 (fun c => { c with tcache := t :: c.tcache })
  { s2 with mem := cellsWrite s2.mem placeVa (if leaf then 12 else 4) w, sched := (if leaf then Turn.leaf 0 else Turn.stem 0) :: s2.sched }

end Sys2Proof.Machine
end

