-- ==== Sys2Proof/Safety.lean ====
section
/-!
DEFINITION. The terms in which statements are made: the invariant of a run, when a word of a stream may issue, what a word leaves as it was, and
what memory and bench read as. -/
namespace Sys2Proof.Machine

/-! ## Runs -/

/-- What every state of a run has: physical memory stands in its canonical form. -/
def State.Inv (s : State) : Prop := Memory.wf s.mem = true
/-- A step that neither faults nor is refused. -/
def Safe (o : Host.Outcome State Fault Refusal) : Prop := ∃ t, o = .next t

/-! ## Reading -/

/-- The byte of physical memory at an address. -/
def memByte (s : State) (a : Nat) : BitVec 8 := tabGet 0 s.mem a
/-- The byte of a core's bench at an offset. -/
def benchByte (s : State) (core off : Nat) : BitVec 8 := tabGet 0 (coreAt s core).bench off

/-! ## What a word leaves as it was -/

/-- Every part of the module outside the drills, their beds' channels and the messages in flight is as it was: cores with their benches, tiles and
engines, clusters, dies, jobs, memory and its poison, everything on its way, and the management registers. -/
structure SameModule (s t : State) : Prop where
  cores : t.cores = s.cores
  clusters : t.clusters = s.clusters
  dies : t.dies = s.dies
  jobs : t.jobs = s.jobs
  gens : t.gens = s.gens
  lines : t.lines = s.lines
  mem : t.mem = s.mem
  psn : t.psn = s.psn
  stores : t.stores = s.stores
  remotes : t.remotes = s.remotes
  shoots : t.shoots = s.shoots
  nextId : t.nextId = s.nextId
  mgmt : t.mgmt = s.mgmt
  cxlUp : t.cxlUp = s.cxlUp
  hokuxUp : t.hokuxUp = s.hokuxUp
  lostParts : t.lostParts = s.lostParts
  hostSide : t.hostSide = s.hostSide
  notices : t.notices = s.notices
  sched : t.sched = s.sched
  tick : t.tick = s.tick
  cycle : t.cycle = s.cycle
  cur : t.cur = s.cur

/-! ## Issue of a stem word (spec 02, R38, R53; 01, R30; 11, R218; 16, R294) -/

/-- The stem word of a plan may issue for drill d: the drill is bound to the slot whose turn it is and its bed is held, the word is legal, its level
may run it, its hoses are granted and ready, and no entry of a release's prior set holds it up. -/
structure StemIssues (p : StemPlan) (s : State) (d : Drill) : Prop where
  bound : drillAt s s.cur = some d
  bed : ∃ o, objAt s d.bed = some o
  legal : p.ins.wf = true
  level : p.priv = true → d.super = true
  granted : hoseDenied d false (stemHoses p.srcs) (stemHoses p.dst.toList) = none
  gate : p.release = true → releaseGate s s.cur d false = none
  ready : hosesReady s s.cur false d (stemHoses p.srcs) (stemHoses p.dst.toList) = true
/-- The values of the source fields of a stem word. -/
def stemOps (p : StemPlan) (s : State) (d : Drill) : List Word := stemSrcs s d [] p.srcs

/-! ## What a completed stem word leaves (spec 01, R21, R31, R32; 02, R38; 06, R112) -/

/-- What general register r holds after a stem word that issues to drill d: the result of the window on r that ends with the word; else the result
of the word, where it writes r and no window on r is open; else what it held. g0 reads zero. -/
def gAfter (d : Drill) (p : StemPlan) (res : Word) (r : Nat) : Word :=
  if r = 0 then 0
  else match (d.wins.filter (fun w => decide (w.kind = 0 ∧ w.reg = r ∧ (p.ctl = true ∨ w.left ≤ 1)))).getLast? with
    | some w => w.value.setWidth 64
    | none => if p.dst.map BitVec.toNat = some r ∧ p.la = 0 ∧ d.wins.all (fun w => decide (w.kind ≠ 0 ∨ w.reg ≠ r)) = true then res else gGet d r
/-- The windows open after it: those of the stem that go on, one word shorter, those of the leaf as they are, and the word's own. -/
def winsAfter (d : Drill) (p : StemPlan) (res : Word) : List PendWrite :=
  (d.wins.filter (fun w => !decide (w.kind = 0 ∧ (p.ctl = true ∨ w.left ≤ 1)))).map (fun w => if w.kind = 0 then { w with left := w.left - 1 } else w)
    ++ (match p.dst with
      | some f => if f.toNat < 48 ∧ p.la ≠ 0 ∧ d.wins.all (fun w => decide (w.kind ≠ 0 ∨ w.reg ≠ f.toNat)) = true then
          [{ kind := 0, owner := 0, reg := f.toNat, lanes := 0, value := res.setWidth 1024, left := p.la }] else []
      | none => [])
/-- The drill e that a stem word leaves of drill d: its result and the windows, the next PC, the stream issuing, and nothing else. -/
structure StemAfter (p : StemPlan) (res : Word) (next : Option Word) (d e : Drill) : Prop where
  regs : ∀ r, r < 48 → gGet e r = gAfter d p res r
  wins : e.wins = winsAfter d p res
  pc : e.pc = match next with | some a => a.setWidth 56 | none => d.pc + 4
  rest : e = { d with
    g := e.g, wins := e.wins, heldIssues := e.heldIssues, hoses := e.hoses, pc := e.pc, stemWait := if d.stemWait = .exited then .exited else .none,
    wake := false, wkind := 0, woke := none, walked := d.walked.filter (fun w => w.1), asked := d.asked.filter (fun w => w.1),
    granted := d.granted.filter (fun w => w.1), got := d.got.filter (fun g => g.leaf), claims := d.claims.filter (fun c => c.1), lastStem := e.lastStem }
/-- From state s, with drill d bound to the slot, a stem word with this result and target completes in state t: what it does to the drill; every
pop, then its push; and nothing else but messages in flight: no other drill, no object but the queues of its bed, no byte of memory or of a bench. -/
structure StemCompletes (p : StemPlan) (res : Word) (next : Option Word) (s t : State) (slot : Nat) (d : Drill) : Prop where
  drill : ∃ e, drillAt t slot = some e ∧ StemAfter p res next d e ∧
    ∀ h, hoseQ t e h = (hoseQ s d h).drop (countOf (stemHoses p.srcs) h) ++ (if h ∈ stemHoses p.dst.toList then [res.setWidth 1024] else [])
  others : ∀ k, k ≠ slot → drillAt t k = drillAt s k
  objs : ∀ k, (objAt t k).map (fun o => { o with hoses := [] }) = (objAt s k).map (fun o => { o with hoses := [] })
  rest : SameModule s t
  bytes : ∀ a, memByte t a = memByte s a
  benches : ∀ c a, benchByte t c a = benchByte s c a

/-! ## The integer words of the stem as the tables give them (spec 06, Tables 6.1 to 6.3; 02, R42 to R44) -/

/-- The shift count of a register shift: b[5:0]. -/
def countIn (b : Word) : Nat := b.toNat % 64
/-- 1 for true, 0 for false. -/
def truth (c : Bool) : Word := if c then 1#64 else 0#64
/-- How many of the numbers below n satisfy p. -/
def tally (n : Nat) (p : Nat → Bool) : Word := BitVec.ofNat 64 ((List.range n).filter p).length
/-- Bits [127:64] of a product. -/
def upper (x : BitVec 128) : Word := x.extractLsb' 64 64
/-- The three-register words of Table 6.1 and the immediate words of Table 6.3: destination, sources, and the result from the word's address and
the values of its sources. -/
def intRow (i : Instr) : Option (BitVec 6 × List (BitVec 6) × (VAddr → Word → Word → Word)) :=
  match i with
  | .add d a b => some (d, [a, b], fun _ x y => x + y)
  | .sub d a b => some (d, [a, b], fun _ x y => x - y)
  | .mul d a b => some (d, [a, b], fun _ x y => x * y)
  | .mulh d a b => some (d, [a, b], fun _ x y => upper (x.signExtend 128 * y.signExtend 128))
  | .mulhn d a b => some (d, [a, b], fun _ x y => upper (x.setWidth 128 * y.setWidth 128))
  | .div d a b => some (d, [a, b], fun _ x y => if y = 0 then -1 else x.sdiv y)
  | .divn d a b => some (d, [a, b], fun _ x y => if y = 0 then -1 else x / y)
  | .rem d a b => some (d, [a, b], fun _ x y => if y = 0 then x else x.srem y)
  | .remn d a b => some (d, [a, b], fun _ x y => if y = 0 then x else x % y)
  | .and d a b => some (d, [a, b], fun _ x y => x &&& y)
  | .or d a b => some (d, [a, b], fun _ x y => x ||| y)
  | .xor d a b => some (d, [a, b], fun _ x y => x ^^^ y)
  | .shl d a b => some (d, [a, b], fun _ x y => x <<< countIn y)
  | .shr d a b => some (d, [a, b], fun _ x y => x >>> countIn y)
  | .sha d a b => some (d, [a, b], fun _ x y => x.sshiftRight (countIn y))
  | .min d a b => some (d, [a, b], fun _ x y => if x.sle y then x else y)
  | .max d a b => some (d, [a, b], fun _ x y => if x.sle y then y else x)
  | .minn d a b => some (d, [a, b], fun _ x y => if x.ule y then x else y)
  | .maxn d a b => some (d, [a, b], fun _ x y => if x.ule y then y else x)
  | .slt d a b => some (d, [a, b], fun _ x y => truth (x.slt y))
  | .sltn d a b => some (d, [a, b], fun _ x y => truth (x.ult y))
  | .seq d a b => some (d, [a, b], fun _ x y => truth (x == y))
  | .clz d a => some (d, [a], fun _ x _ => tally 64 (fun n => decide (x.toNat < 2 ^ n)))
  | .ctz d a => some (d, [a], fun _ x _ => tally 64 (fun n => decide (x.toNat % 2 ^ (n + 1) = 0)))
  | .popc d a => some (d, [a], fun _ x _ => tally 64 (fun n => x.getLsbD n))
  | .addsh d a b h => some (d, [a, b], fun _ x y => x + y <<< h.toNat)
  | .addi d a n => some (d, [a], fun _ x _ => x + n.signExtend 64)
  | .andi d a n => some (d, [a], fun _ x _ => x &&& n.signExtend 64)
  | .ori d a n => some (d, [a], fun _ x _ => x ||| n.setWidth 64)
  | .xori d a n => some (d, [a], fun _ x _ => x ^^^ n.setWidth 64)
  | .shli d a c => some (d, [a], fun _ x _ => x <<< c.toNat)
  | .shri d a c => some (d, [a], fun _ x _ => x >>> c.toNat)
  | .shai d a c => some (d, [a], fun _ x _ => x.sshiftRight c.toNat)
  | .slti d a n => some (d, [a], fun _ x _ => truth (x.slt (n.signExtend 64)))
  | .sltni d a n => some (d, [a], fun _ x _ => truth (x.ult (n.signExtend 64)))
  | .muli d a n => some (d, [a], fun _ x _ => x * n.signExtend 64)
  | .ldhi d n => some (d, [], fun _ _ _ => n.signExtend 64 <<< 12)
  | .pcadd d n => some (d, [], fun pc _ _ => pc.setWidth 64 + n.signExtend 64 <<< 12)
  | _ => none

/-! ## Control words of the stem as their tables give them (spec 06, R116 to R118, R130; 01, Table 1.3; 23, Table 23.2) -/

/-- The conditional branches: sources, offset in words, condition. -/
def branchRow (i : Instr) : Option (BitVec 6 × BitVec 6 × BitVec 12 × (Word → Word → Bool)) :=
  match i with
  | .beq a b o => some (a, b, o, fun x y => x == y)
  | .bne a b o => some (a, b, o, fun x y => !(x == y))
  | .blt a b o => some (a, b, o, fun x y => x.slt y)
  | .bge a b o => some (a, b, o, fun x y => !x.slt y)
  | .bltn a b o => some (a, b, o, fun x y => x.ult y)
  | .bgen a b o => some (a, b, o, fun x y => !x.ult y)
  | _ => none
/-- The jumps and calls: source, link register, and the target from the word's address and its source. -/
def jumpRow (i : Instr) : Option (List (BitVec 6) × Option (BitVec 6) × (Word → Word → Word)) :=
  match i with
  | .jmp o => some ([], none, fun pc _ => pc + o.signExtend 64 * 4)
  | .call o => some ([], some 47, fun pc _ => pc + o.signExtend 64 * 4)
  | .jr a n => some ([a], none, fun _ x => x + n.signExtend 64 * 4)
  | .callr g a n => some ([a], some g, fun _ x => x + n.signExtend 64 * 4)
  | _ => none
/-- What a system register reads after x was written to it at supervisor level; none for the windows onto the held context and the ones that may not be
written. -/
def sysAfter (d : Drill) (n : Nat) (x : Word) : Option Word :=
  if n = 0x000 then some (((if x.toNat % 8 < 6 then x else (x &&& 0xFFFFFFFFFFFFFFF8) ||| (d.fmode.setWidth 64 &&& 7))) &&& 0x00FF007F)
  else if n = 0x001 then some (x &&& 3)
  else if n = 0x002 ∨ n = 0x103 ∨ n = 0x106 ∨ (0x141 ≤ n ∧ n ≤ 0x14F) then some x
  else if n = 0x003 then some (BitVec.ofNat 64 (max d.dt (x.toNat % 2 ^ 48)))
  else if 0x010 ≤ n ∧ n ≤ 0x013 then some (x &&& 0xFF)
  else if n = 0x104 then some ((if x.toNat % 4 < 2 then x else (x &&& 0xFFFFFFFFFFFFFFFC) ||| (d.tstat.setWidth 64 &&& 3)) &&& 0xEF03)
  else if n = 0x107 then some (x &&& 0xFFFFFFFF)
  else if n = 0x110 then some (x &&& 0xFF)
  else if n = 0x112 then some (x &&& 0xF)
  else if n = 0x113 then some (x &&& 0x7F)
  else if n = 0x140 then some 0
  else none

/-! ## Words that reach the bench (spec 06, R124; 11, R226; 17, R314) -/

/-- A bench access of n bytes aligned to al at address ea passes its checks: it names offset `off` of a core's bench, and state u stands once the
first-touch fills of its tiles are made. -/
structure BenchReady (s : State) (d : Drill) (ea n al core off : Nat) (u : State) : Prop where
  place : benchPlace s s.cur ea = some (core, off)
  inside : benchIn s s.cur ea n = true
  aligned : ea % al = 0
  filled : benchFills s s.cur d.super core off n = .ok u
/-- Between u and v only n bytes of one core's bench at offset `off` change: no other byte of a bench, no byte of memory, no object. -/
structure BenchOnly (u v : State) (core off n : Nat) : Prop where
  here : ∀ k, ¬(off ≤ k ∧ k < off + n) → benchByte v core k = benchByte u core k
  elsewhere : ∀ c k, c ≠ core → benchByte v c k = benchByte u c k
  bytes : ∀ a, memByte v a = memByte u a
  objs : ∀ k, objAt v k = objAt u k
  cur : v.cur = u.cur
/-- Bits [hi:lo] of a word. -/
def field (x : Word) (hi lo : Nat) : Nat := bitsOf x.toNat lo (hi + 1 - lo)
/-- An arrival of n drills at a barrier word: nothing when ERR is set or n is 0; else ARR rises, and the phase completes when the word is armed and both
counts are there (R224, R227). -/
def arrival (b : Bar) (n : Nat) : Bar :=
  let arr := min (b.arr + n) 4095
  if b.err = true ∨ n = 0 then b
  else if (b.exp ≠ 0 ∨ b.tt ≠ 0) ∧ b.exp ≤ arr ∧ b.tt ≤ b.tc then
    { ph := !b.ph, err := decide (b.exp < arr ∨ b.tt < b.tc), fc := if b.exp < arr ∨ b.tt < b.tc then 1 else 0, exp := b.exp, arr := 0, tt := b.tt, tc := 0 }
  else { ph := b.ph, err := false, fc := b.fc, exp := b.exp, arr, tt := b.tt, tc := b.tc }

/-! ## Words that reach memory (spec 06, R120, R121; 12, R251, R252; 15, R267, R268, R270) -/

/-- A byte as the accesses of a cluster read it: from its copy of the line, where its tile holds one; else the newest of the cluster's stores still on
their way; else what the hub of its die holds. -/
def clusterByte (s : State) (cl a : Nat) : Nat :=
  match copyAt s cl (a / 128) with
  | some x => lineByte x.data (a % 128)
  | none => match (s.stores.filter (fun p => decide (p.2.cl = cl ∧ p.2.line = a / 128) && bitOf p.2.bytes.toNat (a % 128))).getLast? with
    | some p => lineByte p.2.data (a % 128)
    | none => lineByte (hubData s (dieOfCl cl) (a / 128)).1 (a % 128)
/-- The sector of a byte is poison as the accesses of a cluster find it. -/
def clusterPoison (s : State) (cl a : Nat) : Bool := bitOf (lineView s cl (a / 128)).2.toNat (a % 128 / 32)
/-- An access of n bytes at address ea by a stream of drill d passes its checks at physical address pa, on a page of the class shr that its cluster may
use, in memory that tiles hold; the word has performed nothing yet, and its access to the tile is admitted and stands first. -/
structure Reaches (s : State) (d : Drill) (k : Kind) (leaf : Bool) (ea n pa : Nat) (shr : Bool) : Prop where
  range : ea < 2 ^ 56
  aligned : ea % n = 0
  page : ∃ tr, translate s s.cur d k leaf ea = .hit pa tr ∧ placeOf s s.cur pa tr (decide (k = .store)) = .at s pa shr
  frame : pa % n = 0
  memory : inHubWindow pa = false ∧ tierOf pa ≠ some 3
  fresh : d.got.any (fun g => decide (g.leaf = leaf)) = false
  admitted : (leaf, pa / 2048) ∈ d.granted
  first : ∀ o, (clAt s (clusterOf s.cur)).order.find? (fun o => decide (o.2.2 = pa / 2048)) = some o → o = (s.cur, leaf, pa / 2048)
/-- A cluster may read n bytes at pa now under a DT: its tile is absent, or its copy of the line holds them, with a lease that runs or the bytes pending. -/
def Readable (s : State) (cl pa n : Nat) (shr : Bool) (dt : Nat) : Prop :=
  tabFind (clAt s cl).tiles (pa / 2048) = none ∨ ∃ x, copyAt s cl (pa / 128) = some x ∧
    if shr = true then maskIn (byteMask (pa % 128) n) x.pend = true ∨ (x.have' ≠ 0 ∧ dt ≤ x.rts) else maskIn (byteMask (pa % 128) n) (x.have' ||| x.dirty) = true
/-- What an access that only reads leaves as it was: memory, benches, copies of lines, stores on their way, objects and every other drill but for the
waits that the access ends; of its own drill e only what the stream has read, the stamps and the waits differ from d. -/
structure ReadOnly (s v : State) (slot : Nat) (d e : Drill) : Prop where
  drill : drillAt v slot = some e
  keeps : e = { d with got := e.got, lstamp := e.lstamp, dt := e.dt, ovf := e.ovf, stemWait := e.stemWait, leafWait := e.leafWait }
  others : ∀ k, k ≠ slot → (drillAt v k).map (fun x => { x with stemWait := .none, leafWait := .none }) = (drillAt s k).map (fun x => { x with stemWait := .none, leafWait := .none })
  objs : ∀ k, objAt v k = objAt s k
  bytes : ∀ a, memByte v a = memByte s a
  benches : ∀ c a, benchByte v c a = benchByte s c a
  copies : ∀ c l, copyAt v c l = copyAt s c l
  stores : v.stores = s.stores
/-- n bytes of x at pa are stored by a cluster's access: into the copy of the line where the tile is present, and on a shared page on their way to the
hub as store number s.nextId; no other copy of a line and no other store on its way is touched. -/
structure StoredBytes (s v : State) (slot pa n x : Nat) (shr : Bool) (dt : Nat) : Prop where
  hit : (tabFind (clAt s (clusterOf slot)).tiles (pa / 2048)).isSome = true → ∃ y, copyAt v (clusterOf slot) (pa / 128) = some y ∧ y.shared = shr ∧
    (∀ k, k < n → lineByte y.data (pa % 128 + k) = bitsOf x (8 * k) 8) ∧
    (∀ b, b < 128 → b < pa % 128 ∨ pa % 128 + n ≤ b → lineByte y.data b = lineByte ((copyAt s (clusterOf slot) (pa / 128)).getD {}).data b) ∧
    y.have' = ((copyAt s (clusterOf slot) (pa / 128)).getD {}).have' ∧
    y.dirty = ((copyAt s (clusterOf slot) (pa / 128)).getD {}).dirty ||| (if shr = true then 0 else byteMask (pa % 128) n) ∧
    y.pend = ((copyAt s (clusterOf slot) (pa / 128)).getD {}).pend ||| (if shr = true then byteMask (pa % 128) n else 0)
  queued : shr = true → ∃ q, tabFind v.stores s.nextId = some q ∧ q.slot = slot ∧ q.cl = clusterOf slot ∧ q.line = pa / 128 ∧ q.bytes = byteMask (pa % 128) n ∧
    q.dt = dt ∧ q.engine = false ∧ ∀ k, k < n → lineByte q.data (pa % 128 + k) = bitsOf x (8 * k) 8
  copies : ∀ c l, ¬(c = clusterOf slot ∧ l = pa / 128) → copyAt v c l = copyAt s c l
  stores : ∀ id, shr = false ∨ id ≠ s.nextId → tabFind v.stores id = tabFind s.stores id
/-- What an access that stores leaves as it was besides what it stores. -/
structure StoreOnly (s v : State) (slot : Nat) (d e : Drill) : Prop where
  drill : drillAt v slot = some e
  keeps : e = { d with got := e.got, lstamp := e.lstamp, dt := e.dt, stemWait := e.stemWait, leafWait := e.leafWait }
  others : ∀ k, k ≠ slot → (drillAt v k).map (fun x => { x with stemWait := .none, leafWait := .none }) = (drillAt s k).map (fun x => { x with stemWait := .none, leafWait := .none })
  objs : ∀ k, objAt v k = objAt s k
  benches : ∀ c a, benchByte v c a = benchByte s c a
/-- The loads of the stem but LDC: destination, base, lookahead, offset, bytes, signed, acquire of die scope or wider. -/
def loadRow (i : Instr) : Option (BitVec 6 × BitVec 6 × BitVec 4 × BitVec 5 × Nat × Bool × Bool) :=
  match i with
  | .ldI8 d a l _ o => some (d, a, l, o, 1, true, false)
  | .ldI16 d a l _ o => some (d, a, l, o, 2, true, false)
  | .ldI32 d a l _ o => some (d, a, l, o, 4, true, false)
  | .ldI64 d a l _ o => some (d, a, l, o, 8, true, false)
  | .ldnN8 d a l _ o => some (d, a, l, o, 1, false, false)
  | .ldnN16 d a l _ o => some (d, a, l, o, 2, false, false)
  | .ldnN32 d a l _ o => some (d, a, l, o, 4, false, false)
  | .ldaN32 d a l c o => some (d, a, l, o, 4, false, decide (3 ≤ c.toNat))
  | .ldaI64 d a l c o => some (d, a, l, o, 8, true, decide (3 ≤ c.toNat))
  | _ => none
/-- The stores of the stem: source, base, offset, bytes, and of a release its scope. -/
def storeRow (i : Instr) : Option (BitVec 6 × BitVec 6 × BitVec 5 × Nat × Option Nat) :=
  match i with
  | .stI8 g a _ o => some (g, a, o, 1, none)
  | .stI16 g a _ o => some (g, a, o, 2, none)
  | .stI32 g a _ o => some (g, a, o, 4, none)
  | .stI64 g a _ o => some (g, a, o, 8, none)
  | .stlI32 g a c o => some (g, a, o, 4, some c.toNat)
  | .stlI64 g a c o => some (g, a, o, 8, some c.toNat)
  | _ => none
/-- The atomics of the stem: destination, address, operand, scope, width bit, and the new value from the old one, the operand and the comparand, none
where nothing is written (spec 11, Table 11.10). -/
def amoRow (i : Instr) : Option (BitVec 6 × BitVec 6 × BitVec 6 × BitVec 3 × BitVec 1 × (∀ w, BitVec w → BitVec w → BitVec w → Option (BitVec w))) :=
  match i with
  | .amoAdd d a b c z => some (d, a, b, c, z, fun _ old x _ => some (old + x))
  | .amoAnd d a b c z => some (d, a, b, c, z, fun _ old x _ => some (old &&& x))
  | .amoOr d a b c z => some (d, a, b, c, z, fun _ old x _ => some (old ||| x))
  | .amoXor d a b c z => some (d, a, b, c, z, fun _ old x _ => some (old ^^^ x))
  | .amoMin d a b c z => some (d, a, b, c, z, fun _ old x _ => some (if old.sle x then old else x))
  | .amoMax d a b c z => some (d, a, b, c, z, fun _ old x _ => some (if old.sle x then x else old))
  | .amoMinn d a b c z => some (d, a, b, c, z, fun _ old x _ => some (if old.ule x then old else x))
  | .amoMaxn d a b c z => some (d, a, b, c, z, fun _ old x _ => some (if old.ule x then x else old))
  | .amoSwap d a b c z => some (d, a, b, c, z, fun _ _ x _ => some x)
  | .cas d a b c z => some (d, a, b, c, z, fun _ old x y => if old = y then some x else none)
  | _ => none
/-- The source fields of an atomic: CAS reads its comparand from its destination. -/
def amoSrcs (i : Instr) (d a b : BitVec 6) : List (BitVec 6) := match i with | .cas _ _ _ _ _ => [a, b, d] | _ => [a, b]

/-! ## Words on the cloche, the Tendril's order and the engines (spec 16, R291, R292; 12, R257 to R259; 18, R325) -/

/-- Between u and v the cloche entries of drill d that p accepts are freed, and nothing else changes but waits: d becomes e. -/
structure Freed (u v : State) (slot : Nat) (d e : Drill) (p : ClEntry → Bool) : Prop where
  drill : drillAt v slot = some e
  keeps : e = { d with ovf := e.ovf, stemWait := e.stemWait, leafWait := e.leafWait }
  entries : ∀ c, (coreAt v c).cloche = (coreAt u c).cloche.filter (fun x => !(decide (c = coreOf slot ∧ x.2.ctx = ctxOf slot) && p x.2))
  others : ∀ k, k ≠ slot → (drillAt v k).map (fun x => { x with stemWait := .none, leafWait := .none }) = (drillAt u k).map (fun x => { x with stemWait := .none, leafWait := .none })
  objs : ∀ k, objAt v k = objAt u k
  bytes : ∀ a, memByte v a = memByte u a
  benches : ∀ c a, benchByte v c a = benchByte u c a
/-- The words of the Tendril: destination, base, offset, lookahead, access kind, and the answer on memory that no tile holds. -/
def tendrilRow (i : Instr) : Option (Option (BitVec 6) × BitVec 6 × BitVec 5 × Nat × Nat × Word) :=
  match i with
  | .tdist d a l o => some (some d, a, o, l.toNat, 1, -1)
  | .tstake d a o => some (some d, a, o, 0, 2, 2)
  | .tunstake d a o => some (some d, a, o, 0, 3, 3)
  | .ttouch a o => some (none, a, o, 0, 4, 0)
  | _ => none
/-- A copy command joins the queue of its engine behind those there; the drill's counter of its class rises by one; nothing else changes but the
message that retires it. -/
structure Queued (u v : State) (c : CopyCmd) (d : Drill) : Prop where
  queue : engineQ v c.slot = engineQ u c.slot ++ [c]
  other : ∀ k, (clusterOf k = clusterOf c.slot → engineOf k ≠ engineOf c.slot) → engineQ v k = engineQ u k
  drill : drillAt v c.slot = some (ocPut d c.cls (ocGet d c.cls + 1))
  drills : ∀ k, k ≠ c.slot → drillAt v k = drillAt u k
  retire : Msg.copyRetire c.slot c.cls ∈ v.agenda
  objs : v.objs = u.objs
  mem : v.mem = u.mem
  cores : v.cores = u.cores
  dies : v.dies = u.dies

/-- XLIN, XMC and XZERO with operands in their ranges: sources, the command, and its ranges with their bytes and whether they are stored to
(spec 18, Table 18.3). -/
def copyRow (s : State) (d : Drill) (i : Instr) : Option (List (BitVec 6) × CopyCmd × List (Space × Nat × Bool)) :=
  match i with
  | .xlin g a b =>
    let v := stemSrcs s d [] [a, b, g]
    let n := (opAt v 2).toNat
    match spaceOf (opAt v 0), spaceOf (opAt v 1) with
    | some x, some y =>
      if (isPort x = true ∧ isPort y = true) ∨ 2 ^ 30 < n ∨ ((isPort x = true ∨ isPort y = true) ∧ n % 128 ≠ 0) ∨ portDenied d x y ≠ none then none
      else some ([a, b, g], { slot := s.cur, cls := 0, op := 0, dst := opAt v 0, src := opAt v 1, len := n }, [(y, n, false), (x, n, true)])
    | _, _ => none
  | .xmc g a b =>
    let v := stemSrcs s d [] [a, b, g]
    let o := field (opAt v 0) 18 0
    let m := field (opAt v 0) 47 32
    let cores := (below 48).filter (fun k => bitOf (opAt v 2).toNat k)
    if field (opAt v 0) 31 19 = 0 ∧ field (opAt v 0) 63 48 = 0 ∧ 1 ≤ m ∧ m ≤ 4096 ∧ (opAt v 2).toNat < 2 ^ 48 ∧
        (∀ k, k ∈ cores → o + 128 * m ≤ benchSize s (48 * clusterOf s.cur + k)) ∧ o % 128 = 0 ∧ (opAt v 1).toNat % 128 = 0 then
      some ([a, b, g], { slot := s.cur, cls := 3, op := 2, dst := opAt v 0, src := opAt v 1, desc := [opAt v 2] },
        cores.map (fun k => (Space.bench (k * 0x80000 + o), 128 * m, true)) ++ [(.virt (opAt v 1).toNat, 128 * m, false)])
    else none
  | .xzero g a =>
    let v := stemSrcs s d [] [a, g]
    match spaceOf (opAt v 0) with
    | some x => if isPort x = true ∨ 2 ^ 30 < (opAt v 1).toNat then none
      else some ([a, g], { slot := s.cur, cls := 0, op := 3, dst := opAt v 0, len := (opAt v 1).toNat }, [(x, (opAt v 1).toNat, true)])
    | none => none
  | _ => none
/-- From state u a command joins its engine, or waits for the engine queue, its counter or the throttle (R318, R325). -/
def Issued (i : Instr) (p : StemPlan) (c : CopyCmd) (s u : State) (d : Drill) : Prop :=
  let held := 32 ≤ (engineQ u s.cur).length ∨ 255 ≤ ocGet d c.cls ∨ (dieAt u (dieOf s.cur)).level = 3
  (held → exec i s = .next (streamPark u s.cur false .engine (stemHoses p.srcs))) ∧
  (¬held → ∀ e, drillAt u s.cur = some e → ∃ v, exec i s = .next (stemDone v s.cur p 0 none) ∧ Queued u v c e)

/-! ## Traps (spec 23, R381, R386) -/

/-- From state s a trap is taken by drill d at user level, in state t: the trap registers, the level, the PC, DT and WKIND, every window committed, the
words in progress withdrawn, the user leaf context held and the supervisor's empty; other drills only wait for less, and nothing else changes. -/
structure Trapped (s t : State) (slot : Nat) (d : Drill) (cause : Nat) (tval : Word) (m : LaneMask) (tea : Tab Word) (epc : VAddr) : Prop where
  drill : ∃ e, drillAt t slot = some e ∧ e = { commitAll d with
    asked := [], granted := [], got := [], claims := [], dt := max d.dt (max d.pstamp d.lstamp), tcause := BitVec.ofNat 32 cause, tval := tval, tmask := m, tea := tea,
    tepc := epc.setWidth 64, tstat := e.tstat, super := true, sup := {}, pc := (jobAt s d.job).tvec, stemWait := .none, leafWait := .none, walked := [], due := none,
    wake := false, wkind := 0, woke := none, yields := [] } ∧
    bitsOf e.tstat.toNat 0 2 = 0 ∧ bitsOf e.tstat.toNat 9 3 = (if d.wake = true then d.wkind.toNat else wkindOf d.stemWait) ∧ bitsOf e.tstat.toNat 12 20 = 0
  others : ∀ k, k ≠ slot → (drillAt t k).map (fun x => { x with stemWait := .none, leafWait := .none }) = (drillAt s k).map (fun x => { x with stemWait := .none, leafWait := .none })
  objs : ∀ k, objAt t k = objAt s k
  bytes : ∀ a, memByte t a = memByte s a
  benches : ∀ c a, benchByte t c a = benchByte s c a
/-- A drill halts with its state kept, and the hub posts an event for firmware (R387). -/
structure Halted (s t : State) (slot : Nat) (d : Drill) (n : Notice) : Prop where
  drill : drillAt t slot = some { d with stemWait := .halted false, leafWait := .halted false }
  event : n ∈ t.notices
  others : ∀ k, k ≠ slot → drillAt t k = drillAt s k
  objs : t.objs = s.objs
  mem : t.mem = s.mem
  cores : t.cores = s.cores

/-! ## Issue of a leaf word (spec 03, R59, R74, R75; 10, R196; 11, R218; 16, R294) -/

/-- The leaf word of a plan may issue for drill d: the drill is bound to the slot whose turn it is and its bed is held, the word is legal and
passes its issue-time checks, names no register above the drill's budget, its hoses are granted and ready, and no entry of a release's prior
set holds it up. -/
structure LeafIssues (p : LeafPlan) (h : Shape) (s : State) (d : Drill) : Prop where
  bound : drillAt s s.cur = some d
  bed : ∃ o, objAt s d.bed = some o
  legal : wfLeaf p.op p.w = true
  late : p.late s = false
  shape : leafShape p.op p.w = some h
  budget : overBudget p.w h d.budget = false
  granted : hoseDenied d true (srcHoses (leafSrcs p.op p.w h)) (leafPushes p.op p.w h) = none
  gate : p.release = true → releaseGate s s.cur d true = none
  ready : hosesReady s s.cur true d (srcHoses (leafSrcs p.op p.w h)) (leafPushes p.op p.w h) = true
/-- The values of the source fields of a leaf word. -/
def leafOps (p : LeafPlan) (h : Shape) (s : State) (d : Drill) : List Opd := srcValues s d [] (leafSrcs p.op p.w h)
/-- The hoses that a leaf word pops. -/
def leafPops (p : LeafPlan) (h : Shape) : List Nat := srcHoses (leafSrcs p.op p.w h)

/-! ## What a completed leaf word leaves (spec 01, R22 to R24, R31; 03, R59; 05, R93; 07, R138; 09, R175) -/

/-- A drill between leaf words: its split runs, and no window of the leaf is open. -/
structure LeafQuiet (d : Drill) : Prop where
  runs : (runSplit (leafCtx d)).state = 2
  closed : d.wins.all (fun w => decide (w.kind = 0)) = true
/-- Lane l of vector register r after the results of a word: of the results that write it, the last. -/
def laneAfter (d : Drill) (ws : List LeafWrite) (r l : Nat) : Nat :=
  ws.foldl (fun a x => match x with | .vec f m v => if f = r ∧ inMask m l = true then lane v l else a | _ => a) (lane (vBase d r) l)
/-- Mask register r, not k0, after the results of a word. -/
def maskAfter (d : Drill) (ws : List LeafWrite) (r : Nat) : LaneMask :=
  ws.foldl (fun a x => match x with | .msk k m => if k = r then m else a | _ => a) (tabGet 0 d.k r)
/-- Leaf scalar r, not s0, after the results of a word. -/
def scalarAfter (d : Drill) (ws : List LeafWrite) (r : Nat) : Word :=
  ws.foldl (fun a x => match x with | .sca f y => if f = r then y else a | _ => a) (tabGet 0 (leafCtx d).s r)
/-- The windows that a word with lookahead opens in place of its register writes. -/
def leafOpens (split la : Nat) (ws : List LeafWrite) : List PendWrite :=
  if la = 0 then [] else ws.filterMap (fun x => match x with
    | .vec f m v => if f < 240 then some { kind := 1, owner := split, reg := f, lanes := m, value := v, left := la } else none
    | .sca f y => if f < 16 ∧ f ≠ 0 then some { kind := 2, owner := split, reg := f, lanes := 0, value := y.setWidth 1024, left := la } else none
    | .msk _ _ => none)
/-- The drill e that a leaf word leaves of drill d when the running split goes on at the next word. -/
structure LeafAfter (p : LeafPlan) (ws : List LeafWrite) (flags : Nat) (d e : Drill) : Prop where
  vectors : ∀ r l, r < 240 → l < 32 → lane (vBase e r) l = if p.w.la = 0 then laneAfter d ws r l else lane (vBase d r) l
  masks : ∀ r, r ≠ 0 → tabGet 0 e.k r = maskAfter d ws r
  scalars : ∀ r, r ≠ 0 → r < 16 → tabGet 0 (leafCtx e).s r = if p.w.la = 0 then scalarAfter d ws r else tabGet 0 (leafCtx d).s r
  wins : e.wins = d.wins ++ leafOpens (leafCtx d).run p.w.la.toNat ws
  flags : e.fmode = d.fmode ||| BitVec.ofNat 32 (flags % 256 * 65536)
  ctx : leafCtx e = { settleJoin (putSplit (leafCtx d) (leafCtx d).run { runSplit (leafCtx d) with pc := (runSplit (leafCtx d)).pc + 12 }) with s := (leafCtx e).s }
  level : if d.super = true then e.user = d.user else e.sup = d.sup
  rest : e = { d with
    v := e.v, k := e.k, fmode := e.fmode, user := e.user, sup := e.sup, wins := e.wins, heldIssues := e.heldIssues, hoses := e.hoses, leafWait := .none,
    walked := d.walked.filter (fun w => !w.1), asked := d.asked.filter (fun w => !w.1), granted := d.granted.filter (fun w => !w.1),
    got := d.got.filter (fun g => !g.leaf), claims := d.claims.filter (fun c => !c.1), lastLeaf := e.lastLeaf }
/-- From state s, with quiet drill d bound to the slot, a leaf word with these results and flags completes in state t: what it does to the drill; every
pop, then every push; and nothing else but messages in flight. -/
structure LeafCompletes (p : LeafPlan) (pops : List Nat) (ws : List LeafWrite) (flags : Nat) (s t : State) (slot : Nat) (d : Drill) : Prop where
  drill : ∃ e, drillAt t slot = some e ∧ LeafAfter p ws flags d e ∧
    ∀ h, hoseQ t e h = (hoseQ s d h).drop (countOf pops h) ++ ((ws.filterMap leafPush).filter (fun q => decide (q.1 = h))).map (·.2)
  others : ∀ k, k ≠ slot → drillAt t k = drillAt s k
  objs : ∀ k, (objAt t k).map (fun o => { o with hoses := [] }) = (objAt s k).map (fun o => { o with hoses := [] })
  rest : SameModule s t
  bytes : ∀ a, memByte t a = memByte s a
  benches : ∀ c a, benchByte t c a = benchByte s c a

/-- From state s, with quiet drill d, a word without results whose own effect makes d into x completes in state t. A routine none of whose entries goes
on is over: its entries become free, the next queued routine and the waits on it are served (spec 09, R177, R178). -/
structure LeafMoves (pops : List Nat) (x : Drill) (s t : State) (slot : Nat) (d : Drill) : Prop where
  drill : ∃ e, drillAt t slot = some e ∧ e.wins = d.wins ∧ (∀ h, hoseQ t e h = (hoseQ s d h).drop (countOf pops h)) ∧
    e = { (if routineOver (leafCtx x) = true then onLeaf x (fun c => { c with splits := [], run := 0 }) else x) with
      wins := e.wins, heldIssues := e.heldIssues, hoses := e.hoses, leafWait := .none, walked := d.walked.filter (fun w => !w.1),
      asked := d.asked.filter (fun w => !w.1), granted := d.granted.filter (fun w => !w.1), got := d.got.filter (fun g => !g.leaf),
      claims := d.claims.filter (fun c => !c.1), lastLeaf := e.lastLeaf }
  ended : routineOver (leafCtx x) = true → ((leafCtx x).queue ≠ [] → Msg.routineStart slot ∈ t.agenda) ∧ (d.stemWait = .lwait → .lwaitRelease slot ∈ t.agenda) ∧
    (d.stemWait = .exited → .drillRetire slot ∈ t.agenda)
  others : ∀ k, k ≠ slot → drillAt t k = drillAt s k
  objs : ∀ k, (objAt t k).map (fun o => { o with hoses := [] }) = (objAt s k).map (fun o => { o with hoses := [] })
  mem : t.mem = s.mem
  benches : ∀ c a, benchByte t c a = benchByte s c a

/-! ## Results of leaf words (spec 07, R137 to R140) -/

/-- A leaf word that may issue completes with these results and flags; where its split goes on, the next state is stated whole. -/
def LeafGives (i : Instr) (p : LeafPlan) (h : Shape) (ws : List LeafWrite) (flags : Nat) (s : State) (d : Drill) : Prop :=
  ∃ t, exec i s = .next t ∧ (LeafQuiet d → LeafCompletes p (leafPops p h) ws flags s t s.cur d)
/-- Elements of n bits written to vector field f in the lanes of m: sign- or zero-extended to a lane, or 64 bits in a pair; 0 in the other lanes, for a
push. -/
def elementsTo (n : Nat) (signed : Bool) (f : Nat) (m : LaneMask) (r : Nat → BitVec n) : List LeafWrite :=
  let x (l : Nat) : BitVec n := if inMask m l = true then r l else 0
  if n = 64 then [.vec f m (vecOfLanes (fun l => (x l).toNat % 2 ^ 32)), .vec (f + 1) m (vecOfLanes (fun l => (x l).toNat / 2 ^ 32))]
  else [.vec f m (vecOfLanes (fun l => if signed = true then ((x l).signExtend 32).toNat else (x l).toNat))]
/-- Element of lane l of operand k, as n bits. -/
def element (n : Nat) (v : List Opd) (k l : Nat) : BitVec n := BitVec.ofNat n (elem n (opd v k) l)
/-- An element as the exact integer of its type. -/
def exactOf {n : Nat} (signed : Bool) (x : BitVec n) : Int := if signed = true then x.toInt else x.toNat
/-- The least and greatest integers of a type of n bits. -/
def leastOf (signed : Bool) (n : Nat) : Int := if signed = true then -(2 ^ (n - 1) : Nat) else 0
def greatestOf (signed : Bool) (n : Nat) : Int := if signed = true then (2 ^ (n - 1) : Nat) - 1 else (2 ^ n : Nat) - 1
/-- The rows of Table 7.2 that saturate: opcode, word, and F on exact integers. -/
def exactRow (i : Instr) : Option (Nat × LeafWord × (Int → Int → Int → Int)) :=
  match i with
  | .vadd w => some (0x001, w, fun a b _ => a + b)
  | .vsub w => some (0x002, w, fun a b _ => a - b)
  | .vmul w => some (0x003, w, fun a b _ => a * b)
  | .vmad w => some (0x005, w, fun a b c => a * b + c)
  | .vabs w => some (0x00F, w, fun a _ _ => if a < 0 then -a else a)
  | .vneg w => some (0x010, w, fun a _ _ => -a)
  | _ => none
/-- The other rows of Table 7.2: opcode, word, and the result from the width, the signedness and two elements. -/
def bitsRow (i : Instr) : Option (Nat × LeafWord × (∀ n, Bool → BitVec n → BitVec n → BitVec n)) :=
  match i with
  | .vmulh w => some (0x004, w, fun n sg a b => if sg = true then (a.signExtend (2 * n) * b.signExtend (2 * n)).extractLsb' n n else (a.setWidth (2 * n) * b.setWidth (2 * n)).extractLsb' n n)
  | .vand w => some (0x006, w, fun _ _ a b => a &&& b)
  | .vor w => some (0x007, w, fun _ _ a b => a ||| b)
  | .vxor w => some (0x008, w, fun _ _ a b => a ^^^ b)
  | .vnot w => some (0x009, w, fun _ _ a _ => ~~~a)
  | .vshl w => some (0x00A, w, fun n _ a b => a <<< (b.toNat % n))
  | .vshr w => some (0x00B, w, fun n _ a b => a >>> (b.toNat % n))
  | .vsha w => some (0x00C, w, fun n _ a b => a.sshiftRight (b.toNat % n))
  | .vmin w => some (0x00D, w, fun _ sg a b => if exactOf sg a ≤ exactOf sg b then a else b)
  | .vmax w => some (0x00E, w, fun _ sg a b => if exactOf sg a ≤ exactOf sg b then b else a)
  | .vclz w => some (0x011, w, fun n _ a _ => BitVec.ofNat n ((List.range n).filter (fun k => decide (a.toNat < 2 ^ k))).length)
  | .vpopc w => some (0x012, w, fun n _ a _ => BitVec.ofNat n ((List.range n).filter (fun k => a.getLsbD k)).length)
  | _ => none
/-- The words on mask registers that write one: opcode, word, and the result. -/
def maskRow (i : Instr) : Option (Nat × LeafWord × (LaneMask → LaneMask → LaneMask)) :=
  match i with
  | .kand w => some (0x140, w, fun a b => a &&& b)
  | .kor w => some (0x141, w, fun a b => a ||| b)
  | .kxor w => some (0x142, w, fun a b => a ^^^ b)
  | .knot w => some (0x143, w, fun a _ => ~~~a)
  | .kmov w => some (0x144, w, fun a _ => a)
  | _ => none
/-- The words on leaf scalars (Table 7.7): opcode, word, and the result. -/
def scalarRow (i : Instr) : Option (Nat × LeafWord × (Word → Word → Word)) :=
  match i with
  | .sadd w => some (0x0C0, w, fun a b => a + b)
  | .saddi w => some (0x0C1, w, fun a _ => a + w.imm.signExtend 64)
  | .ssub w => some (0x0C2, w, fun a b => a - b)
  | .smul w => some (0x0C3, w, fun a b => a * b)
  | .sshl w => some (0x0C4, w, fun a b => a <<< (b.toNat % 64))
  | .smov w => some (0x0C5, w, fun a _ => a)
  | _ => none
/-- The element moves (spec 07, R143, R156; 08, R170, R171): opcode, word, and the element of each lane from the drill, the operands, the width and
the lane. -/
def moveRow (i : Instr) : Option (Nat × LeafWord × (Drill → List Opd → ∀ n, Nat → BitVec n)) :=
  let live (d : Drill) (v : List Opd) (n k : Nat) : BitVec n := if inMask d.live k = true then element n v 0 k else 0
  match i with
  | .vsel w => some (0x013, w, fun d v n l => if inMask (kGet d w.vc.toNat) l = true then element n v 0 l else element n v 1 l)
  | .vmov w => some (0x100, w, fun _ v n l => element n v 0 l)
  | .vbcs w => some (0x103, w, fun _ v n l => element n v 0 l)
  | .vshuf w => some (0x180, w, fun d v n l => live d v n ((element 32 v 1 l).toNat % 32))
  | .vshfup w => some (0x181, w, fun d v n l => if l < w.imm.toNat % 32 then element n v 0 l else live d v n (l - w.imm.toNat % 32))
  | .vshfdn w => some (0x182, w, fun d v n l => if 31 < l + w.imm.toNat % 32 then element n v 0 l else live d v n (l + w.imm.toNat % 32))
  | .vbcl w => some (0x183, w, fun d v n _ => live d v n (w.imm.toNat % 32))
  | _ => none

/-- The floating-point words with one result for each lane (Tables 7.3, 7.4): opcode, word, and result and flags from the settings and three elements. -/
def floatRow (i : Instr) : Option (Nat × LeafWord × (FloatEnv → Nat → Nat → Nat → Nat × Nat)) :=
  match i with
  | .vfadd w => some (0x040, w, fun e a b _ => sumOf e [inVal e a, inVal e b] [some (inVal e a), some (inVal e b)])
  | .vfsub w => some (0x041, w, fun e a b _ => sumOf e [inVal e a, inVal e b] [some (inVal e a), some (negVal (inVal e b))])
  | .vfmul w => some (0x042, w, fun e a b _ => sumOf e [inVal e a, inVal e b] [mulVal (inVal e a) (inVal e b)])
  | .vfma w => some (0x043, w, fun e a b c => sumOf e [inVal e a, inVal e b, inVal e c] [mulVal (inVal e a) (inVal e b), some (inVal e c)])
  | .vfms w => some (0x044, w, fun e a b c => sumOf e [inVal e a, inVal e b, inVal e c] [mulVal (inVal e a) (inVal e b), some (negVal (inVal e c))])
  | .vfnma w => some (0x045, w, fun e a b c => sumOf e [inVal e a, inVal e b, inVal e c] [mulVal (negVal (inVal e a)) (inVal e b), some (inVal e c)])
  | .vfdiv w => some (0x046, w, fun e a b _ => divOut e (inVal e a) (inVal e b))
  | .vfsqrt w => some (0x047, w, fun e a _ _ => sqrtOut e (inVal e a))
  | .vfrcp w => some (0x048, w, fun e a _ _ => divOut e (.fin false 1 0) (inVal e a))
  | .vfrsq w => some (0x049, w, fun e a _ _ => rsqOut e (inVal e a))
  | .vfexp2 w => some (0x04A, w, fun e a _ _ => exp2Out e (inVal e a))
  | .vflog2 w => some (0x04B, w, fun e a _ _ => log2Out e (inVal e a))
  | .vfmin w => some (0x04C, w, fun e a b _ => minMax e.f false e.daz e.canon a b)
  | .vfmax w => some (0x04D, w, fun e a b _ => minMax e.f true e.daz e.canon a b)
  | .vfabs w => some (0x04E, w, fun _ a _ _ => (a % 2 ^ (typeBits w.ty.toNat - 1), 0))
  | .vfneg w => some (0x04F, w, fun _ a _ _ => (a ^^^ 2 ^ (typeBits w.ty.toNat - 1), 0))
  | _ => none
/-- Results and flags of the active lanes from a function of the lane. -/
def LanesGive (i : Instr) (p : LeafPlan) (h : Shape) (g : Nat → Nat × Nat) (s : State) (d : Drill) : Prop :=
  let r := onLanes (effMask d p.w.k.toNat) g
  LeafGives i p h (vecWrites p.w.ty.toNat p.w.vd.toNat (effMask d p.w.k.toNat) (r.map (·.1))) (orAll (r.map (·.2))) s d
/-- Lane l of register r as the running split reads it. -/
def reg32 (d : Drill) (r l : Nat) : Nat := lane (vRead d (leafCtx d).run r) l
/-- Element i of a Q8 block held four to a register from register r, in lane l. -/
def q8At (d : Drill) (r i l : Nat) : Int := signOf 8 (bitsOf (reg32 d (r + i / 4) l) (8 * (i % 4)) 8)

/-! ## Control words of the leaf (spec 09, R179 to R187) -/

/-- The running entry becomes e; a transfer to its own address or below is a switch point. -/
def entryGoes (e : SplitEntry) (back : Bool) (c : LeafCtx) : LeafCtx := if back = true then switchPoint (putSplit c c.run e) else settleJoin (putSplit c c.run e)
/-- A control word that changes only the split table, by f, completes so. -/
def SplitsBecome (i : Instr) (p : LeafPlan) (h : Shape) (f : LeafCtx → LeafCtx) (s : State) (d : Drill) : Prop :=
  ∃ t, exec i s = .next t ∧ LeafMoves (leafPops p h) (onLeaf d f) s t s.cur d
/-- The conditions of SBR, by their code. -/
def sbrHolds (c : Nat) (a b : Word) : Bool :=
  if c = 0 then a == b else if c = 1 then a != b else if c = 2 then a.slt b else if c = 3 then b.sle a else if c = 4 then a.ult b else b.ule a

/-! ## Leaf words that reach memory (spec 08, R158 to R163; 15, R278) -/

/-- EA of lane l: s_a, the lane's index or the index scalar, and the signed offset (R68). -/
def laneAddr (w : LeafWord) (v : List Opd) (l : Nat) : Word :=
  scaOf (opd v 0) + (match opd v 1 with | .vec x _ => (BitVec.ofNat 32 (lane x l)).signExtend 64 | .sca y => y | .nothing => 0) + (w.imm.setWidth 28).signExtend 64
/-- The active lanes of a leaf access of n bytes pass their checks at these places; each lies in memory that tiles hold, on a page that the cluster may
use and of the class of its tile. -/
structure LanesAt (s : State) (d : Drill) (k : Kind) (ea : Nat → Nat) (n : Nat) (m : LaneMask) (ps : List LanePlace) (cls : Nat → Bool) : Prop where
  checked : laneCheck s d k ea (lanesOf m) n = .ok ps
  memory : ∀ q, q ∈ ps → inHubWindow q.pa = false ∧ tierOf q.pa ≠ some 3
  page : ∀ q, q ∈ ps → placeOf s s.cur q.pa q.t (decide (k = .store)) = .at s q.pa (cls (q.pa / 2048))
  frame : ∀ q, q ∈ ps → q.pa % n = 0
  local' : ∀ l, remoteOf s s.cur true l = none
/-- Every tile that the lanes name has been performed. -/
def LanesGot (d : Drill) (ps : List LanePlace) : Prop := ∀ q, q ∈ ps → ∃ g, g ∈ d.got ∧ g.leaf = true ∧ g.tile = q.pa / 2048
/-- The lanes name one tile, whose access is admitted and stands first; the word has performed nothing yet. -/
structure OneTile (s : State) (d : Drill) (ps : List LanePlace) (tile : Nat) : Prop where
  some' : ps ≠ []
  inside : ∀ q, q ∈ ps → q.pa / 2048 = tile
  fresh : d.got.any (fun g => decide (g.leaf = true)) = false
  admitted : (true, tile) ∈ d.granted
  first : ∀ o, (clAt s (clusterOf s.cur)).order.find? (fun o => decide (o.2.2 = tile)) = some o → o = (s.cur, true, tile)
/-- The lane loads: opcode, word, an acquire of die scope or wider, a stale load. -/
def laneLoadRow (i : Instr) : Option (Nat × LeafWord × Bool) :=
  match i with
  | .vld w => some (0x200, w, false)
  | .vlda w => some (0x206, w, decide (3 ≤ w.md.toNat / 4))
  | .vldc w => some (0x208, w, false)
  | _ => none

/-- The lane stores: opcode, word, and of a release its scope. -/
def laneStoreRow (i : Instr) : Option (Nat × LeafWord × Option Nat) :=
  match i with
  | .vst w => some (0x201, w, none)
  | .vstl w => some (0x207, w, some (w.md.toNat / 4))
  | _ => none
/-- The new value of an atomic by its code (Table 11.10), from the old value and the operand. -/
def amoNew (code w : Nat) (old x : BitVec w) : BitVec w :=
  if code = 0 then old + x else if code = 1 then old &&& x else if code = 2 then old ||| x else if code = 3 then old ^^^ x
  else if code = 4 then (if old.sle x then old else x) else if code = 5 then (if old.sle x then x else old)
  else if code = 6 then (if old.ule x then old else x) else if code = 7 then (if old.ule x then x else old) else x
/-- The lane atomics: opcode, word, and the new value from the old one, the operand and the comparand, none where nothing is written. -/
def laneAmoRow (i : Instr) : Option (Nat × LeafWord × (∀ n, BitVec n → BitVec n → BitVec n → Option (BitVec n))) :=
  match i with
  | .vamo w => some (0x209, w, fun n old x _ => some (amoNew (w.imm.toNat / 2 ^ 28) n old x))
  | .vcas w => some (0x20A, w, fun _ old x c => if old = c then some x else none)
  | _ => none
/-- What a leaf store leaves of the lines of one tile that its lanes name, all present in cluster cl: each lane's bytes stand in the copy of its line unless
a higher lane stores there; other bytes and lines keep their values; on a shared tile each line's bytes are on their way to the hub under dt. -/
structure LanesStored (s u : State) (cl n dt : Nat) (shr : Bool) (ps : List LanePlace) (x : Nat → Nat) : Prop where
  lanes : ∀ q, q ∈ ps → ∃ y, copyAt u cl (q.pa / 128) = some y ∧ y.shared = shr ∧ maskIn (byteMask (q.pa % 128) n) (if shr = true then y.pend else y.dirty) = true ∧
    ((∀ r, r ∈ ps → q.l < r.l → r.pa ≠ q.pa) → ∀ k, k < n → lineByte y.data (q.pa % 128 + k) = bitsOf (x q.l) (8 * k) 8) ∧
    ∀ b, b < 128 → (∀ r, r ∈ ps → r.pa / 128 = q.pa / 128 → b < r.pa % 128 ∨ r.pa % 128 + n ≤ b) → lineByte y.data b = lineByte ((copyAt s cl (q.pa / 128)).getD {}).data b
  others : ∀ c l, (c ≠ cl ∨ ∀ q, q ∈ ps → q.pa / 128 ≠ l) → copyAt u c l = copyAt s c l
  mem : u.mem = s.mem
  queued : shr = true → ∀ q, q ∈ ps → ∃ id z, s.nextId ≤ id ∧ tabFind u.stores id = some z ∧ z.cl = cl ∧ z.line = q.pa / 128 ∧ z.dt = dt ∧
    maskIn (byteMask (q.pa % 128) n) z.bytes = true
  stores : ∀ id, shr = false ∨ id < s.nextId → tabFind u.stores id = tabFind s.stores id

/-- Lanes fail a check of a word: the trap names the first failing lane's address, the failing lanes and the address of each (R74, R169, R331). -/
def lanesTrap (s : State) (code : Nat) (ea : Nat → Nat) (bad : List Nat) : State :=
  leafTrap s s.cur code (BitVec.ofNat 64 (ea (bad.headD 0))) (maskOf (fun l => decide (l ∈ bad))) (bad.map (fun l => (l, BitVec.ofNat 64 (ea l))))
/-- The opcode and word of the lane words that reach memory through the tiles, the kind of their access and whether they release. -/
def laneWordRow (i : Instr) : Option (Nat × LeafWord × Kind × Bool) :=
  match i with
  | .vld w => some (0x200, w, .load, false)
  | .vlda w => some (0x206, w, .load, false)
  | .vldc w => some (0x208, w, .load, false)
  | .vst w => some (0x201, w, .store, false)
  | .vstl w => some (0x207, w, .store, true)
  | .vamo w => some (0x209, w, .store, false)
  | .vcas w => some (0x20A, w, .store, false)
  | _ => none
/-- The lanes of a bench word pass their checks: lane l names place (core, offset) pl l, and state u stands once the first-touch fills are made. -/
structure BenchLanes (s u : State) (d : Drill) (ea : Nat → Nat) (n : Nat) (lanes : List Nat) (pl : Nat → Nat × Nat) : Prop where
  place : ∀ l, l ∈ lanes → benchPlace s s.cur (ea l) = some (pl l) ∧ benchPlace u s.cur (ea l) = some (pl l)
  aligned : ∀ l, l ∈ lanes → ea l % n = 0
  filled : ∀ l, l ∈ lanes → ∃ t, benchFills s s.cur d.super (pl l).1 (pl l).2 n = .ok t
  cur : u.cur = s.cur
  state : u = lanes.foldl (fun x l => match benchFills x s.cur d.super (pl l).1 (pl l).2 n with | .ok t => t | .error _ => x) s
/-- Between u and v only benches and their tags change. -/
structure BenchesOnly (u v : State) : Prop where
  drills : ∀ k, drillAt v k = drillAt u k
  objs : ∀ k, objAt v k = objAt u k
  bytes : ∀ a, memByte v a = memByte u a
  copies : ∀ c l, copyAt v c l = copyAt u c l
  cur : v.cur = u.cur
/-- A panel passes the checks of R169: its bytes lie in one core's bench at offset `off`, state u stands once the fills are made. -/
structure PanelReady (s u : State) (d : Drill) (ea n core off : Nat) : Prop where
  bench : BenchReady s d ea n n core off u
  still : benchPlace u s.cur ea = some (core, off)
  cur : u.cur = s.cur
/-- What a matrix word names: registers of its A and B groups, format block, address operand with the bench bytes there and its alignment, barrier word,
and whether it is a .twin word (R342, R351 to R355; 0 where a word names none). -/
structure MatForm where
  op : Nat
  w : LeafWord
  regsA : Nat := 0
  regsB : Nat := 0
  fblk : Word := 0
  addr : Word := 0
  bytes : Nat := 0
  align : Nat := 1
  bar : Word := 0
  twin : Bool := false
/-- The matrix words with their scalar operands (Tables 19.1, 19.3 and 19.4). -/
def matForm (i : Instr) (v : List Opd) : Option MatForm :=
  match i with
  | .mssa w => let twin := bitOf w.imm.toNat 31
               some { op := 0x300, w, regsA := 32, regsB := if twin then 32 else 16, fblk := scaOf (opd v 2), bar := scaOf (opd v 4), twin }
  | .mdot w => let twin := bitOf w.imm.toNat 31
               let g := if w.ty = 11 ∨ w.ty = 12 then 8 else 16
               some { op := 0x301, w, regsA := g, regsB := if twin then 2 * g else g, fblk := scaOf (opd v 2), bar := scaOf (opd v 4), twin }
  | .mzero w => some { op := 0x302, w }
  | .mload w => some { op := 0x303, w, addr := scaOf (opd v 0), bytes := if bitOf w.md.toNat 2 then (if w.ty = 12 then 2048 else 4096) else 0, align := 32, bar := scaOf (opd v 4) }
  | .mdrain w =>
    let n := if w.ty = 12 then 2048 else 1024 * (if w.ty = 14 then 1 else typeBits w.ty.toNat / 8)
    some { op := 0x304, w, fblk := if bitOf w.md.toNat 4 then scaOf (opd v 2) else 0, addr := scaOf (opd v 0), bytes := if bitOf w.md.toNat 2 then n else 0, align := if bitOf w.md.toNat 3 then n else 32, bar := scaOf (opd v 4) }
  | _ => none
/-- The operation that a matrix or espalier word gives its engine: the word with every register and field read, the resolved rounding mode, and the
drill's DT, job and level (R343, R94). -/
def opOf (s : State) (d : Drill) (op : Nat) (w : LeafWord) : MatOp :=
  { op, slot := s.cur, word := w, dt := d.dt, job := d.job, sup := d.super,
    rm := if w.rnd.toNat ≠ 0 then w.rnd.toNat else if (leafCtx d).fmode.toNat % 8 = 0 then 1 else (leafCtx d).fmode.toNat % 8 }
/-- From u an operation is accepted, in t: it is the last of its core's queue, and as a .twin operation of the follower's too; oc.matrix rises; no other
core, drill, object and no memory changes (R343 to R345, R349). -/
structure Accepted (u t : State) (m : MatOp) (twin : Bool) (d : Drill) : Prop where
  queue : ∃ x, coreAt t (coreOf m.slot) = { coreAt u (coreOf m.slot) with mq := (coreAt u (coreOf m.slot)).mq ++ [m], espTy := x }
  follower : twin = true → coreAt t (coreOf m.slot + 1) = { coreAt u (coreOf m.slot + 1) with mq := (coreAt u (coreOf m.slot + 1)).mq ++ [{ m with twinHalf := true }] }
  others : ∀ c, c ≠ coreOf m.slot → twin = false ∨ c ≠ coreOf m.slot + 1 → coreAt t c = coreAt u c
  drill : drillAt t m.slot = some (ocPut d 2 (ocGet d 2 + 1))
  drills : ∀ k, k ≠ m.slot → drillAt t k = drillAt u k
  objs : ∀ k, objAt t k = objAt u k
  mem : t.mem = u.mem
  retire : Msg.matrixRetire (coreOf m.slot) ∈ t.agenda
/-- The word stalls under R342: a queue of 32 operations is full, oc.matrix reads 255, or the die's throttle stands at level 3. -/
def engineFull (s : State) (d : Drill) (twin : Bool) : Prop :=
  32 ≤ (coreAt s (coreOf s.cur)).mq.length ∨ (twin = true ∧ 32 ≤ (coreAt s (coreOf s.cur + 1)).mq.length) ∨ 255 ≤ ocGet d 2 ∨ (dieAt s (dieOf s.cur)).level = 3
/-- TYPE of an espalier as issue checks read it (R363). -/
def espTypeAt (s : State) (k : Nat) : Nat := (tabGet 0 (coreAt s (coreOf s.cur)).espTy k).toNat
/-- What an accepted espalier word of the table names: registers of its reflector group, τ, bench address with its bytes, and the TYPE that it leaves. -/
structure EspForm where
  op : Nat
  w : LeafWord
  regs : Nat := 0
  tau : Word := 0
  panel : Option (Word × Nat) := none
  type : Option Nat := none
/-- The espalier words but ESTAT and EREST (R366 to R374). -/
def espForm (s : State) (i : Instr) (v : List Opd) : Option EspForm :=
  match i with
  | .einit w => some { op := 0x340, w, type := some (if w.ty = 12 then 2 else 1) }
  | .ecap w => some { op := 0x344, w }
  | .eapp w => some { op := 0x341, w, regs := if w.ty = 12 then 4 else 2, tau := scaOf (opd v 1) }
  | .eleft w => some { op := 0x342, w, panel := some (scaOf (opd v 0), 128 * plannedN s (coreOf s.cur) (w.imm.toNat % 4)) }
  | .eright w => some { op := 0x343, w, panel := some (scaOf (opd v 0), 128 * plannedN s (coreOf s.cur) (w.imm.toNat % 4)) }
  | .esave w => some { op := 0x346, w, panel := some (scaOf (opd v 0), if espTypeAt s (w.imm.toNat % 4) = 2 then 0xE080 else 0x7080) }
  | _ => none
/-- The TYPE table once an EINIT or EREST of a TYPE is accepted for espalier k: a pair takes both entries; an espalier that leaves a pair frees the other half
(R366, R375). -/
def TypeLeft (u t : State) (core k ty : Nat) : Prop :=
  ∀ j, tabGet 0 (coreAt t core).espTy j = if j = k then BitVec.ofNat 2 ty else if ty = 2 then (if j = k + 1 then 3 else tabGet 0 (coreAt u core).espTy j)
    else if 2 ≤ (tabGet 0 (coreAt u core).espTy k).toNat ∧ j = (if k % 2 = 0 then k + 1 else k - 1) then 0 else tabGet 0 (coreAt u core).espTy j
/-- The status word of an espalier (Table 20.1). -/
def StatusOf (e : Espalier) (x : Word) : Prop :=
  (e.ty = 0 → x = 0) ∧ (e.ty ≠ 0 → field x 63 62 = e.ty.toNat ∧ field x 61 48 = 0 ∧ field x 47 32 = e.rc % 65536 ∧ field x 31 22 = 0 ∧ field x 21 16 = e.cap % 64 ∧
    field x 15 15 = 0 ∧ field x 14 8 = e.n % 128 ∧ field x 7 6 = 0 ∧ field x 5 0 = e.k % 64)
/-- The first 128 bytes x of a save area may be restored to espalier k (R375). -/
def SaveArea (k x : Nat) : Prop :=
  bitsOf x 48 14 = 0 ∧ bitsOf x 22 10 = 0 ∧ bitsOf x 15 1 = 0 ∧ bitsOf x 6 2 = 0 ∧ x / 2 ^ 64 = 0 ∧ bitsOf x 62 2 ≠ 3 ∧ ¬(bitsOf x 62 2 = 2 ∧ k % 2 = 1) ∧
    (bitsOf x 62 2 ≠ 0 → 1 ≤ bitsOf x 8 7 ∧ bitsOf x 8 7 ≤ 64 ∧ 1 ≤ bitsOf x 16 6 ∧ bitsOf x 16 6 ≤ 32 ∧ bitsOf x 0 6 ≤ 32)

/-! ## Events: what one changes, and nothing else -/

/-- Drill e stands in a slot, messages are sent, and nothing else changes. -/
structure DrillGoes (s t : State) (slot : Nat) (e : Drill) (ms : List Msg) : Prop where
  here : drillAt t slot = some e
  others : ∀ k, k ≠ slot → drillAt t k = drillAt s k
  rest : t = { postAll s ms with drills := t.drills }
/-- A drill at user level is pre-empted (spec 23, R381, R390 to R392): as Trapped, with the deadline of the command noted, LASTC where no other drill of
its job is on the core, and the pending pre-emption gone. -/
structure Preempted (s t : State) (slot : Nat) (d : Drill) (deadline : Nat) : Prop where
  drill : ∃ e, drillAt t slot = some e ∧ e = { commitAll d with
    asked := [], granted := [], got := [], claims := [], dt := max d.dt (max d.pstamp d.lstamp), tcause := 0x80000038, tval := 0, tmask := 0, tea := [],
    tepc := d.pc.setWidth 64, tstat := e.tstat, super := true, sup := {}, pc := (jobAt s d.job).tvec, stemWait := .none, leafWait := .none, walked := [], due := none,
    wake := false, wkind := 0, woke := none, yields := [], preempt := none, heldIssues := 0, deadline } ∧
    bitsOf e.tstat.toNat 0 2 = 0 ∧ bitsOf e.tstat.toNat 9 3 = (if d.wake = true then d.wkind.toNat else wkindOf d.stemWait) ∧
    bitOf e.tstat.toNat 14 = !othersBound s slot d.job ∧ bitsOf e.tstat.toNat 12 2 = 0 ∧ bitsOf e.tstat.toNat 15 17 = 0
  others : ∀ k, k ≠ slot → (drillAt t k).map (fun x => { x with stemWait := .none, leafWait := .none }) = (drillAt s k).map (fun x => { x with stemWait := .none, leafWait := .none })
  objs : ∀ k, objAt t k = objAt s k
  bytes : ∀ a, memByte t a = memByte s a
  benches : ∀ c a, benchByte t c a = benchByte s c a
/-- Only physical memory and its poison, the copies of lines and translations, the stamps and the directories of the hubs, stores on their way and
messages change: what drills, objects, jobs, queues, trays, slots, benches and firmware hold stays. -/
structure Behind (s t : State) : Prop where
  rest : t = { s with cores := t.cores, clusters := t.clusters, dies := t.dies, mem := t.mem, psn := t.psn, stores := t.stores, nextId := t.nextId, agenda := t.agenda }
  dies : ∀ k, dieAt t k = { dieAt s k with
    hs := (dieAt t k).hs, ops := (dieAt t k).ops, regions := (dieAt t k).regions, lines := (dieAt t k).lines, dir := (dieAt t k).dir, tcache := (dieAt t k).tcache }
  cores : ∀ c, coreAt t c = { coreAt s c with tcache := (coreAt t c).tcache }
/-- The objects that contain a bed: its launch, that launch's graph and phase, and its job's own object and root phase (spec 10, R190, Table 10.1). -/
structure Lineage (s : State) (bed : Nat) (b l g p j : Obj) : Prop where
  bed : objAt s bed = some b ∧ b.lvl = 0
  launch : objAt s b.up = some l ∧ l.lvl = 1
  graph : objAt s l.up = some g ∧ g.lvl = 2
  phase : objAt s l.phase = some p ∧ p.lvl = 3
  job : objAt s (jobAt s l.job).obj = some j ∧ j.lvl = 4
  root : ∀ o, objAt s (jobAt s l.job).rootPhase = some o → o.lvl = 3
/-- The drills of every slot but one are as they were, but that some wait for less. -/
def OthersWait (s t : State) (slot : Nat) : Prop :=
  ∀ k, k ≠ slot → (drillAt t k).map (fun x => { x with stemWait := .none, leafWait := .none }) = (drillAt s k).map (fun x => { x with stemWait := .none, leafWait := .none })

/-- One object becomes `o`, and every other object stays. -/
def ObjBecomes (s t : State) (i : Nat) (o : Obj) : Prop := objAt t i = some o ∧ ∀ k, k ≠ i → objAt t k = objAt s k
/-- What completes with a launch or a phase: drills wait for less, objects, lines, messages and notices move, and nothing else does. -/
structure Settles (s t : State) : Prop where
  rest : t = { s with drills := t.drills, objs := t.objs, lines := t.lines, agenda := t.agenda, notices := t.notices }
  waits : ∀ k, (drillAt t k).map (fun x => { x with stemWait := .none, leafWait := .none }) = (drillAt s k).map (fun x => { x with stemWait := .none, leafWait := .none })
  agenda : ∀ m, m ∈ s.agenda → m ∈ t.agenda
  notices : ∀ m, m ∈ s.notices → m ∈ t.notices
/-- A phase with the destinations `ds` after one of its lines was raised: with every line raised it is complete, its line is free, and the drills
that wait for it go on (spec 10, R201, R214; 26, R425). -/
structure LineRaised (s t : State) (i : Nat) (o : Obj) (ds : List (Nat × Nat × Nat × Bool)) : Prop where
  becomes : ∃ o', ObjBecomes s t i o' ∧ o'.dests = ds ∧ o'.stamp = o.stamp ∧ o'.cancelled = o.cancelled ∧
    (o'.complete = true ↔ o.root = false ∧ ds.all (fun x => x.2.2.2) = true) ∧
    (o'.complete = false → o'.err = o.err ∧ o'.count = o.count) ∧
    (o'.complete = true → o'.err = (o.err || o.cancelled) ∧ o'.count = 0 ∧ tabFind t.lines o.line = none ∧
      ∀ k d, drillAt s k = some d → d.stemWait = .phwait i → .phwaitRelease k ∈ t.agenda)
  settles : Settles s t

/-- Memory holds the newest bytes of a line: no cluster has a copy of its own, and no hub away from the line's home holds it in M or O. -/
def AtHome (s : State) (line : Nat) : Prop := privateCopies s line = [] ∧ hubOwner s line = none
/-- The bytes from `a` on take the n bytes of x, and every other byte of a line that memory holds stays. -/
structure Written (s t : State) (a n x : Nat) : Prop where
  bytes : ∀ b, a ≤ b → b < a + n → freshByte t b = bitsOf x (8 * (b - a)) 8
  others : ∀ b, b < a ∨ a + n ≤ b → AtHome s (b / 128) → freshByte t b = freshByte s b

/-- A queue becomes `y` and its HEAD and ERR stand in the status line; every other queue, the drills, the objects, the jobs and the phase lines stay,
and the notices `ns` are given (spec 10, R208, R209; 29, R457). -/
structure QueueMoves (s t : State) (die q : Nat) (y : Queue) (ns : List Notice) : Prop where
  queue : queueAt t die q = some y
  others : ∀ k j, k ≠ die ∨ j ≠ q → queueAt t k j = queueAt s k j
  rest : t.drills = s.drills ∧ t.objs = s.objs ∧ t.jobs = s.jobs ∧ t.lines = s.lines ∧ t.notices = s.notices ++ ns
  status : (dieAt s die).mailBase % 256 = 0 → y.err < 2 ^ 32 → AtHome s (statusAt s die y.pair / 128) →
    freshRead t (statusAt s die y.pair) 8 = y.head % 2 ^ 32 + y.err * 2 ^ 32

/-- The right to a line that an operation of a hub needs is there: the line can be reached, nothing is held for it, and the hub has it in M or E, or
in any state but I where reading is enough (spec 26, R413, R416). -/
def HasRight (s : State) (die line : Nat) (own : Bool) : Prop :=
  reachable s line = true ∧ heldFor s die line = false ∧ (hubState s die line = .m ∨ hubState s die line = .e ∨ (own = false ∧ hubState s die line ≠ .i))
/-- The message of an operation at a hub, its die, its line, and whether it needs the line in M or E. -/
def hubAsk (s : State) : Instr → Option (Msg × Nat × Nat × Bool)
  | .hubFill cl line slot dt lease => some (.hubFill cl line slot dt lease, dieOfCl cl, line, false)
  | .hubRenewal cl line slot dt lease wts => some (.hubRenewal cl line slot dt lease wts, dieOfCl cl, line, false)
  | .clocheVerify core ent line wts dt lease => some (.clocheVerify core ent line wts dt lease, core / 192, line, false)
  | .tileFillReturn cl tile line => some (.tileFillReturn cl tile line, dieOfCl cl, line, true)
  | .hubStoreStamp id => (tabFind s.stores id).map (fun p => (.hubStoreStamp id, dieOfCl p.cl, p.line, true))
  | _ => none
/-- A lease operation: its cluster, line, DT and LEASE, and what it answers for the region's stamps and the line (spec 15, R267; 16, R289). -/
def hubLease : Instr → Option (Nat × Nat × Nat × Nat × (Region → Vec × BitVec 4 → List Msg))
  | .hubFill cl line slot dt lease => some (cl, line, dt, lease, fun r x => [.leaseResponse cl line slot r.wts (max r.rts (dt + lease)) (some x.1) x.2])
  | .hubRenewal cl line slot dt lease wts => some (cl, line, dt, lease, fun r x =>
      [.leaseResponse cl line slot r.wts (max r.rts (dt + lease)) (if r.wts = wts then none else some x.1) x.2])
  | .clocheVerify core ent line wts dt lease => some (clusterOfCore core, line, dt, lease, fun r x =>
      [.leaseResponse (clusterOfCore core) line (16 * core) r.wts (max r.rts (dt + lease)) (if r.wts = wts then none else some x.1) x.2,
        .clocheVerdict core ent line wts (decide (r.wts ≠ wts))])
  | _ => none
/-- A hub has run one operation on a region: the region's stamps are `w` and `r`, HS_d follows them, the messages `ms` go out, and drills, objects,
jobs, clusters, cores and memory stay (spec 15, R267, R268). -/
structure RegionMoves (s t : State) (die : Nat) (reg : Region) (w r : Nat) (ms : List Msg) : Prop where
  region : ∃ x ∈ (dieAt t die).regions, x.base = reg.base ∧ x.size = reg.size ∧ x.wts = w ∧ x.rts = r
  hs : r ≤ (dieAt t die).hs
  sent : ∀ m ∈ ms, m ∈ t.agenda
  rest : t.drills = s.drills ∧ t.objs = s.objs ∧ t.jobs = s.jobs ∧ t.clusters = s.clusters ∧ t.cores = s.cores ∧ t.stores = s.stores

/-- No cache holds a translation through a table entry. -/
def NoTrans (s : State) (pte : Nat) : Prop := ∀ c x, x ∈ (coreAt s c).tcache ∨ x ∈ (dieAt s c).tcache → x.pte ≠ some pte
/-- No cluster holds a tile of a physical range, in its chain or in its write-back buffer. -/
def NoTiles (s : State) (lo hi : Nat) : Prop :=
  ∀ c ∈ s.clusters, (∀ t ∈ c.2.tiles, ¬(lo ≤ t.1 * 2048 ∧ t.1 * 2048 < hi)) ∧ ∀ t ∈ c.2.wback, ¬(lo ≤ t.1 * 2048 ∧ t.1 * 2048 < hi)
/-- No unresolved cloche entry of a job's drills is left on the cores that p accepts (spec 17, R312). -/
def AllStruck (s : State) (p : Nat → Bool) (job : Nat) : Prop :=
  ∀ c e d, p c = true → e ∈ (coreAt s c).cloche → drillAt s (16 * c + e.2.ctx) = some d → d.job = job → e.2.state ≠ 1
/-- Memory holds the newest bytes of the n addresses from a on. -/
def HomeRange (s : State) (a n : Nat) : Prop := ∀ b, a ≤ b → b < a + n → AtHome s (b / 128)
/-- A frame of canopy or HBM outside the hubs' windows (spec 17, R315). -/
def nearFrame (x : Nat) : Bool := decide (tierOf x = some 0 ∨ tierOf x = some 1) && !inHubWindow x

/-- A request of agent y on a line can be served at once: none is in progress there, the snoop filter has a place, and the line is not the host's
(spec 26, R413, R419; 29, R449). -/
def Servable (s : State) (line y : Nat) : Prop := busyAt s line = none ∧ victimOf s line y = none ∧ tierOf (line * 128) ≠ some 2
/-- The requests of a die hub: message, line, kind and requester (spec 26, Table 26.2). -/
def hubRequest : Instr → Option (Msg × Nat × Nat × Nat)
  | .rds line y => some (.rds line y, line, 0, y)
  | .rdx line y => some (.rdx line y, line, 1, y)
  | .upg line y => some (.upg line y, line, 2, y)
  | _ => none
/-- The agents other than y that hold a line and are to be invalidated for a request that takes M: all but the owner, whose data is forwarded. -/
def toDrop (s : State) (line y a : Nat) : Prop := a < 5 ∧ a ≠ y ∧ agentState s line a ≠ .i ∧ (a = 4 ∨ isOwner (agentState s line a) = false)

/-- The owner of a line is among its holders. -/
def DirOk (s : State) (line : Nat) : Prop := ∀ o st, (dirAt s line).owner = some (o, st) → hasBit (dirAt s line).holders o = true

/-- The line of the host's address space that a request of the host names (spec 29, Table 29.2). -/
def hostAsk : Instr → Option Nat
  | .hostMemrdS line => some line
  | .hostMemrdA line => some line
  | .hostMemrdI line => some line
  | .hostMemwr line _ => some line
  | _ => none

/-- A line of the host's address space that an HDM decoder maps onto a line of the module (spec 29, R446). -/
abbrev HostMaps (s : State) (hostAt line : Nat) : Prop :=
  (s.mgmt.hdm0 ≤ hostAt * 128 ∧ hostAt * 128 < s.mgmt.hdm0 + 0x6000000000 ∧ line * 128 + s.mgmt.hdm0 = hostAt * 128) ∨
  ((hostAt * 128 < s.mgmt.hdm0 ∨ s.mgmt.hdm0 + 0x6000000000 ≤ hostAt * 128) ∧ s.mgmt.hdm1 ≤ hostAt * 128 ∧ hostAt * 128 < s.mgmt.hdm1 + 0x1800000000 ∧
    line * 128 + s.mgmt.hdm1 = hostAt * 128 + 0x10000000000)
/-- A line of the host's address space that no HDM decoder maps (spec 29, R446). -/
abbrev HostUnmapped (s : State) (hostAt : Nat) : Prop :=
  (hostAt * 128 < s.mgmt.hdm0 ∨ s.mgmt.hdm0 + 0x6000000000 ≤ hostAt * 128) ∧ (hostAt * 128 < s.mgmt.hdm1 ∨ s.mgmt.hdm1 + 0x1800000000 ≤ hostAt * 128)

end Sys2Proof.Machine
end

