-- ==== Sys2Proof/Certificates/Slice0/Obligations.lean ====
section
/-!
DEFINITION. The statements for the provers, from the numbered rules of the spec. -/
open Sys2Proof Sys2Proof.Machine

/-! ## Stem words -/

/-- Every word of Tables 6.1 to 6.3 and LDHI and PCADD that may issue completes with the table's result, and does nothing else (R113 to R115, R44). -/
def Obligations.StemIntegerResults : Prop :=
  ∀ (i : Instr) (gd : BitVec 6) (srcs : List (BitVec 6)) (f : VAddr → Word → Word → Word) (s : State) (d : Drill),
    intRow i = some (gd, srcs, f) → StemIssues { ins := i, srcs, dst := some gd } s d →
    ∃ t, exec i s = .next t ∧
      StemCompletes { ins := i, srcs, dst := some gd } (f d.pc (opAt (stemSrcs s d [] srcs) 0) (opAt (stemSrcs s d [] srcs) 1)) none s t s.cur d

/-- What any stem word that completes leaves behind it: its result, the windows it closes or opens, its pops and its push, the next PC, and nothing else. -/
def Obligations.StemCompletion : Prop :=
  ∀ (p : StemPlan) (res : Word) (next : Option Word) (s : State) (slot : Nat) (d : Drill),
    drillAt s slot = some d → (∃ o, objAt s d.bed = some o) → StemCompletes p res next s (stemDone s slot p res next) slot d

/-- The fields of a stem word are read in order: a general register, g0 as zero, or the entry that this field's pop of the hose takes (R38, R21). -/
def Obligations.StemOperandOrder : Prop :=
  ∀ (s : State) (d : Drill) (a b : BitVec 6),
    gGet d 0 = 0 ∧
    opAt (stemSrcs s d [] [a, b]) 0 = (if a.toNat < 48 then gGet d a.toNat else ((hoseQ s d (a.toNat - 48)).getD 0 0).setWidth 64) ∧
    opAt (stemSrcs s d [] [a, b]) 1 = (if b.toNat < 48 then gGet d b.toNat else ((hoseQ s d (b.toNat - 48)).getD (if a = b then 1 else 0) 0).setWidth 64)

/-- The six conditional branches fall through, take their target, or take the fetch fault on a taken target outside the section (R116, R381). -/
def Obligations.StemBranches : Prop :=
  ∀ (i : Instr) (a b : BitVec 6) (o : BitVec 12) (c : Word → Word → Bool) (s : State) (d : Drill),
    branchRow i = some (a, b, o, c) → StemIssues { ins := i, srcs := [a, b], ctl := true } s d →
    let x := opAt (stemSrcs s d [] [a, b]) 0
    let y := opAt (stemSrcs s d [] [a, b]) 1
    let dest := d.pc.setWidth 64 + o.signExtend 64 * 4
    (c x y = false → ∃ t, exec i s = .next t ∧ StemCompletes { ins := i, srcs := [a, b], ctl := true } 0 none s t s.cur d) ∧
    (c x y = true → stemTargetOk s d dest.toNat = true → ∃ t, exec i s = .next t ∧ StemCompletes { ins := i, srcs := [a, b], ctl := true } 0 (some dest) s t s.cur d) ∧
    (c x y = true → stemTargetOk s d dest.toNat = false → exec i s = .next (stemTrap s s.cur cFetch dest))

/-- JMP, CALL, JR and CALLR go to their target and link, or take the fetch fault with nothing written (R117, R118). -/
def Obligations.StemJumps : Prop :=
  ∀ (i : Instr) (srcs : List (BitVec 6)) (dst : Option (BitVec 6)) (f : Word → Word → Word) (s : State) (d : Drill),
    jumpRow i = some (srcs, dst, f) → StemIssues { ins := i, srcs, dst, ctl := true } s d →
    let dest := f (d.pc.setWidth 64) (opAt (stemSrcs s d [] srcs) 0)
    let link := if dst = none then 0 else (d.pc + 4).setWidth 64
    (stemTargetOk s d dest.toNat = true → ∃ t, exec i s = .next t ∧ StemCompletes { ins := i, srcs, dst, ctl := true } link (some dest) s t s.cur d) ∧
    (stemTargetOk s d dest.toNat = false → exec i s = .next (stemTrap s s.cur cFetch dest))

/-- SYSR reads an assigned register that its level may read; an unassigned index is an illegal instruction, one above the level a privilege fault (R26, R130).
-/
def Obligations.StemSystemReads : Prop :=
  ∀ (g : BitVec 6) (n : BitVec 12) (s : State) (d : Drill), StemIssues { ins := .sysr g n, dst := some g } s d →
    (sysRead s s.cur d n.toNat = none → exec (.sysr g n) s = .next (stemTrap s s.cur cIllegal (stemBits (.sysr g n)))) ∧
    ∀ x, sysRead s s.cur d n.toNat = some x →
      (d.super = true ∨ n.toNat < 0x100 → ∃ t, exec (.sysr g n) s = .next t ∧ StemCompletes { ins := .sysr g n, dst := some g } x none s t s.cur d) ∧
      (d.super = false → 0x100 ≤ n.toNat → exec (.sysr g n) s = .next (stemTrap s s.cur cPrivilege (stemBits (.sysr g n))))

/-- SYSW writes what its level may write, and else takes the fault; a system register that has been written reads what its fields keep, and every other one
reads what it read (R26, R130, Table 1.3, Table 23.2, R92, R386). -/
def Obligations.StemSystemWrites : Prop :=
  (
    ∀ (a : BitVec 6) (n : BitVec 12) (s : State) (d : Drill), StemIssues { ins := .sysw a n, srcs := [a] } s d →
      let x := opAt (stemSrcs s d [] [a]) 0
      let u := putDrill s s.cur (sysWrite d n.toNat x)
      (sysRead s s.cur d n.toNat = none → exec (.sysw a n) s = .next (stemTrap s s.cur cIllegal (stemBits (.sysw a n)))) ∧
      ((sysRead s s.cur d n.toNat).isSome = true →
        (sysMayWrite d.super n.toNat = true → ∃ t, exec (.sysw a n) s = .next t ∧
          StemCompletes { ins := .sysw a n, srcs := [a] } 0 none (if n = 0x002 ∧ d.leafWait = .hose then post u (.parkedWordRetest s.cur true) else u) t s.cur
            (sysWrite d n.toNat x)) ∧
        (sysMayWrite d.super n.toNat = false → exec (.sysw a n) s = .next (stemTrap s s.cur cPrivilege (stemBits (.sysw a n)))))) ∧
  (
    ∀ (s : State) (slot : Nat) (d : Drill) (n : Nat) (x y : Word), sysAfter d n x = some y →
      sysRead s slot (sysWrite d n x) n = some y ∧
      ∀ m, m ≠ n → m ≠ 0x111 → m ≠ 0x114 → m ≠ 0x115 → sysRead s slot (sysWrite d n x) m = sysRead s slot d m)

/-- LWAIT completes when the leaf is idle and waits while it is not; YIELD lists the other ready drills of the core; EXIT stops the stem at its word; HCNT and
HTRY report a hose without popping it (R126, R128, R129, R134, R135). Where the spec leaves a point open it follows the model's log: entry 73. -/
def Obligations.StemStatusWords : Prop :=
  ∀ (s : State) (d : Drill),
    (StemIssues { ins := .lwait } s d →
      (lqstat (leafCtx d) = 0 → ∃ t, exec .lwait s = .next t ∧ StemCompletes { ins := .lwait } 0 none s t s.cur d) ∧
      (lqstat (leafCtx d) ≠ 0 → exec .lwait s = .next (putDrill s s.cur { d with stemWait := .lwait, claims := d.claims.filter (fun c => c.1) }))) ∧
    (StemIssues { ins := .yield } s d → ∃ t, exec .yield s = .next t ∧
      StemCompletes { ins := .yield } 0 none (putDrill s s.cur { d with yields := readyOthers s s.cur }) t s.cur { d with yields := readyOthers s s.cur }) ∧
    (StemIssues { ins := .exit } s d → stemTargetOk s d d.pc.toNat = true → ∃ t, exec .exit s = .next t ∧
      StemCompletes { ins := .exit } 0 (some (d.pc.setWidth 64)) (post (putDrill s s.cur (commitAll { d with stemWait := .exited })) (.drillRetire s.cur)) t s.cur
        (commitAll { d with stemWait := .exited })) ∧
    ∀ (g : BitVec 6) (h : BitVec 5),
      let held := (hoseQ s d h.toNat).length
      let free := hoseDepth h.toNat - held
      (StemIssues { ins := .hcnt g h, dst := some g } s d → ∃ t, exec (.hcnt g h) s = .next t ∧
        StemCompletes { ins := .hcnt g h, dst := some g } (if hoseCode d h.toNat = 0 then -1 else BitVec.ofNat 64 held) none s t s.cur d) ∧
      (StemIssues { ins := .htry g h, dst := some g } s d → ∃ t x, exec (.htry g h) s = .next t ∧ StemCompletes { ins := .htry g h, dst := some g } x none s t s.cur d ∧
        (hoseCode d h.toNat = 0 → x = 0) ∧
        (hoseCode d h.toNat ≠ 0 → bitsOf x.toNat 16 8 = min free 255 ∧ bitsOf x.toNat 8 8 = min held 255 ∧ bitOf x.toNat 2 = true ∧
          bitOf x.toNat 1 = (hoseGrants d (decide (16 ≤ h.toNat)) true h.toNat && decide (0 < free)) ∧
          bitOf x.toNat 0 = (hoseGrants d (decide (16 ≤ h.toNat)) false h.toNat && decide (0 < held))))

/-- A FENCE below die scope changes nothing; from die scope up a release raises DT to PSTAMP once no store of the drill awaits its stamp, and an acquire
raises it past itself and to LSTAMP (R274, R279). -/
def Obligations.StemFences : Prop :=
  ∀ (c : BitVec 3) (k : BitVec 2) (s : State) (d : Drill), StemIssues { ins := .fence c k, release := decide (k ≠ 1) } s d →
    (k ≠ 1 → releaseWait s s.cur c.toNat = true → exec (.fence c k) s = .next (putDrill s s.cur { d with stemWait := .stores, claims := d.claims.filter (fun c => c.1) })) ∧
    (k = 1 ∨ releaseWait s s.cur c.toNat = false →
      let up := if k ≠ 1 ∧ 3 ≤ c.toNat then max d.dt d.pstamp else d.dt
      let dt := if k ≠ 2 ∧ 3 ≤ c.toNat then max (up + 1) d.lstamp else up
      ∃ t, exec (.fence c k) s = .next t ∧
        StemCompletes { ins := .fence c k, release := decide (k ≠ 1) } 0 none (putDrill s s.cur { d with dt }) t s.cur { d with dt })

/-- LRUN queues its routine with copies of g0 to g15 and FMODE[6:0]; it waits on a full queue, and faults on an entry outside the leaf section (R125, R45,
R18). -/
def Obligations.StemLeafLaunch : Prop :=
  ∀ (g : BitVec 6) (n : BitVec 18) (s : State) (d : Drill), StemIssues { ins := .lrun g n, srcs := [g] } s d → g.toNat < 48 →
    let b := sections s d
    let entry := (b.2.2.1.toNat + 12 * ((gGet d g.toNat).toNat + n.toNat)) % 2 ^ 56
    let inside := b.2.2.1.toNat ≤ entry ∧ entry < b.2.2.2.toNat
    let q : LaunchEnt := { entry := BitVec.ofNat 56 entry, regs := copyG d, fmode := d.fmode.setWidth 7, clo := ((clEntries s s.cur).filter (fun x => !x.2.leaf)).map (·.1) }
    let e := onLeaf d (fun c => { c with queue := c.queue ++ [q] })
    (¬inside → exec (.lrun g n) s = .next (stemTrap s s.cur cFetch (BitVec.ofNat 64 entry))) ∧
    (inside → 4 ≤ (leafCtx d).queue.length → exec (.lrun g n) s = .next (putDrill s s.cur { d with stemWait := .lrunQueue, claims := d.claims.filter (fun c => c.1) })) ∧
    (inside → (leafCtx d).queue.length < 4 → ∃ t, exec (.lrun g n) s = .next t ∧
      StemCompletes { ins := .lrun g n, srcs := [g] } 0 none (post (putDrill s s.cur e) (.routineStart s.cur)) t s.cur e) ∧
    ∀ r, r < 16 → tabGet 0 (copyG d) r = tabGet 0 d.g r

/-! ## The bench -/

/-- LDB.n32 and LDB.i64 read their bytes of the bench, zero-extended, or find poison; STB.i32 and STB.i64 store the low bytes of their source at their place
and change no other byte; a bench word outside every bench takes the bench-range fault, a misaligned one the alignment fault, each with its address; a bench
that no map covers is filled by nothing (R124, R226, R314, R388). -/
def Obligations.StemBenchWords : Prop :=
  (
    ∀ (i : Instr) (gd a : BitVec 6) (l : BitVec 4) (o : BitVec 5) (size : Nat) (s u : State) (d : Drill) (core off : Nat),
      (i = .ldbN32 gd a l o ∧ size = 4) ∨ (i = .ldbI64 gd a l o ∧ size = 8) →
      let p : StemPlan := { ins := i, srcs := [a], dst := some gd, la := l.toNat }
      StemIssues p s d → BenchReady s d (stemEa (opAt (stemSrcs s d [] [a]) 0) o size) size size core off u →
      (benchPoison u core off size = none → ∃ x, exec i s = .next (stemDone u s.cur p x none) ∧
        ∀ k, k < 8 → bitsOf x.toNat (8 * k) 8 = if k < size then (benchByte u core (off + k)).toNat else 0) ∧
      ∀ sec, benchPoison u core off size = some sec → exec i s = .next (stemTrap s s.cur cPoison (BitVec.ofNat 64 (core % 48 * 0x80000 + sec * 32)))) ∧
  (
    ∀ (i : Instr) (g a : BitVec 6) (o : BitVec 5) (size : Nat) (s u : State) (d : Drill) (core off : Nat),
      (i = .stbI32 g a o ∧ size = 4) ∨ (i = .stbI64 g a o ∧ size = 8) →
      let p : StemPlan := { ins := i, srcs := [a, g] }
      StemIssues p s d → BenchReady s d (stemEa (opAt (stemSrcs s d [] [a, g]) 0) o size) size size core off u →
      ∃ v, exec i s = .next (stemDone v s.cur p 0 none) ∧ BenchOnly u v core off size ∧ (∀ k, drillAt v k = drillAt u k) ∧
        ∀ k, k < size → (benchByte v core (off + k)).toNat = bitsOf (opAt (stemSrcs s d [] [a, g]) 1).toNat (8 * k) 8) ∧
  (
    ∀ (i : Instr) (p : StemPlan) (ea n : Nat) (s : State) (d : Drill) (x a b : BitVec 6) (l : BitVec 4) (o : BitVec 5),
      (i = .ldbN32 x a l o ∧ p = { ins := i, srcs := [a], dst := some x, la := l.toNat } ∧ n = 4 ∧ ea = stemEa (opAt (stemSrcs s d [] [a]) 0) o 4) ∨
      (i = .ldbI64 x a l o ∧ p = { ins := i, srcs := [a], dst := some x, la := l.toNat } ∧ n = 8 ∧ ea = stemEa (opAt (stemSrcs s d [] [a]) 0) o 8) ∨
      (i = .stbI32 x a o ∧ p = { ins := i, srcs := [a, x] } ∧ n = 4 ∧ ea = stemEa (opAt (stemSrcs s d [] [a, x]) 0) o 4) ∨
      (i = .stbI64 x a o ∧ p = { ins := i, srcs := [a, x] } ∧ n = 8 ∧ ea = stemEa (opAt (stemSrcs s d [] [a, x]) 0) o 8) ∨
      (i = .bart x a b ∧ p = { ins := i, srcs := [a, b], dst := some x } ∧ n = 8 ∧ ea = (opAt (stemSrcs s d [] [a, b]) 0).toNat) ∨
      (i = .barw x a b ∧ p = { ins := i, srcs := [a, b], dst := some x } ∧ n = 8 ∧ ea = (opAt (stemSrcs s d [] [a, b]) 0).toNat) ∨
      (i = .bara x a b ∧ p = { ins := i, srcs := [a, b], dst := some x, release := true } ∧ n = 8 ∧ ea = (opAt (stemSrcs s d [] [a, b]) 0).toNat) ∨
      (i = .bari x a b ∧ p = { ins := i, srcs := [a, b], dst := some x, release := true } ∧ n = 8 ∧ ea = (opAt (stemSrcs s d [] [a, b]) 0).toNat) →
      StemIssues p s d →
      (benchPlace s s.cur ea = none ∨ benchIn s s.cur ea n = false → exec i s = .next (stemTrap s s.cur cBench (BitVec.ofNat 64 ea))) ∧
      ((benchPlace s s.cur ea).isSome = true → benchIn s s.cur ea n = true → ea % n ≠ 0 → exec i s = .next (stemTrap s s.cur cAlign (BitVec.ofNat 64 ea)))) ∧
  (
    ∀ (s : State) (slot core off n : Nat) (super : Bool), (∀ t, benchMapOf s core (t * 2048) = none) → benchFills s slot super core off n = .ok s)

/-- BARI, BARA, BARW and BART: each writes the barrier word as it stood to gd; BARI sets it from its template; BARA makes its arrival, and a phase that
completes wakes every drill parked on the word; BARW returns at once on a completed phase, an error or an unarmed word, and else parks (R224, R227). Where the
spec leaves a point open it follows the model's log: entries 17, 35, 104. -/
def Obligations.BarrierWords : Prop :=
  ∀ (gd a b : BitVec 6) (s u : State) (d : Drill) (core off : Nat),
    let g := opAt (stemSrcs s d [] [a, b]) 1
    let w := benchRead u core off 8
    let old := barOf w
    BenchReady s d (opAt (stemSrcs s d [] [a, b]) 0).toNat 8 8 core off u → benchPoison u core off 8 = none →
    (StemIssues { ins := .bari gd a b, srcs := [a, b], dst := some gd, release := true } s d → ∃ v,
      exec (.bari gd a b) s = .next (stemDone v s.cur { ins := .bari gd a b, srcs := [a, b], dst := some gd, release := true } (BitVec.ofNat 64 w) none) ∧
      BenchOnly u v core off 8 ∧ (∀ k, drillAt v k = drillAt u k) ∧
      barOf (benchRead v core off 8) = { ph := bitOf g.toNat 63, err := false, fc := 0, exp := field g 55 44, arr := 0, tt := field g 31 16, tc := 0 }) ∧
    (StemIssues { ins := .bara gd a b, srcs := [a, b], dst := some gd, release := true } s d → ∃ v,
      exec (.bara gd a b) s = .next (stemDone v s.cur { ins := .bara gd a b, srcs := [a, b], dst := some gd, release := true } (BitVec.ofNat 64 w) none) ∧
      BenchOnly u v core off 8 ∧ barOf (benchRead v core off 8) = arrival old (field g 11 0) ∧
      (((arrival old (field g 11 0)).ph = old.ph → ∀ k, drillAt v k = drillAt u k) ∧
      ((arrival old (field g 11 0)).ph ≠ old.ph → ∀ k e r, drillAt u k = some e → e.stemWait = .barw core off r none →
        ∃ x, drillAt v k = some { e with stemWait := .barw core off r (some x) }))) ∧
    (StemIssues { ins := .bart gd a b, srcs := [a, b], dst := some gd } s d →
      exec (.bart gd a b) s = .next (stemDone u s.cur { ins := .bart gd a b, srcs := [a, b], dst := some gd } (BitVec.ofNat 64 w) none)) ∧
    (StemIssues { ins := .barw gd a b, srcs := [a, b], dst := some gd } s d → d.wake = false →
      (old.ph ≠ bitOf g.toNat 0 ∨ old.err = true ∨ (old.exp = 0 ∧ old.tt = 0) →
        exec (.barw gd a b) s = .next (stemDone u s.cur { ins := .barw gd a b, srcs := [a, b], dst := some gd } (BitVec.ofNat 64 w) none)) ∧
      (old.ph = bitOf g.toNat 0 → old.err = false → (old.exp ≠ 0 ∨ old.tt ≠ 0) →
        exec (.barw gd a b) s = .next (streamPark u s.cur false (.barw core off gd.toNat none) (stemHoses [a, b]))))

/-! ## Words of the stem that reach memory -/

/-- LD, LDN and LDA: a load that may be performed returns the bytes that its cluster sees, extended, and raises LSTAMP; an acquire of die scope or wider reads
at DT + 1 and leaves DT there or at the wts it read; a poisoned sector is a fault of its address. LDC on a line whose lease has run out takes the copy as it
is and holds an entry for it in the cloche, which asks for its verification; with no place for an entry it sets the overflow flag and waits for a renewal
(R120, R121, R251, R267, R273, R285, R287, R296). Where the spec leaves a point open it follows the model's log: entries 10, 24, 29. -/
def Obligations.StemLoads : Prop :=
  (
    ∀ (i : Instr) (gd a : BitVec 6) (l : BitVec 4) (o : BitVec 5) (n : Nat) (signed acq : Bool) (s : State) (d : Drill) (pa : Nat) (shr : Bool),
      loadRow i = some (gd, a, l, o, n, signed, acq) →
      let p : StemPlan := { ins := i, srcs := [a], dst := some gd, la := l.toNat }
      let cl := clusterOf s.cur
      StemIssues p s d → Reaches s d .load false (stemEa (opAt (stemSrcs s d [] [a]) 0) o n) n pa shr → Readable s cl pa n shr (if acq then d.dt + 1 else d.dt) →
      (clusterPoison s cl pa = true → exec i s = .next (stemTrap s s.cur cPoison (BitVec.ofNat 64 (pa / 32 * 32)))) ∧
      (clusterPoison s cl pa = false → ∃ v e x w, exec i s = .next (stemDone v s.cur p x none) ∧ ReadOnly s v s.cur d e ∧
        (∀ k, k < 8 → bitsOf x.toNat (8 * k) 8 = if k < n then clusterByte s cl (pa + k) else if signed = true ∧ 128 ≤ clusterByte s cl (pa + n - 1) then 255 else 0) ∧
        (shr = false → w = 0) ∧ (∀ y, shr = true → copyAt s cl (pa / 128) = some y → w = y.wts) ∧
        e.lstamp = max d.lstamp w ∧ e.dt = (if acq then max (d.dt + 1) w else d.dt) ∧ e.ovf = d.ovf)) ∧
  (
    ∀ (i : Instr) (gd a : BitVec 6) (l : BitVec 4) (o : BitVec 5) (n : Nat) (signed : Bool) (s : State) (d : Drill) (pa : Nat) (y : LineCopy),
      (i = .ldcN32 gd a l o ∧ n = 4 ∧ signed = false) ∨ (i = .ldcI64 gd a l o ∧ n = 8 ∧ signed = true) →
      let p : StemPlan := { ins := i, srcs := [a], dst := some gd, la := l.toNat }
      let cl := clusterOf s.cur
      let core := coreOf s.cur
      StemIssues p s d → Reaches s d .load false (stemEa (opAt (stemSrcs s d [] [a]) 0) o n) n pa true → copyAt s cl (pa / 128) = some y →
      y.have' ≠ 0 → y.rts < d.dt → maskIn (byteMask (pa % 128) n) y.pend = false → tierOf (pa / 128 * 128) ≠ some 2 →
      (clEntries s s.cur).any (fun e => decide (e.2.state = 1 ∧ e.2.line = pa / 128 ∧ e.2.wts = y.wts)) = false →
      ((clEntries s s.cur).length < 32 → (coreAt s core).cloche.length < 128 → clusterPoison s cl pa = false → ∃ v e x,
        exec i s = .next (stemDone v s.cur p x none) ∧ ReadOnly s v s.cur d e ∧
        (∀ k, k < 8 → bitsOf x.toNat (8 * k) 8 = if k < n then clusterByte s cl (pa + k) else if signed = true ∧ 128 ≤ clusterByte s cl (pa + n - 1) then 255 else 0) ∧
        e.lstamp = d.lstamp ∧ e.dt = d.dt ∧ e.ovf = d.ovf ∧
        tabFind (coreAt v core).cloche s.nextId = some { state := 1, ctx := ctxOf s.cur, line := pa / 128, wts := y.wts, leaf := false } ∧
        Msg.clocheVerify core s.nextId (pa / 128) y.wts d.dt d.lease ∈ v.agenda) ∧
      (32 ≤ (clEntries s s.cur).length ∨ 128 ≤ (coreAt s core).cloche.length → (s.cur, false, pa / 2048) ∈ (clAt s cl).order → ∃ v e,
        exec i s = .next (streamPark v s.cur false .line (stemHoses [a])) ∧ drillAt v s.cur = some e ∧ e.ovf = true ∧ v.mem = s.mem ∧
        Msg.hubRenewal cl (pa / 128) s.cur d.dt d.lease y.wts ∈ v.agenda))

/-- ST and STL store the low bytes of their source at their address, on a shared page under DT; a release of die scope or wider first waits for the stamps of
earlier stores, and carries and leaves a DT no lower than PSTAMP (R120, R121, R251, R268, R274). Where the spec leaves a point open it follows the model's
log: entries 9, 10. -/
def Obligations.StemStores : Prop :=
  ∀ (i : Instr) (g a : BitVec 6) (o : BitVec 5) (n : Nat) (rel : Option Nat) (s : State) (d : Drill) (pa : Nat) (shr : Bool),
    storeRow i = some (g, a, o, n, rel) →
    let p : StemPlan := { ins := i, srcs := [a, g], release := rel.isSome }
    let cl := clusterOf s.cur
    let x := (opAt (stemSrcs s d [] [a, g]) 1).toNat
    let dt := match rel with | some c => if 3 ≤ c then max d.dt d.pstamp else d.dt | none => d.dt
    StemIssues p s d → Reaches s d .store false (stemEa (opAt (stemSrcs s d [] [a, g]) 0) o n) n pa shr →
    (∀ c, rel = some c → begun d false = true ∨ releaseWait s s.cur c = false) →
    (∃ v e, exec i s = .next (stemDone v s.cur p 0 none) ∧ StoreOnly s v s.cur d e ∧ e.lstamp = d.lstamp ∧ e.dt = dt ∧ StoredBytes s v s.cur pa n x shr dt ∧
      (shr = true ∨ (tabFind (clAt s cl).tiles (pa / 2048)).isSome = true → v.mem = s.mem) ∧
      ∀ b, (b < pa ∨ pa + n ≤ b) → memByte v b = memByte s b) ∧
    ∀ c, rel = some c → begun d false = false → releaseWait s s.cur c = true →
      exec i s = .next (streamPark s s.cur false .stores (stemHoses [a, g]))

/-- An atomic performed in its cluster returns the old value, sign-extended, and leaves the new one of Table 11.10; one of die scope or wider on a shared page
goes to the hub of its die, or of the line's home, and returns with the answer (R231, R235, R236, R418). Where the spec leaves a point open it follows the
model's log: entry 100. -/
def Obligations.StemAtomics : Prop :=
  ∀ (i : Instr) (gd a b : BitVec 6) (c : BitVec 3) (z : BitVec 1) (f : ∀ w, BitVec w → BitVec w → BitVec w → Option (BitVec w)) (s : State) (d : Drill) (pa : Nat) (shr : Bool),
    amoRow i = some (gd, a, b, c, z, f) →
    let srcs := amoSrcs i gd a b
    let p : StemPlan := { ins := i, srcs, dst := some gd }
    let n := if z = 1 then 8 else 4
    let cl := clusterOf s.cur
    let v := stemSrcs s d [] srcs
    let old := BitVec.ofNat (8 * n) (packFields 8 (fun k => clusterByte s cl (pa + k)) n)
    StemIssues p s d → Reaches s d .store false (opAt v 0).toNat n pa shr → (jobAt s d.job).replay = .free →
    (¬(shr = true ∧ 3 ≤ c.toNat) → Readable s cl pa n shr d.dt → (shr = true → (tabFind (clAt s cl).tiles (pa / 2048)).isSome = true) →
      (clusterPoison s cl pa = true → ∃ t, exec i s = .next (stemTrap t s.cur cPoison (BitVec.ofNat 64 (pa / 32 * 32))) ∧ t.mem = s.mem ∧ t.stores = s.stores ∧
        ∀ c l, copyAt t c l = copyAt s c l) ∧
      (clusterPoison s cl pa = false → ∃ t e, exec i s = .next (stemDone t s.cur p (old.signExtend 64) none) ∧ StoreOnly s t s.cur d e ∧ e.dt = d.dt ∧
        match f (8 * n) old ((opAt v 1).setWidth (8 * n)) ((opAt v 2).setWidth (8 * n)) with
        | some y => StoredBytes s t s.cur pa n y.toNat shr d.dt
        | none => t.mem = s.mem ∧ t.stores = s.stores ∧ ∀ c l, copyAt t c l = copyAt s c l)) ∧
    (shr = true → 3 ≤ c.toNat →
      (remoteOf s s.cur false 0 = none → lineStoresOut s s.cur (pa / 128) = false → ∃ r,
        exec i s = .next (streamPark (sendRemote s r) s.cur false (.atomic s.nextId) (stemHoses srcs)) ∧
        r.pa = pa ∧ r.size = n ∧ r.hub = (if c.toNat = 3 then dieOf s.cur else homeOf s pa) ∧ r.arg = (opAt v 1).toNat % 2 ^ (8 * n) ∧ r.cmp = (opAt v 2).toNat % 2 ^ (8 * n)) ∧
      (∀ id r x, remoteOf s s.cur false 0 = some (id, r) → r.answer = some (x, false) →
        exec i s = .next (stemDone (dropRemote s id) s.cur p ((BitVec.ofNat (8 * n) x).signExtend 64) none)))

/-- The first failure of a load, store or atomic is taken: an address of 56 bits or more, then alignment, then the fault its translation answers; with no
translation at hand it asks for a walk (R121, R309). -/
def Obligations.StemAddressFaults : Prop :=
  ∀ (i : Instr) (p : StemPlan) (k : Kind) (ea n : Nat) (s : State) (d : Drill) (x a b : BitVec 6) (l : BitVec 4) (o : BitVec 5) (c : BitVec 3) (z : BitVec 1) (signed acq : Bool) (rel : Option Nat)
    (f : ∀ w, BitVec w → BitVec w → BitVec w → Option (BitVec w)),
    (loadRow i = some (x, a, l, o, n, signed, acq) ∧ p = { ins := i, srcs := [a], dst := some x, la := l.toNat } ∧ k = .load ∧ ea = stemEa (opAt (stemSrcs s d [] [a]) 0) o n) ∨
    (storeRow i = some (x, a, o, n, rel) ∧ p = { ins := i, srcs := [a, x], release := rel.isSome } ∧ k = .store ∧ ea = stemEa (opAt (stemSrcs s d [] [a, x]) 0) o n) ∨
    (amoRow i = some (x, a, b, c, z, f) ∧ p = { ins := i, srcs := amoSrcs i x a b, dst := some x } ∧ k = .store ∧
      n = (if z = 1 then 8 else 4) ∧ ea = (opAt (stemSrcs s d [] p.srcs) 0).toNat) →
    StemIssues p s d →
    (2 ^ 56 ≤ ea → exec i s = .next (stemTrap s s.cur cTranslation (BitVec.ofNat 64 ea))) ∧
    (ea < 2 ^ 56 → ea % n ≠ 0 → exec i s = .next (stemTrap s s.cur cAlign (BitVec.ofNat 64 ea))) ∧
    (ea < 2 ^ 56 → ea % n = 0 → ∀ code, translate s s.cur d k false ea = .fault code → exec i s = .next (stemTrap s s.cur code (BitVec.ofNat 64 ea))) ∧
    (ea < 2 ^ 56 → ea % n = 0 → translate s s.cur d k false ea = .miss → exec i s = .next (streamPark (askWalk s s.cur d k ea) s.cur false .walk (stemHoses p.srcs)))

/-! ## Words on the cloche, the Tendril and the engines -/

/-- CHK waits while an entry of the drill is unresolved; else it frees every entry and the overflow flag, and takes its target if one was struck. CLDROP frees
the entries of the line it names, or all of them for an address of 56 bits or more, and nothing where its address does not translate. CLSAVE writes the header
and a slot for every entry of the drill to its block and frees them; CLREST makes the entries of a well-formed block again, struck, and waits while the drill
still holds one or the core has no room (R291, R292, R395 to R397). Where the spec leaves a point open it follows the model's log: entry 26. -/
def Obligations.StemClocheWords : Prop :=
  (
    ∀ (s : State) (d : Drill),
      (∀ o : BitVec 24, StemIssues { ins := .chk o, ctl := true } s d →
        let dest := d.pc.setWidth 64 + o.signExtend 64 * 4
        let es := clEntries s s.cur
        (es.any (fun e => decide (e.2.state = 1)) = true →
          exec (.chk o) s = .next (streamPark s s.cur false (.chk (es.map (·.1)) (dest.setWidth 56) (d.pc + 4)) [])) ∧
        (es.any (fun e => decide (e.2.state = 1)) = false →
          (es.any (fun e => decide (e.2.state = 2)) = true → stemTargetOk s d dest.toNat = false → exec (.chk o) s = .next (stemTrap s s.cur cFetch dest)) ∧
          (es.any (fun e => decide (e.2.state = 2)) = false ∨ stemTargetOk s d dest.toNat = true → ∃ v e,
            exec (.chk o) s = .next (stemDone v s.cur { ins := .chk o, ctl := true } 0 (if es.any (fun e => decide (e.2.state = 2)) = true then some dest else none)) ∧
            Freed s v s.cur d e (fun _ => true) ∧ e.ovf = false))) ∧
      ∀ a : BitVec 6, StemIssues { ins := .cldrop a, srcs := [a] } s d →
        let x := (opAt (stemSrcs s d [] [a]) 0).toNat
        (2 ^ 56 ≤ x → ∃ v e, exec (.cldrop a) s = .next (stemDone v s.cur { ins := .cldrop a, srcs := [a] } 0 none) ∧ Freed s v s.cur d e (fun _ => true) ∧ e.ovf = false) ∧
        (x < 2 ^ 56 → ∀ r, translateNow s (coreOf s.cur) d.job d.super .load x = (r, s) →
          (∀ pa tr, r = .hit pa tr → ∃ v e, exec (.cldrop a) s = .next (stemDone v s.cur { ins := .cldrop a, srcs := [a] } 0 none) ∧
            Freed s v s.cur d e (fun c => decide (c.line = pa / 128)) ∧ e.ovf = d.ovf) ∧
          ((∀ pa tr, r ≠ .hit pa tr) → ∃ t, exec (.cldrop a) s = .next t ∧ StemCompletes { ins := .cldrop a, srcs := [a] } 0 none s t s.cur d))) ∧
  (
    ∀ (a : BitVec 6) (s u : State) (d : Drill) (core off : Nat),
      BenchReady s d (opAt (stemSrcs s d [] [a]) 0).toNat 528 16 core off u → drillAt u s.cur = some d → u.cur = s.cur →
      (StemIssues { ins := .clsave a, srcs := [a], priv := true } s d → (clEntries u s.cur).length ≤ 32 → (∀ e, e ∈ clEntries u s.cur → e.2.ctx < 16 ∧ e.2.line < 2 ^ 45 ∧ e.2.wts < 2 ^ 48) →
        ∃ v e, exec (.clsave a) s = .next (stemDone v s.cur { ins := .clsave a, srcs := [a], priv := true } 0 none) ∧ v.mem = u.mem ∧
          drillAt v s.cur = some e ∧ e.ovf = false ∧ clEntries v s.cur = [] ∧
          bitsOf (benchRead v core off 528) 0 6 = (clEntries u s.cur).length ∧ bitOf (benchRead v core off 528) 8 = d.ovf ∧
          ∀ i x, (clEntries u s.cur)[i]? = some x → bitsOf (benchRead v core off 528) (128 + 128 * i + 62) 2 = x.2.state.toNat ∧
            bitsOf (benchRead v core off 528) (128 + 128 * i + 7) 45 = x.2.line ∧ bitsOf (benchRead v core off 528) (192 + 128 * i) 48 = x.2.wts) ∧
      (StemIssues { ins := .clrest a, srcs := [a], priv := true } s d → benchPoison u core off 528 = none →
        let x := benchRead u core off 528
        let n := bitsOf x 0 6
        let good := bitsOf x 6 2 = 0 ∧ bitsOf x 9 119 = 0 ∧ n ≤ 32 ∧ ∀ i, i < n → slotOk (bitsOf x (128 + 128 * i) 64) (bitsOf x (192 + 128 * i) 64) = true
        (¬good → exec (.clrest a) s = .next (stemTrap s s.cur cClSave (opAt (stemSrcs s d [] [a]) 0))) ∧
        (good → clEntries u s.cur ≠ [] ∨ 128 < (coreAt u (coreOf s.cur)).cloche.length + n → exec (.clrest a) s = .next (streamPark u s.cur false .verdicts (stemHoses [a]))) ∧
        (good → clEntries u s.cur = [] → (coreAt u (coreOf s.cur)).cloche.length + n ≤ 128 → ∃ v e,
          exec (.clrest a) s = .next (stemDone v s.cur { ins := .clrest a, srcs := [a], priv := true } 0 none) ∧ v.mem = u.mem ∧
          drillAt v s.cur = some e ∧ e.ovf = bitOf x 8 ∧ (∀ c k, benchByte v c k = benchByte u c k) ∧
          ∀ i, i < n → tabFind (coreAt v (coreOf s.cur)).cloche (u.nextId + i) =
            some { state := 2, ctx := ctxOf s.cur, line := bitsOf x (128 + 128 * i + 7) 45, wts := bitsOf x (192 + 128 * i) 48 })))

/-- TDIST, TSTAKE, TUNSTAKE and TTOUCH present one access to the front, wait, and complete with the answer it brings; on memory that no tile holds they
complete at once; TDIST and TTOUCH never fault, where their address fails (R257 to R259; memory that no tile holds answers by log entry 22). -/
def Obligations.StemTendrilWords : Prop :=
  ∀ (i : Instr) (dst : Option (BitVec 6)) (a : BitVec 6) (o : BitVec 5) (la kind : Nat) (off : Word) (s : State) (d : Drill),
    tendrilRow i = some (dst, a, o, la, kind, off) →
    let p : StemPlan := { ins := i, srcs := [a], dst, la }
    let ea := stemEa (opAt (stemSrcs s d [] [a]) 0) o 8
    StemIssues p s d →
    (∀ pa tr, ea < 2 ^ 56 → translate s s.cur d .load false ea = .hit pa tr →
      (neverCached pa = true → ∃ t, exec i s = .next t ∧ StemCompletes p off none s t s.cur d) ∧
      (neverCached pa = false →
        (∀ g x, d.got.find? (fun g => decide (g.leaf = false ∧ g.tile = pa / 2048)) = some g → tabFind g.vals 0 = some (x, none) →
          ∃ t, exec i s = .next t ∧ StemCompletes p (if kind = 4 then 0 else BitVec.ofNat 64 x) none s t s.cur d) ∧
        (d.got.find? (fun g => decide (g.leaf = false ∧ g.tile = pa / 2048)) = none → (false, pa / 2048) ∉ d.asked →
          exec i s = .next (streamPark (present s { slot := s.cur, leaf := false, tile := pa / 2048, byMod := false, kind }) s.cur false .access (stemHoses [a]))))) ∧
    (2 ^ 56 ≤ ea ∨ (ea < 2 ^ 56 ∧ ∃ c, translate s s.cur d .load false ea = .fault c) →
      (kind = 1 ∨ kind = 4 → ∃ t, exec i s = .next t ∧ StemCompletes p (if kind = 1 then -1 else 0) none s t s.cur d) ∧
      (kind = 2 ∨ kind = 3 → 2 ^ 56 ≤ ea → exec i s = .next (stemTrap s s.cur cTranslation (BitVec.ofNat 64 ea))))

/-- BRESIZE answers 1 for a share out of range, 2 where a bench map covers what is to leave, and 0 once the core's share is the one asked for: bytes that
leave the bench are lost, bytes below them stay (R256, R260). Where the spec leaves a point open it follows the model's log: entry 20. -/
def Obligations.StemBenchShare : Prop :=
  ∀ (gd a : BitVec 6) (s : State) (d : Drill),
    let p : StemPlan := { ins := .bresize gd a, srcs := [a], dst := some gd, priv := true }
    let core := coreOf s.cur
    let want := (opAt (stemSrcs s d [] [a]) 0).toNat % 16
    let have' := (coreAt s core).lend
    let lo := 0x80000 - want * 0x10000
    let hi := 0x80000 - have' * 0x10000
    StemIssues p s d →
    (want = 0 ∨ 7 < want → ∃ t, exec (.bresize gd a) s = .next t ∧ StemCompletes p 1 none s t s.cur d) ∧
    (1 ≤ want → want ≤ 7 → want = have' → (clAt s (clusterOf s.cur)).wback = [] → ∃ t, exec (.bresize gd a) s = .next t ∧ StemCompletes p 0 none s t s.cur d) ∧
    (have' < want → want ≤ 7 →
      ((coreAt s core).bmap.any (fun b => decide (b.2.off < hi ∧ lo < b.2.off + b.2.len)) = true → ∃ t, exec (.bresize gd a) s = .next t ∧ StemCompletes p 2 none s t s.cur d) ∧
      ((coreAt s core).bmap.any (fun b => decide (b.2.off < hi ∧ lo < b.2.off + b.2.len)) = false → offsetsInUse s core lo hi = false → ∃ v,
        exec (.bresize gd a) s = .next (stemDone v s.cur p 0 none) ∧ (coreAt v core).lend = want ∧ v.mem = s.mem ∧ v.drills = s.drills ∧ v.objs = s.objs ∧
        (∀ k, benchByte v core k = if k < lo then benchByte s core k else 0) ∧ ∀ c, c ≠ core → coreAt v c = coreAt s c) ∧
      ((coreAt s core).bmap.any (fun b => decide (b.2.off < hi ∧ lo < b.2.off + b.2.len)) = false → offsetsInUse s core lo hi = true →
        exec (.bresize gd a) s = .next (streamPark s s.cur false .retire (stemHoses [a])))) ∧
    (1 ≤ want → want ≤ 7 → want < have' → ∃ v, v.mem = s.mem ∧ (coreAt v core).lend = want ∧
      ((clAt v (clusterOf s.cur)).wback = [] → exec (.bresize gd a) s = .next (stemDone v s.cur p 0 none)) ∧
      ((clAt v (clusterOf s.cur)).wback ≠ [] → exec (.bresize gd a) s = .next (streamPark v s.cur false .retire (stemHoses [a]))))

/-- SHOOT at cluster scope removes the job's translations of the range from its cluster's cores and strikes the job's unresolved entries there; at die scope
it does so on its die once no store that used them awaits its stamp; from device scope up it asks the other dies (R312). Where the spec leaves a point open it
follows the model's log: entry 25. -/
def Obligations.StemShootdowns : Prop :=
  ∀ (a b : BitVec 6) (c : BitVec 3) (s : State) (d : Drill),
    let p : StemPlan := { ins := .shoot a b c, srcs := [a, b], priv := true }
    let lo := (opAt (stemSrcs s d [] [a, b]) 0).toNat
    let len := (opAt (stemSrcs s d [] [a, b]) 1).toNat
    let inScope (core : Nat) : Prop := if c.toNat ≤ 2 then core / 48 = clusterOf s.cur else core / 192 = dieOf s.cur
    StemIssues p s d → s.shoots.find? (fun x => decide (x.2.slot = s.cur)) = none →
    (releaseWait s s.cur c.toNat = true → exec (.shoot a b c) s = .next (streamPark s s.cur false .stores (stemHoses [a, b]))) ∧
    (releaseWait s s.cur c.toNat = false → ∃ v,
      (∀ core t, inScope core → t ∈ (coreAt v core).tcache → t.job = d.job → transOverlaps t lo len = false) ∧
      (∀ core t, ¬inScope core → (t ∈ (coreAt v core).tcache ↔ t ∈ (coreAt s core).tcache)) ∧
      (3 ≤ c.toNat → ∀ t, t ∈ (dieAt v (dieOf s.cur)).tcache → t.job = d.job → transOverlaps t lo len = false) ∧
      (∀ core x, inScope core → x ∈ (coreAt v core).cloche → x.2.state = 1 → ∀ e, drillAt s (16 * core + x.2.ctx) = some e → e.job ≠ d.job) ∧
      v.mem = s.mem ∧
      (exec (.shoot a b c) s = .next (stemDone v s.cur p 0 none) ∨ ∃ id w, exec (.shoot a b c) s = .next (streamPark w s.cur false (.shoot id) (stemHoses [a, b]))) ∧
      ((∀ q, copiesUse v q d.job lo len = false) →
        c.toNat ≤ 2 ∨ (c.toNat = 3 ∧ ∀ q, q ∈ s.stores → ∀ e, drillAt s q.2.slot = some e → e.job ≠ d.job ∨ dieOf q.2.slot ≠ dieOf s.cur) →
        exec (.shoot a b c) s = .next (stemDone v s.cur p 0 none)))

/-- An address operand of a copy command names virtual memory, a bench address or an engine port. XLIN, XMC and XZERO: the first range that fails its bench or
page check is taken; else the command waits for its place or joins the queue of its engine, with the translations found and the DT of the drill. XSTR reads
its 32-byte descriptor once at issue; a reserved bit, no row or no byte takes the copy-operand fault, and so does a swizzle into virtual memory; else its rows
are checked and it joins its engine (R318, R322, R324, R325, R328, R329, Tables 18.1, 18.4). Where the spec leaves a point open it follows the model's log:
entries 54, 102. -/
def Obligations.StemCopies : Prop :=
  (
    ∀ x : Word, (field x 63 60 = 0 → spaceOf x = some (.virt x.toNat)) ∧
      (field x 63 60 = 8 → field x 59 25 = 0 → spaceOf x = some (.bench (field x 24 0))) ∧
      (field x 63 60 = 12 → field x 59 2 = 0 → spaceOf x = some (.port (28 + field x 1 0))) ∧
      ((field x 63 60 = 8 ∧ field x 59 25 ≠ 0) ∨ (field x 63 60 = 12 ∧ field x 59 2 ≠ 0) ∨ field x 63 60 ∉ [0, 8, 12] → spaceOf x = none)) ∧
  (
    ∀ (i : Instr) (srcs : List (BitVec 6)) (c : CopyCmd) (l : List (Space × Nat × Bool)) (s : State) (d : Drill), copyRow s d i = some (srcs, c, l) →
      StemIssues { ins := i, srcs } s d →
      (∀ code va, rangesOk s s.cur d l = .error (code, va) → exec i s = .next (stemTrap s s.cur code (BitVec.ofNat 64 va))) ∧
      ∀ u ts, rangesOk s s.cur d l = .ok (u, ts) → Issued i { ins := i, srcs } { c with trans := ts, job := d.job, sup := d.super, dt := d.dt } s u d) ∧
  (
    ∀ (g a b : BitVec 6) (s : State) (d : Drill) (x y : Space),
      let p : StemPlan := { ins := .xstr g a b, srcs := [a, b, g] }
      let v := stemSrcs s d [] [a, b, g]
      let da := (opAt v 2).toNat
      StemIssues p s d → spaceOf (opAt v 0) = some x → spaceOf (opAt v 1) = some y → isPort x = false → isPort y = false →
      (da % 32 ≠ 0 → exec (.xstr g a b) s = .next (stemTrap s s.cur cAlign (opAt v 2))) ∧
      (da % 32 = 0 → (∀ code va, rangeOf s (coreOf s.cur) d.job d.super .load da 32 = .error (code, va) → exec (.xstr g a b) s = .next (stemTrap s s.cur code (BitVec.ofNat 64 va))) ∧
        ∀ u ts pa tr w bad, rangeOf s (coreOf s.cur) d.job d.super .load da 32 = .ok (u, ts) → viaTrans ts d.job da = some (pa, tr) → tierOf pa ≠ some 3 → u.cur = s.cur →
          sourceRun u { slot := s.cur, cls := 0, op := 1, job := d.job, dt := d.dt, trans := ts } (.virt da) da 32 = .ok (w, bad) →
          let rows := bitsOf w 96 16
          let bytes := bitsOf w 64 24
          let good := bitsOf w 112 16 = 0 ∧ bitsOf w 88 8 = 0 ∧ bitsOf w 131 61 = 0 ∧ bitsOf w 192 64 = 0 ∧ 1 ≤ rows ∧ 1 ≤ bytes
          let at' (z : Space) (n : Nat) : Space := match z with | .virt q => .virt (q + n) | .bench q => .bench (q + n) | .port h => .port h
          let l := (below rows).map (fun k => (at' y (k * bitsOf w 32 32), bytes, false)) ++ (below rows).map (fun k => (at' x (k * bitsOf w 0 32), bytes, true))
          (bad 0 = true → exec (.xstr g a b) s = .next (stemTrap s s.cur cPoison (BitVec.ofNat 64 (pa / 32 * 32)))) ∧
          (bad 0 = false → ¬good → exec (.xstr g a b) s = .next (stemTrap s s.cur cCopy (opAt v 2))) ∧
          (bad 0 = false → good → bitOf w 130 = true → (∃ q, x = .virt q) → exec (.xstr g a b) s = .next (stemTrap s s.cur cCopy (opAt v 0))) ∧
          (bad 0 = false → good → bitOf w 130 = false ∨ (∃ q, x = .bench q) →
            (∀ code va, rangesOk u s.cur d l = .error (code, va) → exec (.xstr g a b) s = .next (stemTrap s s.cur code (BitVec.ofNat 64 va))) ∧
            ∀ u2 us, rangesOk u s.cur d l = .ok (u2, us) → Issued (.xstr g a b) p
              { slot := s.cur, cls := 0, op := 1, dst := opAt v 0, src := opAt v 1, desc := (below 4).map (fun k => BitVec.ofNat 64 (bitsOf w (64 * k) 64)), trans := us, job := d.job, sup := d.super, dt := d.dt } s u2 d)))

/-- XWAIT completes once its counter is at most its limit and waits before; XYIELD then takes its target, parks before, and faults on a target outside the
section (R336). -/
def Obligations.StemCounterWaits : Prop :=
  ∀ (a : BitVec 6) (c : BitVec 2) (n : BitVec 8) (s : State) (d : Drill),
    (StemIssues { ins := .xwait c n } s d →
      (ocGet d c.toNat ≤ n.toNat → ∃ t, exec (.xwait c n) s = .next t ∧ StemCompletes { ins := .xwait c n } 0 none s t s.cur d) ∧
      (n.toNat < ocGet d c.toNat → exec (.xwait c n) s = .next (streamPark s s.cur false (.xwait c.toNat n.toNat) []))) ∧
    (StemIssues { ins := .xyield a c n, srcs := [a], ctl := true } s d →
      let dest := opAt (stemSrcs s d [] [a]) 0
      (stemTargetOk s d dest.toNat = false → exec (.xyield a c n) s = .next (stemTrap s s.cur cFetch dest)) ∧
      (stemTargetOk s d dest.toNat = true → ocGet d c.toNat ≤ n.toNat → ∃ t, exec (.xyield a c n) s = .next t ∧
        StemCompletes { ins := .xyield a c n, srcs := [a], ctl := true } 0 (some dest) s t s.cur d) ∧
      (stemTargetOk s d dest.toNat = true → n.toNat < ocGet d c.toNat →
        exec (.xyield a c n) s = .next (streamPark (notify s (.yielded s.cur)) s.cur false (.xyield c.toNat n.toNat (dest.setWidth 56)) (stemHoses [a]))))

/-! ## Work objects and the seed tray -/

/-- LAUNCH waits as a release of device scope, faults on a record that is misaligned, unreadable or invalid, waits for a launch entry, and else makes the
launch of its record and writes its handle; with every listed launch done the launch is released at once (R193 to R198, R210). Where the spec leaves a point
open it follows the model's log: entries 15, 38, 39. -/
def Obligations.StemLaunches : Prop :=
  ∀ (gd a : BitVec 6) (s : State) (d : Drill),
    let p : StemPlan := { ins := .launch gd a, srcs := [a], dst := some gd, release := true }
    let va := (opAt (stemSrcs s d [] [a]) 0).toNat
    let r := readRecord s (coreOf s.cur) d.job d.super va (ancestor s 1 d.bed) ((ancestor s 3 d.bed).getD entryLimit)
    StemIssues p s d →
    (va % 64 ≠ 0 → exec (.launch gd a) s = .next (stemTrap s s.cur cAlign (opAt (stemSrcs s d [] [a]) 0))) ∧
    (va % 64 = 0 → releaseWait s s.cur 4 = true → exec (.launch gd a) s = .next (streamPark s s.cur false .stores (stemHoses [a]))) ∧
    (va % 64 = 0 → releaseWait s s.cur 4 = false →
      (∀ c x, r = .fault c x → exec (.launch gd a) s = .next (stemTrap s s.cur c (BitVec.ofNat 64 x))) ∧
      (r = .invalid → exec (.launch gd a) s = .next (stemTrap s s.cur cLaunch (opAt (stemSrcs s d [] [a]) 0))) ∧
      ∀ u words ph deps, r = .ok u words ph deps →
        (4096 ≤ openLaunches u (dieOf s.cur) → exec (.launch gd a) s = .next (streamPark u s.cur false .entry (stemHoses [a]))) ∧
        (openLaunches u (dieOf s.cur) < 4096 → ∃ v i, exec (.launch gd a) s = .next (stemDone v s.cur p (BitVec.ofNat 64 (handleOf v i)) none) ∧
          let new : State × Nat := match (if bitOf (words.getD 6 0) 56 = true then none else ancestor u 2 d.bed) with
            | some g => (u, g)
            | none => newObj u { lvl := 2, job := d.job, die := dieOf s.cur, up := ph.getD entryLimit }
          (∀ h, h ∈ deps → depState new.1 d.job h ≠ .cancelled) → ∃ o, objAt v i = some o ∧ o.lvl = 1 ∧ o.job = d.job ∧ o.die = dieOf s.cur ∧ o.up = new.2 ∧
            o.addr = va ∧ o.words = words.map (BitVec.ofNat 64) ∧ o.deps = deps.map (BitVec.ofNat 64) ∧ o.phase = ph.getD entryLimit ∧
            o.complete = false ∧ (i ≠ new.2 → i ≠ (jobAt u d.job).obj → o.count = bitsOf (words.getD 4 0) 0 32) ∧
            (o.released = true ↔ ∀ h, h ∈ deps → depState new.1 d.job h = .done)))

/-- CANCEL does nothing to an object that is complete or whose handle is stale, faults on a handle that does not fit, and takes the privilege trap for a job
at user level. CNTRD reads the counter of an object that is not complete, and 0 with acquire of a complete one or a stale handle, past its stamp or HS_d + 1;
PHWAIT waits for its phase, faults after one that completed in error, and else acquires alike (R192, R211, R212, R214, R283). Where the spec leaves a point
open it follows the model's log: entries 39, 50, 52. -/
def Obligations.StemCancelsAndCounters : Prop :=
  (
    ∀ (a : BitVec 6) (l : BitVec 3) (s : State) (d : Drill),
      let p : StemPlan := { ins := .cancel a l, srcs := [a], priv := decide (l = 4) }
      let h := (opAt (stemSrcs s d [] [a]) 0).toNat
      (StemIssues p s d →
        (resolveFor s d l.toNat h = .bad → exec (.cancel a l) s = .next (stemTrap s s.cur cHandle (opAt (stemSrcs s d [] [a]) 0))) ∧
        (resolveFor s d l.toNat h = .stale ∨ (∃ k o, resolveFor s d l.toNat h = .obj k ∧ objAt s k = some o ∧ o.complete = true) → ∃ t, exec (.cancel a l) s = .next t ∧
          StemCompletes p 0 none s t s.cur d) ∧
        (∀ k, resolveFor s d l.toNat h = .obj k → exec (.cancel a l) s = .next (stemDone (cancelObj s k) s.cur p 0 none))) ∧
      (drillAt s s.cur = some d → (Instr.cancel a l).wf = true → l = 4 → d.super = false → exec (.cancel a l) s = .next (stemTrap s s.cur cPrivilege (stemBits (.cancel a l))))) ∧
  (
    ∀ (gd a : BitVec 6) (l : BitVec 3) (s : State) (d : Drill),
      let h := (opAt (stemSrcs s d [] [a]) 0).toNat
      let acquired (stamp : Nat) : State := putDrill s s.cur { d with dt := max (d.dt + 1) stamp }
      let hs := (dieAt s (dieOf s.cur)).hs + 1
      (StemIssues { ins := .cntrd gd a l, srcs := [a], dst := some gd } s d →
        (resolveFor s d l.toNat h = .bad → exec (.cntrd gd a l) s = .next (stemTrap s s.cur cHandle (opAt (stemSrcs s d [] [a]) 0))) ∧
        (resolveFor s d l.toNat h = .stale → ∃ t, exec (.cntrd gd a l) s = .next t ∧
          StemCompletes { ins := .cntrd gd a l, srcs := [a], dst := some gd } 0 none (acquired hs) t s.cur { d with dt := max (d.dt + 1) hs }) ∧
        ∀ k o, resolveFor s d l.toNat h = .obj k → objAt s k = some o →
          (o.complete = true → ∃ t, exec (.cntrd gd a l) s = .next t ∧
            StemCompletes { ins := .cntrd gd a l, srcs := [a], dst := some gd } 0 none (acquired o.stamp) t s.cur { d with dt := max (d.dt + 1) o.stamp }) ∧
          (o.complete = false → o.lvl ≠ 3 → ∃ t, exec (.cntrd gd a l) s = .next t ∧
            StemCompletes { ins := .cntrd gd a l, srcs := [a], dst := some gd } (BitVec.ofNat 64 o.count) none s t s.cur d)) ∧
      (StemIssues { ins := .phwait a, srcs := [a] } s d → (h = 0 ∨ h / 2 ^ 61 = 3) →
        (resolveFor s d 3 h = .bad → exec (.phwait a) s = .next (stemTrap s s.cur cHandle (opAt (stemSrcs s d [] [a]) 0))) ∧
        (resolveFor s d 3 h = .stale → ∃ t, exec (.phwait a) s = .next t ∧ StemCompletes { ins := .phwait a, srcs := [a] } 0 none (acquired hs) t s.cur { d with dt := max (d.dt + 1) hs }) ∧
        ∀ k o, resolveFor s d 3 h = .obj k → objAt s k = some o →
          (o.complete = false → exec (.phwait a) s = .next (streamPark s s.cur false (.phwait k) (stemHoses [a]))) ∧
          (o.complete = true → o.err = true → exec (.phwait a) s = .next (stemTrap s s.cur cPhaseError (opAt (stemSrcs s d [] [a]) 0))) ∧
          (o.complete = true → o.err = false → ∃ t, exec (.phwait a) s = .next t ∧
            StemCompletes { ins := .phwait a, srcs := [a] } 0 none (acquired o.stamp) t s.cur { d with dt := max (d.dt + 1) o.stamp })) ∧
      (StemIssues { ins := .phwait a, srcs := [a] } s d → h ≠ 0 → h / 2 ^ 61 ≠ 3 → exec (.phwait a) s = .next (stemTrap s s.cur cHandle (opAt (stemSrcs s d [] [a]) 0))))

/-- PHOPEN faults on a header that cannot be read or is invalid, waits for a phase line, and else makes the phase of its header, which takes the line, and
writes its handle (R201, R213). Where the spec leaves a point open it follows the model's log: entry 38. -/
def Obligations.StemPhases : Prop :=
  ∀ (gd a : BitVec 6) (s : State) (d : Drill),
    let p : StemPlan := { ins := .phopen gd a, srcs := [a], dst := some gd }
    let r := readHeader s (coreOf s.cur) d.job d.super (opAt (stemSrcs s d [] [a]) 0).toNat
    StemIssues p s d →
    (r = none → exec (.phopen gd a) s = .next (stemTrap s s.cur cPhaseHeader (opAt (stemSrcs s d [] [a]) 0))) ∧
    ∀ u dests, r = some (u, dests) →
      ((∀ k, k < 16 → (tabFind u.lines k).isSome = true) → exec (.phopen gd a) s = .next (streamPark u s.cur false .entry (stemHoses [a]))) ∧
      ((∃ k, k < 16 ∧ tabFind u.lines k = none) → ∃ v i k o, exec (.phopen gd a) s = .next (stemDone v s.cur p (BitVec.ofNat 64 (handleOf v i)) none) ∧
        k < 16 ∧ tabFind u.lines k = none ∧ tabFind v.lines k = some i ∧ objAt v i = some o ∧ o.lvl = 3 ∧ o.job = d.job ∧ o.die = dieOf s.cur ∧ o.dests = dests ∧
        o.line = k ∧ o.root = false ∧ o.complete = false ∧ v.mem = u.mem)

/-- TRAYPUT is a release of die scope that waits while the job's quota or the tray is full and else adds its entry last; TRAYTAKE removes an entry of rank
below 32, or of rank 0 when fewer are there, with the acquire of its put, and answers 0 on an empty tray (R206, R207, R215). Where the spec leaves a point
open it follows the model's log: entries 11, 52. -/
def Obligations.StemTrayWords : Prop :=
  ∀ (gd a b : BitVec 6) (s : State) (d : Drill),
    let die := dieOf s.cur
    let tray := (dieAt s die).tray
    let mine := ranked tray d.job
    let v := stemSrcs s d [] [a, b]
    let e : TrayEnt := { job := d.job, key := (opAt v 0).toNat % 2 ^ 15, val := (opAt v 1).toNat % 2 ^ 48, dt := max d.dt d.pstamp }
    (StemIssues { ins := .trayput a b, srcs := [a, b], release := true } s d →
      (releaseWait s s.cur 3 = true → exec (.trayput a b) s = .next (streamPark s s.cur false .stores (stemHoses [a, b]))) ∧
      (releaseWait s s.cur 3 = false → (jobAt s d.job).quota ≤ mine.length ∨ 65536 ≤ tray.length →
        exec (.trayput a b) s = .next (streamPark s s.cur false .trayput (stemHoses [a, b]))) ∧
      (releaseWait s s.cur 3 = false → mine.length < (jobAt s d.job).quota → tray.length < 65536 → ∃ u, (dieAt u die).tray = tray ++ [e] ∧
        (∃ x, drillAt u s.cur = some x ∧ x.dt = max d.dt d.pstamp) ∧ u.mem = s.mem ∧
        exec (.trayput a b) s = .next (stemDone u s.cur { ins := .trayput a b, srcs := [a, b], release := true } 0 none))) ∧
    (StemIssues { ins := .traytake gd, dst := some gd } s d → (jobAt s d.job).replay = .free →
      (mine = [] → ∃ t, exec (.traytake gd) s = .next t ∧ StemCompletes { ins := .traytake gd, dst := some gd } 0 none s t s.cur d) ∧
      (mine ≠ [] → ∃ rank n x u, rank < 32 ∧ (mine.length < 32 → rank = 0) ∧ mine[rank]? = some (n, x) ∧ (dieAt u die).tray = tray.eraseIdx n ∧
        drillAt u s.cur = some { d with dt := max (d.dt + 1) x.dt } ∧ u.mem = s.mem ∧
        exec (.traytake gd) s = .next (stemDone u s.cur { ins := .traytake gd, dst := some gd } (BitVec.ofNat 64 (2 ^ 63 + x.key * 2 ^ 48 + x.val)) none)))

/-! ## Traps -/

/-- A precise fault at user level traps once no word of the drill is half performed: cause, TVAL, mask, addresses, TEPC, TSTAT, the level, the PC, DT; before
that it stays due. At supervisor level it is a double fault: the drill halts with its state kept. TRAP at user level is the software trap, with its immediate
as TVAL and the next word as TEPC; at supervisor level it parks the drill and posts its code for firmware (R132, R379, R381, R386, R387). Where the spec
leaves a point open it follows the model's log: entries 57, 103. -/
def Obligations.TrapEntry : Prop :=
  (
    ∀ (s : State) (slot code : Nat) (v : Word) (m : LaneMask) (tea : Tab Word) (d : Drill), drillAt s slot = some d → code < 2 ^ 28 →
      (d.super = false → trapClear s slot d = true → Trapped s (stemTrap s slot code v) slot d code v 0 [] d.pc ∧ Trapped s (leafTrap s slot code v m tea) slot d (code + 2 ^ 30) v m tea d.pc) ∧
      (d.super = false → trapClear s slot d = false → (∃ e, drillAt (stemTrap s slot code v) slot = some e ∧ e.super = false ∧
        e.due = some { cause := BitVec.ofNat 32 code, tval := v, epc := d.pc } ∧ e.tcause = d.tcause ∧ e.pc = d.pc ∧ e.g = d.g ∧ e.v = d.v ∧ e.k = d.k) ∧
        ∀ a, memByte (stemTrap s slot code v) a = memByte s a) ∧
      (d.super = true → Halted s (stemTrap s slot code v) slot d (.doubleFault slot (BitVec.ofNat 32 code) v) ∧
        Halted s (leafTrap s slot code v m tea) slot d (.doubleFault slot (BitVec.ofNat 32 (code + 2 ^ 30)) v))) ∧
  (
    ∀ (n : BitVec 18) (s : State) (d : Drill), StemIssues { ins := .trap n } s d →
      (d.super = false → ∃ u e, StemCompletes { ins := .trap n } 0 none s u s.cur d ∧ drillAt u s.cur = some e ∧ e.pc = d.pc + 4 ∧ u.cur = s.cur ∧
        (trapClear u s.cur e = true → ∃ t, exec (.trap n) s = .next t ∧ Trapped u t s.cur e 0x30 (n.setWidth 64) 0 [] (d.pc + 4)) ∧
        (trapClear u s.cur e = false → ∃ t x, exec (.trap n) s = .next t ∧ drillAt t s.cur = some x ∧ x.due = some { cause := 0x30, tval := n.setWidth 64, epc := d.pc + 4 } ∧
          x.super = false ∧ x.pc = d.pc + 4)) ∧
      (d.super = true → ∃ t, exec (.trap n) s = .next t ∧ Notice.firmwareCall s.cur (n.setWidth 64) ∈ t.notices ∧
        (∃ e, drillAt t s.cur = some e ∧ e = { d with stemWait := .halted true, claims := e.claims }) ∧ t.mem = s.mem ∧ t.objs = s.objs))

/-- ERET is privileged; it waits for the supervisor's leaf context, is a double fault when the held context fails its checks, asks for the unbind under UNB,
and else returns: level, PC, held context less the lanes of TKILL, and the wait of the interrupted word (R133, R383, R386, R393). Where the spec leaves a
point open it follows the model's log: entries 18, 104. -/
def Obligations.StemReturns : Prop :=
  ∀ (s : State) (d : Drill), drillAt s s.cur = some d →
    (d.super = false → exec .eret s = .next (stemTrap s s.cur cPrivilege (stemBits .eret))) ∧
    (d.super = true → bitOf d.tstat.toNat 15 = true → exec .eret s = .next (post (stemPark s s.cur .unbind) (.unbind s.cur))) ∧
    (d.super = true → bitOf d.tstat.toNat 15 = false →
      (lqstat d.sup ≠ 0 → exec .eret s = .next (stemPark s s.cur .lwait)) ∧
      (lqstat d.sup = 0 → heldOk (d.live &&& ~~~d.tkill) (ctxDrop d.user d.tkill) = false → ∃ t, exec .eret s = .next t ∧
        Halted s t s.cur d (.doubleFault s.cur (BitVec.ofNat 32 d.tcause.toNat) d.tval)) ∧
      (lqstat d.sup = 0 → heldOk (d.live &&& ~~~d.tkill) (ctxDrop d.user d.tkill) = true → ∃ t e, exec .eret s = .next t ∧ drillAt t s.cur = some e ∧
        e.super = decide (d.tstat.toNat % 4 = 1) ∧ e.pc = d.tepc.setWidth 56 ∧ e.stemWait = .none ∧ e.leafWait = .none ∧ e.tkill = 0 ∧
        (d.tkill = 0 → e.live = d.live) ∧ (d.tkill ≠ 0 → e.live = d.live &&& ~~~d.tkill) ∧ e.wake = bitOf d.tstat.toNat 8 ∧ e.wkind.toNat = bitsOf d.tstat.toNat 9 3 ∧
        (d.wins = [] → e.g = d.g ∧ e.v = d.v ∧ e.k = d.k ∧ e.fmode = d.fmode ∧ e.dt = d.dt ∧ (d.tkill = 0 → routineRuns d.user = false → e.user = d.user)) ∧
        (∀ k, k ≠ s.cur → drillAt t k = drillAt s k) ∧ t.mem = s.mem ∧ t.objs = s.objs ∧ ∀ c a, benchByte t c a = benchByte s c a))

/-- Every word of the stem but ERET goes through one order of checks, whatever its meaning: legality, level, hoses granted, the releases' cloche check, hoses
ready; a fault is taken, or the stream waits, before the word has any effect. Every leaf word goes through one order of checks: legality, the register budget,
hoses granted, the cloche check of a release, hoses ready (R30, R52, R53, R60, R74, R196, R216, R218, R294). Where the spec leaves a point open it follows the
model's log: entry 116. -/
def Obligations.WordChecks : Prop :=
  (
    (∀ i : Instr, (encodeStem i).isSome = true → i = .eret ∨ (∃ n, i = .trap n) ∨ ∃ (p : StemPlan) (body : Drill → List Word → State → Body), p.ins = i ∧ ∀ s, exec i s = stemWord p s body) ∧
    ∀ (p : StemPlan) (s : State) (d : Drill) (body : Drill → List Word → State → Body), drillAt s s.cur = some d →
      (p.ins.wf = false → stemWord p s body = .next (stemTrap s s.cur cIllegal (stemBits p.ins))) ∧
      (p.ins.wf = true → p.priv = true → d.super = false → stemWord p s body = .next (stemTrap s s.cur cPrivilege (stemBits p.ins))) ∧
      (p.ins.wf = true → p.priv = false ∨ d.super = true →
        (∀ h, hoseDenied d false (stemHoses p.srcs) (stemHoses p.dst.toList) = some h → stemWord p s body = .next (stemTrap s s.cur cHose (BitVec.ofNat 64 h))) ∧
        (hoseDenied d false (stemHoses p.srcs) (stemHoses p.dst.toList) = none →
          (p.release = true → (priorEntries s s.cur d false).any (fun e => decide (e.2.state = 1)) = true → stemWord p s body = .next (stemPark s s.cur .verdicts)) ∧
          (∀ e, p.release = true → (priorEntries s s.cur d false).any (fun e => decide (e.2.state = 1)) = false → (priorEntries s s.cur d false).find? (fun e => decide (e.2.state = 2)) = some e →
            stemWord p s body = .next (stemTrap s s.cur cCloche (BitVec.ofNat 64 (e.2.line * 128)))) ∧
          (p.release = false → hosesReady s s.cur false d (stemHoses p.srcs) (stemHoses p.dst.toList) = false → stemWord p s body = .next (stemPark s s.cur .hose))))) ∧
  (
    (∀ (i : Instr) (op : Nat) (w : LeafWord), i.leaf? = some (op, w) → ∃ (p : LeafPlan) (body : Drill → LaneMask → List Opd → State → LeafBody), p.op = op ∧ p.w = w ∧ ∀ s, exec i s = leafWord p s body) ∧
    ∀ (p : LeafPlan) (s : State) (d : Drill) (body : Drill → LaneMask → List Opd → State → LeafBody), drillAt s s.cur = some d →
      (wfLeaf p.op p.w = false ∨ p.late s = true → leafWord p s body = .next (leafTrap s s.cur cIllegal (leafHigh p) 0 [])) ∧
      (wfLeaf p.op p.w = true → p.late s = false → ∃ h, leafShape p.op p.w = some h ∧
        (overBudget p.w h d.budget = true → leafWord p s body = .next (leafTrap s s.cur cBudget 0 0 [])) ∧
        (overBudget p.w h d.budget = false →
          (∀ k, hoseDenied d true (srcHoses (leafSrcs p.op p.w h)) (leafPushes p.op p.w h) = some k → leafWord p s body = .next (leafTrap s s.cur cHose (BitVec.ofNat 64 k) 0 [])) ∧
          (hoseDenied d true (srcHoses (leafSrcs p.op p.w h)) (leafPushes p.op p.w h) = none →
            (p.release = true → (priorEntries s s.cur d true).any (fun e => decide (e.2.state = 1)) = true → leafWord p s body = .next (streamPark s s.cur true .verdicts [])) ∧
            (∀ e, p.release = true → (priorEntries s s.cur d true).any (fun e => decide (e.2.state = 1)) = false → (priorEntries s s.cur d true).find? (fun e => decide (e.2.state = 2)) = some e →
              leafWord p s body = .next (leafTrap s s.cur cCloche (BitVec.ofNat 64 (e.2.line * 128)) 0 [])) ∧
            (p.release = false → hosesReady s s.cur true d (srcHoses (leafSrcs p.op p.w h)) (leafPushes p.op p.w h) = false → leafWord p s body = .next (streamPark s s.cur true .hose []))))))

/-! ## Leaf arithmetic -/

/-- VADD, VSUB, VMUL, VMAD, VABS and VNEG: each active lane receives the exact result wrapped to its type, or the nearest value of the type where FMODE.SAT is
1, with SATF for a lane that saturates (R142, R137 to R140, R87, R88). -/
def Obligations.LeafExactIntegers : Prop :=
  ∀ (i : Instr) (op : Nat) (w : LeafWord) (f : Int → Int → Int → Int) (h : Shape) (s : State) (d : Drill), exactRow i = some (op, w, f) → LeafIssues { op, w } h s d →
    let n := typeBits w.ty.toNat
    let sg := isSignedTy w.ty.toNat
    let v := leafOps { op, w } h s d
    let m := effMask d w.k.toNat
    let x (l : Nat) : Int := f (exactOf sg (element n v 0 l)) (exactOf sg (element n v 1 l)) (exactOf sg (element n v 2 l))
    let sat := bitOf (leafCtx d).fmode.toNat 5
    let y (l : Nat) : Int := if sat = true then max (leastOf sg n) (min (greatestOf sg n) (x l)) else x l
    LeafGives i { op, w } h (elementsTo n sg w.vd.toNat m (fun l => BitVec.ofInt n (y l)))
      (if sat = true ∧ (below 32).any (fun l => inMask m l && decide (y l ≠ x l)) = true then 32 else 0) s d

/-- The other integer words of the leaf: each active lane receives the bits that Table 7.2 states, and no flag is set (R142). -/
def Obligations.LeafBitIntegers : Prop :=
  ∀ (i : Instr) (op : Nat) (w : LeafWord) (f : ∀ n, Bool → BitVec n → BitVec n → BitVec n) (h : Shape) (s : State) (d : Drill), bitsRow i = some (op, w, f) → LeafIssues { op, w } h s d →
    let n := typeBits w.ty.toNat
    let sg := isSignedTy w.ty.toNat
    let v := leafOps { op, w } h s d
    LeafGives i { op, w } h (elementsTo n sg w.vd.toNat (effMask d w.k.toNat) (fun l => f n sg (element n v 0 l) (element n v 1 l))) 0 s d

/-- VSEL, VMOV, VBCS and the shuffles move elements unchanged: by the selector register, from a scalar, or from another lane, which reads 0 where it is not
live (R143, R156, R170, R171). -/
def Obligations.LeafElementMoves : Prop :=
  ∀ (i : Instr) (op : Nat) (w : LeafWord) (f : Drill → List Opd → ∀ n, Nat → BitVec n) (h : Shape) (s : State) (d : Drill), moveRow i = some (op, w, f) → LeafIssues { op, w } h s d →
    let n := typeBits w.ty.toNat
    let v := leafOps { op, w } h s d
    LeafGives i { op, w } h (elementsTo n (isSignedTy w.ty.toNat) w.vd.toNat (effMask d w.k.toNat) (fun l => f d v n l)) 0 s d

/-- The words on mask registers and leaf scalars, and VLANE, VEXS and VVOTE: mask results cover all 32 bits, k0 reads EM, LMASK sets EM to ka within the lanes
of the split (R24, R150, R151, R155, R156, R172). -/
def Obligations.LeafMasksAndScalars : Prop :=
  (∀ (i : Instr) (op : Nat) (w : LeafWord) (f : LaneMask → LaneMask → LaneMask) (h : Shape) (s : State) (d : Drill), maskRow i = some (op, w, f) → LeafIssues { op, w } h s d →
    LeafGives i { op, w } h [.msk w.vd.toNat (f (kGet d w.va.toNat) (kGet d w.vb.toNat))] 0 s d) ∧
  (∀ (i : Instr) (op : Nat) (w : LeafWord) (f : Word → Word → Word) (h : Shape) (s : State) (d : Drill), scalarRow i = some (op, w, f) → LeafIssues { op, w } h s d →
    let v := leafOps { op, w } h s d
    LeafGives i { op, w } h [.sca w.vd.toNat (f (scaOf (opd v 0)) (scaOf (opd v 1)))] 0 s d) ∧
  ∀ (w : LeafWord) (h : Shape) (s : State) (d : Drill),
    let n := typeBits w.ty.toNat
    let sg := isSignedTy w.ty.toNat
    let m := effMask d w.k.toNat
    let em := (runSplit (leafCtx d)).em
    (LeafIssues { op := 0x145, w } h s d → LeafGives (.kpopc w) { op := 0x145, w } h [.sca w.vd.toNat (tally 32 (fun k => (kGet d w.va.toNat).getLsbD k))] 0 s d) ∧
    (LeafIssues { op := 0x147, w } h s d → LeafGives (.lgetm w) { op := 0x147, w } h [.msk w.vd.toNat em] 0 s d) ∧
    (LeafIssues { op := 0x102, w } h s d → LeafGives (.vlane w) { op := 0x102, w } h [.vec w.vd.toNat m (vecOfLanes (fun l => l))] 0 s d) ∧
    (LeafIssues { op := 0x104, w } h s d →
      let k := w.imm.toNat % 32
      LeafGives (.vexs w) { op := 0x104, w } h [.sca w.vd.toNat (if inMask d.live k = true then BitVec.ofInt 64 (exactOf sg (element n (leafOps { op := 0x104, w } h s d) 0 k)) else 0)] 0 s d) ∧
    (LeafIssues { op := 0x184, w } h s d →
      let x (l : Nat) : BitVec n := element n (leafOps { op := 0x184, w } h s d) 0 l
      let mode := w.md.toNat / 4
      LeafGives (.vvote w) { op := 0x184, w } h [.sca w.vd.toNat (truth (if mode = 0 then (below 32).all (fun l => !inMask m l || decide (x l ≠ 0))
        else if mode = 1 then (below 32).any (fun l => inMask m l && decide (x l ≠ 0))
        else (below 32).all (fun l => (below 32).all (fun k => !inMask m l || !inMask m k || decide (x l = x k)))))] 0 s d) ∧
    (LeafIssues { op := 0x185, w } h s d →
      LeafGives (.vballot w) { op := 0x185, w } h [.msk w.vd.toNat (maskOf (fun l => inMask m l && decide (element n (leafOps { op := 0x185, w } h s d) 0 l ≠ 0)))] 0 s d) ∧
    (LeafIssues { op := 0x146, w } h s d → LeafQuiet d → ∃ t e, exec (.lmask w) s = .next t ∧ drillAt t s.cur = some e ∧
      (runSplit (leafCtx e)).em = kGet d w.va.toNat &&& (runSplit (leafCtx d)).sm ∧ e.v = d.v ∧ e.k = d.k ∧ e.g = d.g ∧ e.wins = d.wins ∧ t.mem = s.mem)

/-- The lane-wise floating-point words give each active lane the result of Tables 7.3 and 7.4, with the flags of its lanes; VFCLASS sets one bit of the class;
and RoundTo leaves a value that the format holds as it is, with no flag (R95, R144 to R148). -/
def Obligations.LeafFloats : Prop :=
  (∀ (i : Instr) (op : Nat) (w : LeafWord) (f : FloatEnv → Nat → Nat → Nat → Nat × Nat) (h : Shape) (s : State) (d : Drill), floatRow i = some (op, w, f) → LeafIssues { op, w } h s d →
    let n := typeBits w.ty.toNat
    let v := leafOps { op, w } h s d
    LanesGive i { op, w } h (fun l => f (floatEnv w (leafCtx d).fmode.toNat) (elem n (opd v 0) l) (elem n (opd v 1) l) (elem n (opd v 2) l)) s d) ∧
  (∀ (w : LeafWord) (h : Shape) (s : State) (d : Drill), LeafIssues { op := 0x050, w } h s d →
    let n := typeBits w.ty.toNat
    let m := effMask d w.k.toNat
    LeafGives (.vfclass w) { op := 0x050, w } h (.vec w.vd.toNat m (vecOfLanes (fun l => if inMask m l = true then 2 ^ classOf (fmtOf w.ty.toNat) (elem n (opd (leafOps { op := 0x050, w } h s d) 0) l) else 0)) ::
      if n = 64 then [.vec (w.vd.toNat + 1) m 0] else []) 0 s d) ∧
  ∀ (ty x mode : Nat) (canon : Bool), ty ∈ tyF → x < 2 ^ (fmtOf ty).bits → isNaN (unpack (fmtOf ty) x) = false → roundVal (fmtOf ty) mode false canon (unpack (fmtOf ty) x) = (x, 0)

/-- VCMP writes its condition for the active lanes and 0 for the others; VMOVI, VCVT and the block words convert, scan and reduce by the functions of chapter
5, with the rounding and the settings of FMODE (R97 to R102, R149, R152 to R154, R156, R173). Where the spec leaves a point open it follows the model's log:
entries 37, 60. -/
def Obligations.LeafConversions : Prop :=
  ∀ (w : LeafWord) (h : Shape) (s : State) (d : Drill),
    let ty := w.ty.toNat
    let n := typeBits ty
    let m := effMask d w.k.toNat
    let fm := (leafCtx d).fmode.toNat
    let mode := modeOf w.rnd.toNat fm
    let long := blockLen (w.imm.toNat % 4)
    let src := w.imm.toNat % 32
    (LeafIssues { op := 0x080, w } h s d →
      let v := leafOps { op := 0x080, w } h s d
      let a (l : Nat) : BitVec n := element n v 0 l
      let b (l : Nat) : BitVec n := element n v 1 l
      let r (l : Nat) : Bool × Nat := if isFloatTy ty = true then floatCond (w.md.toNat / 4) (dazVal (fmtOf ty) (bitOf fm 3) (a l).toNat) (dazVal (fmtOf ty) (bitOf fm 3) (b l).toNat)
        else (intCond (w.md.toNat / 4) (exactOf (isSignedTy ty) (a l)) (exactOf (isSignedTy ty) (b l)), 0)
      LeafGives (.vcmp w) { op := 0x080, w } h [.msk w.vd.toNat (maskOf (fun l => inMask m l && (r l).1))] (orAll (((below 32).filter (inMask m)).map (fun l => (r l).2))) s d) ∧
    (LeafIssues { op := 0x088, w } h s d →
      LanesGive (.vcvt w) { op := 0x088, w } h (fun l => convert ty src mode fm (elem (if src = 13 then 32 else typeBits src) (opd (leafOps { op := 0x088, w } h s d) 0) l)) s d) ∧
    (LeafIssues { op := 0x101, w } h s d → LanesGive (.vmovi w) { op := 0x101, w } h (fun _ => (immElem ty w.imm.toNat, 0)) s d) ∧
    (LeafIssues { op := 0x089, w } h s d →
      let v := leafOps { op := 0x089, w } h s d
      let r (l : Nat) : List Int × Nat × Nat := requant mode (elem 8 (opd v 1) l) (elem 8 (opd v 2) l) ((below long).map (fun i => q8At d w.va.toNat i l))
      LeafGives (.vreqb w) { op := 0x089, w } h ((below (long / 4)).map (fun j => .vec (w.vd.toNat + j) m (vecOfLanes (fun l => if inMask m l = true then packQ8 (r l).1 j else 0))) ++
        [.vec w.vc.toNat m (vecOfLanes (fun l => if inMask m l = true then (r l).2.1 else 0))]) (orAll (((below 32).filter (inMask m)).map (fun l => (r l).2.2))) s d) ∧
    (LeafIssues { op := 0x08A, w } h s d →
      let xs (l : Nat) : List FVal := (below long).map (fun i => dazVal fmtF32 (bitOf fm 3) (reg32 d (w.va.toNat + i) l))
      let q (l : Nat) : List (Int × Nat) := (xs l).map (quantOne mode (e8Of (xs l)).1)
      LeafGives (.vqblk w) { op := 0x08A, w } h ((below (long / 4)).map (fun j => .vec (w.vd.toNat + j) m (vecOfLanes (fun l => if inMask m l = true then packQ8 ((q l).map (·.1)) j else 0))) ++
        [.vec w.vc.toNat m (vecOfLanes (fun l => if inMask m l = true then (e8Of (xs l)).1 else 0))]) (orAll (((below 32).filter (inMask m)).map (fun l => (e8Of (xs l)).2 ||| orAll ((q l).map (·.2))))) s d) ∧
    (LeafIssues { op := 0x08B, w } h s d →
      let e (l : Nat) : Nat := elem 8 (opd (leafOps { op := 0x08B, w } h s d) 1) l
      let r (l i : Nat) : Nat × Nat := if e l = 0 then (0, 0) else if e l = 255 then (canonNaN fmtF32, flQP)
        else roundFin fmtF32 mode (bitOf fm 4) (decide (q8At d w.va.toNat i l < 0)) (q8At d w.va.toNat i l).natAbs ((e l : Int) - 127) false
      LeafGives (.vdqb w) { op := 0x08B, w } h ((below long).map (fun j => .vec (w.vd.toNat + j) m (vecOfLanes (fun l => if inMask m l = true then (r l j).1 else 0))))
        (orAll (((below 32).filter (inMask m)).map (fun l => orAll ((below long).map (fun i => (r l i).2))))) s d) ∧
    (LeafIssues { op := 0x186, w } h s d →
      let z := wordScan w d m (opd (leafOps { op := 0x186, w } h s d) 0)
      LeafGives (.vscan w) { op := 0x186, w } h (vecWrites ty w.vd.toNat m ((below 32).map (fun l => scanOut ty (tabGet 0 z.1 l)))) z.2 s d) ∧
    (LeafIssues { op := 0x187, w } h s d →
      let z := wordScan w d m (opd (leafOps { op := 0x187, w } h s d) 0)
      LeafGives (.vred w) { op := 0x187, w } h [.sca w.vd.toNat (toScalar ty (match z.1.getLast? with | some y => scanOut ty y.2 | none => redIdentity ty (w.md.toNat / 4)))] z.2 s d)

/-! ## Leaf control -/

/-- The nine control words of the leaf: a branch with no lane taken goes on, with every lane taken moves the split, else divides it into the lowest free
entry; a bad target, a full split table and a full or empty return stack trap (R69, R174, R178 to R187). Where the spec leaves a point open it follows the
model's log: entries 12, 61. -/
def Obligations.LeafControl : Prop :=
  (∀ (w : LeafWord) (h : Shape) (s : State) (d : Drill),
    let c := leafCtx d
    let x := runSplit c
    let dest : Word := x.pc.setWidth 64 + 12 * w.imm.signExtend 64
    let back := decide (dest.toNat ≤ x.pc.toNat)
    let ok := leafTargetOk s d dest.toNat
    let m := effMask d w.k.toNat
    let bad (i : Instr) : Prop := exec i s = .next (leafTrap s s.cur cFetch dest 0 [])
    LeafQuiet d →
    (LeafIssues { op := 0x280, w, ctl := true } h s d →
      (m = 0 → SplitsBecome (.lbr w) { op := 0x280, w, ctl := true } h (entryGoes { x with pc := x.pc + 12 } false) s d) ∧
      (m ≠ 0 → m = x.em → (ok = true → SplitsBecome (.lbr w) { op := 0x280, w, ctl := true } h (entryGoes { x with pc := dest.setWidth 56 } back) s d) ∧ (ok = false → bad (.lbr w))) ∧
      (m ≠ 0 → m ≠ x.em → (ok = false → bad (.lbr w)) ∧
        (ok = true → (∀ y, y < 16 → (splitAt c y).state ≠ 0) → exec (.lbr w) s = .next (leafTrap s s.cur cSplitFull 0 0 [])) ∧
        ∀ y, ok = true → y < 16 → (splitAt c y).state = 0 → (∀ z, z < y → (splitAt c z).state ≠ 0) →
          SplitsBecome (.lbr w) { op := 0x280, w, ctl := true } h
            (fun c => entryGoes { x with pc := x.pc + 12, em := x.em &&& ~~~m, sm := x.sm &&& ~~~m } back (putSplit c y { x with state := 1, pc := dest.setWidth 56, em := m, sm := m })) s d)) ∧
    (LeafIssues { op := 0x281, w, ctl := true } h s d →
      let v := leafOps { op := 0x281, w, ctl := true } h s d
      let taken := sbrHolds (w.md.toNat / 4) (scaOf (opd v 0)) (scaOf (opd v 1))
      (taken = false → SplitsBecome (.sbr w) { op := 0x281, w, ctl := true } h (entryGoes { x with pc := x.pc + 12 } false) s d) ∧
      (taken = true → ok = true → SplitsBecome (.sbr w) { op := 0x281, w, ctl := true } h (entryGoes { x with pc := dest.setWidth 56 } back) s d) ∧ (taken = true → ok = false → bad (.sbr w))) ∧
    (LeafIssues { op := 0x282, w, ctl := true } h s d → (ok = true → SplitsBecome (.ljmp w) { op := 0x282, w, ctl := true } h (entryGoes { x with pc := dest.setWidth 56 } back) s d) ∧ (ok = false → bad (.ljmp w))) ∧
    (LeafIssues { op := 0x283, w, ctl := true } h s d →
      (x.depth = 8 → exec (.lcall w) s = .next (leafTrap s s.cur cCallDepth 8 0 [])) ∧ (x.depth ≠ 8 → ok = false → bad (.lcall w)) ∧
      (x.depth ≠ 8 → ok = true → SplitsBecome (.lcall w) { op := 0x283, w, ctl := true } h
        (entryGoes { x with rs := tabSet 0 x.rs x.depth.toNat (x.pc + 12), depth := x.depth + 1, pc := dest.setWidth 56 } false) s d)) ∧
    (LeafIssues { op := 0x284, w, ctl := true } h s d →
      let ret := tabGet 0 x.rs (x.depth.toNat - 1)
      (x.depth = 0 → exec (.lret w) s = .next (leafTrap s s.cur cCallDepth 0 0 [])) ∧
      (x.depth ≠ 0 → leafTargetOk s d ret.toNat = false → exec (.lret w) s = .next (leafTrap s s.cur cFetch (ret.setWidth 64) 0 [])) ∧
      (x.depth ≠ 0 → leafTargetOk s d ret.toNat = true → SplitsBecome (.lret w) { op := 0x284, w, ctl := true } h
        (entryGoes { x with rs := tabDel x.rs (x.depth.toNat - 1), depth := x.depth - 1, pc := ret } false) s d)) ∧
    (LeafIssues { op := 0x285, w } h s d → SplitsBecome (.ljoin w) { op := 0x285, w } h joinHere s d) ∧
    (LeafIssues { op := 0x286, w, ctl := true } h s d → SplitsBecome (.lyield w) { op := 0x286, w, ctl := true } h (entryGoes { x with pc := x.pc + 12 } true) s d) ∧
    (LeafIssues { op := 0x287, w, ctl := true } h s d →
      SplitsBecome (.lend w) { op := 0x287, w, ctl := true } h (fun c => giveUp (putSplit c c.run { x with state := 4, depth := 0, rs := [] }) c.run) s d) ∧
    (LeafIssues { op := 0x288, w, ctl := true } h s d → ∃ t e, exec (.lexit w) s = .next t ∧ e = exitLanes m d ∧ e.live = d.live &&& ~~~m ∧ LeafMoves (leafPops { op := 0x288, w, ctl := true } h) e s t s.cur d)) ∧
  ∀ (c : LeafCtx) (i l : Nat) (p : VAddr) (k : BitVec 4), inMask (awaited c i p k 0) l =
    c.splits.any (fun e => decide (e.1 ≠ i ∧ (e.2.state = 1 ∨ e.2.state = 2 ∨ e.2.state = 3)) && inMask e.2.sm l && decide (k.toNat < e.2.depth.toNat ∨ (e.2.depth = k ∧ e.2.pc.toNat < p.toNat)))

/-! ## Leaf words that reach memory -/

/-- VLD, VLDA and VLDC write to each active lane the element at its address, from what the word read of each tile, or at once where all lanes lie in one tile
that may be read; poison in a lane traps with the failing lanes and their addresses; LSTAMP takes the latest stamp read, and an acquire takes DT with it
(R158, R159, R252, R267, R278, R388). Where the spec leaves a point open it follows the model's log: entries 10, 24. -/
def Obligations.LeafLoads : Prop :=
  ∀ (i : Instr) (op : Nat) (w : LeafWord) (acq : Bool) (h : Shape) (s : State) (d : Drill) (ps : List LanePlace) (cls : Nat → Bool), laneLoadRow i = some (op, w, acq) →
    let p : LeafPlan := { op, w }
    let n := typeBits w.ty.toNat / 8
    let v := leafOps p h s d
    let m := effMask d w.k.toNat
    let cl := clusterOf s.cur
    let ea (l : Nat) : Nat := (laneAddr w v l).toNat
    let dt := if acq = true then d.dt + 1 else d.dt
    let gives (x : Nat → Nat) : List LeafWrite := elementsTo (typeBits w.ty.toNat) (isSignedTy w.ty.toNat) w.vd.toNat m (fun l => BitVec.ofNat (typeBits w.ty.toNat) (x l))
    LeafIssues p h s d → LanesAt s d .load ea n m ps cls →
    (LanesGot d ps → (∀ q, q ∈ ps → (gotOf d true q.l).2 = none ∧ (gotOf d true q.l).1 < 2 ^ typeBits w.ty.toNat) → ∃ u e, exec i s = .next (leafDone u s.cur p (leafPops p h) (gives (fun l => (gotOf d true l).1)) 0 nextWord) ∧
      ReadOnly s u s.cur d e ∧ e.lstamp = max d.lstamp (gotWts d true) ∧ e.dt = if acq = true then max dt (gotWts d true) else d.dt) ∧
    (LanesGot d ps → ∀ q, q ∈ ps → (gotOf d true q.l).2 ≠ none → ∃ a bad tea, bad ≠ [] ∧ (∀ l, l ∈ bad ↔ ∃ q, q ∈ ps ∧ q.l = l ∧ (gotOf d true l).2 ≠ none) ∧ (∀ l, l ∈ bad → tabFind tea l = some (BitVec.ofNat 64 (ea l))) ∧
      (gotOf d true (bad.headD 0)).2 = some a ∧ exec i s = .next (leafTrap s s.cur cPoison (BitVec.ofNat 64 a) (maskOf (fun l => decide (l ∈ bad))) tea)) ∧
    ∀ tile, OneTile s d ps tile → (∀ q, q ∈ ps → Readable s cl q.pa n (cls tile) dt ∧ clusterPoison s cl q.pa = false) → ∃ u e x st,
      exec i s = .next (leafDone u s.cur p (leafPops p h) (gives x) 0 nextWord) ∧ (∀ q k, q ∈ ps → k < n → bitsOf (x q.l) (8 * k) 8 = clusterByte s cl (q.pa + k)) ∧
      ReadOnly s u s.cur d e ∧ e.lstamp = max d.lstamp st ∧ e.ovf = d.ovf ∧ (e.dt = if acq = true then max dt st else d.dt) ∧ (cls tile = false → st = 0) ∧
      (cls tile = true → (tabFind (clAt s cl).tiles tile).isSome = true → (∀ q y, q ∈ ps → copyAt s cl (q.pa / 128) = some y → y.wts ≤ st) ∧
        ∃ q y, q ∈ ps ∧ copyAt s cl (q.pa / 128) = some y ∧ st = y.wts)

/-- VST and VSTL store each active lane's element, the highest lane standing where lanes overlap; a release of die scope or wider first waits for stamps and
carries a DT no lower than PSTAMP. A lane atomic that its cluster performs returns the old value and leaves the new one, and the word passes a switch point
(R158, R162, R181, R237, R251, R268, R278). Where the spec leaves a point open it follows the model's log: entries 9, 10, 58. -/
def Obligations.LeafStores : Prop :=
  (∀ (i : Instr) (op : Nat) (w : LeafWord) (rel : Option Nat) (h : Shape) (s : State) (d : Drill) (ps : List LanePlace) (cls : Nat → Bool), laneStoreRow i = some (op, w, rel) →
    let p : LeafPlan := { op, w, release := rel.isSome }
    let n := typeBits w.ty.toNat / 8
    let v := leafOps p h s d
    let m := effMask d w.k.toNat
    let cl := clusterOf s.cur
    let dt := match rel with | some c => if 3 ≤ c then max d.dt d.pstamp else d.dt | none => d.dt
    LeafIssues p h s d → LanesAt s d .store (fun l => (laneAddr w v l).toNat) n m ps cls →
    (∀ c, rel = some c → begun d true = false → releaseWait s s.cur c = true → exec i s = .next (streamPark s s.cur true .stores (leafPops p h))) ∧
    ((∀ c, rel = some c → begun d true = true ∨ releaseWait s s.cur c = false) →
      (LanesGot d ps → exec i s = .next (leafDone (onDrill s s.cur (fun e => { e with dt := max e.dt dt })) s.cur p (leafPops p h) [] 0 nextWord)) ∧
      ∀ tile, OneTile s d ps tile → (tabFind (clAt s cl).tiles tile).isSome = true → ∃ u e, exec i s = .next (leafDone u s.cur p (leafPops p h) [] 0 nextWord) ∧
        StoreOnly s u s.cur d e ∧ e.lstamp = d.lstamp ∧ e.dt = dt ∧ LanesStored s u cl n dt (cls tile) ps (fun l => elem (typeBits w.ty.toNat) (opd v 3) l))) ∧
  ∀ (i : Instr) (op : Nat) (w : LeafWord) (f : ∀ n, BitVec n → BitVec n → BitVec n → Option (BitVec n)) (h : Shape) (s : State) (d : Drill) (ps : List LanePlace) (cls : Nat → Bool), laneAmoRow i = some (op, w, f) →
    let p : LeafPlan := { op, w }
    let b := typeBits w.ty.toNat
    let n := b / 8
    let v := leafOps p h s d
    let m := effMask d w.k.toNat
    let cl := clusterOf s.cur
    let gives (x : Nat → BitVec b) : List LeafWrite := elementsTo b (isSignedTy w.ty.toNat) w.vd.toNat m x
    LeafIssues p h s d → LanesAt s d .store (fun l => (laneAddr w v l).toNat) n m ps cls → (jobAt s d.job).replay = .free → (∀ q, q ∈ ps → ¬(cls (q.pa / 2048) = true ∧ 3 ≤ w.md.toNat / 4)) →
    (LanesGot d ps → (∀ q, q ∈ ps → (gotOf d true q.l).2 = none) → ∃ t, exec i s = .next (leafDone t s.cur p (leafPops p h) (gives (fun l => BitVec.ofNat b (gotOf d true l).1)) 0 passSwitch) ∧
      (∃ e, drillAt t s.cur = some e ∧ e = { d with lstamp := e.lstamp }) ∧ (∀ k, k ≠ s.cur → drillAt t k = drillAt s k) ∧ t.mem = s.mem ∧ t.stores = s.stores ∧ ∀ c l, copyAt t c l = copyAt s c l) ∧
    ∀ (q : LanePlace), ps = [q] → OneTile s d ps (q.pa / 2048) → Readable s cl q.pa n (cls (q.pa / 2048)) d.dt → (tabFind (clAt s cl).tiles (q.pa / 2048)).isSome = true → clusterPoison s cl q.pa = false →
      let old := BitVec.ofNat b (packFields 8 (fun k => clusterByte s cl (q.pa + k)) n)
      ∃ t e, exec i s = .next (leafDone t s.cur p (leafPops p h) (gives (fun _ => old)) 0 passSwitch) ∧ StoreOnly s t s.cur d e ∧ e.dt = d.dt ∧
        match f b old (element b v 2 q.l) (element b v 3 q.l) with
        | some y => StoredBytes s t s.cur q.pa n y.toNat (cls (q.pa / 2048)) d.dt
        | none => t.mem = s.mem ∧ t.stores = s.stores ∧ ∀ c l, copyAt t c l = copyAt s c l

/-- The lane words that reach memory check every active lane: an address of 2^56 or more is a translation fault, then a misaligned one an alignment fault; a
miss waits for its walk; of translations that fail, the lowest cause code is taken with its lanes (R74, R159, R309). Where the spec leaves a point open it
follows the model's log: entry 59. -/
def Obligations.LeafAddressFaults : Prop :=
  ∀ (i : Instr) (op : Nat) (w : LeafWord) (k : Kind) (rel : Bool) (h : Shape) (s : State) (d : Drill), laneWordRow i = some (op, w, k, rel) →
    let p : LeafPlan := { op, w, release := rel }
    let n := typeBits w.ty.toNat / 8
    let ea (l : Nat) : Nat := (laneAddr w (leafOps p h s d) l).toNat
    let lanes := lanesOf (effMask d w.k.toNat)
    let far := lanes.filter (fun l => decide (2 ^ 56 ≤ ea l))
    let odd := lanes.filter (fun l => decide (ea l % n ≠ 0))
    let tr (l : Nat) : Tr := translate s s.cur d k true (ea l)
    LeafIssues p h s d →
    (far ≠ [] → exec i s = .next (lanesTrap s cTranslation ea far)) ∧
    (far = [] → odd ≠ [] → exec i s = .next (lanesTrap s cAlign ea odd)) ∧
    (far = [] → odd = [] → (∃ l, l ∈ lanes ∧ tr l = .miss) → ∃ t, exec i s = .next (streamPark t s.cur true .walk (leafPops p h))) ∧
    (far = [] → odd = [] → (∀ l, l ∈ lanes → tr l ≠ .miss) → (∃ l c, l ∈ lanes ∧ tr l = .fault c) → ∃ c, (∀ l e, l ∈ lanes → tr l = .fault e → c ≤ e) ∧
      (∃ l, l ∈ lanes ∧ tr l = .fault c) ∧ exec i s = .next (lanesTrap s c ea (lanes.filter (fun l => decide (tr l = .fault c)))))

/-- VLDB and VSTB: a lane outside every bench and a misaligned one take their faults; a load returns the bytes of each lane's place, or the poison fault; a
store leaves each lane's bytes there unless a higher lane stores to the same place, and changes nothing else (R163, R164). -/
def Obligations.LeafBench : Prop :=
  (∀ (i : Instr) (op : Nat) (w : LeafWord) (h : Shape) (s : State) (d : Drill), (i = .vldb w ∧ op = 0x202) ∨ (i = .vstb w ∧ op = 0x203) →
    let p : LeafPlan := { op, w }
    let n := typeBits w.ty.toNat / 8
    let ea (l : Nat) : Nat := (laneAddr w (leafOps p h s d) l).toNat
    let lanes := lanesOf (effMask d w.k.toNat)
    let out := lanes.filter (fun l => decide (benchPlace s s.cur (ea l) = none))
    let odd := lanes.filter (fun l => decide (ea l % n ≠ 0))
    LeafIssues p h s d →
    (out ≠ [] → exec i s = .next (lanesTrap s cBench ea out)) ∧ (out = [] → odd ≠ [] → exec i s = .next (lanesTrap s cAlign ea odd))) ∧
  (∀ (w : LeafWord) (h : Shape) (s u : State) (d : Drill) (pl : Nat → Nat × Nat),
    let p : LeafPlan := { op := 0x202, w }
    let b := typeBits w.ty.toNat
    let n := b / 8
    let ea (l : Nat) : Nat := (laneAddr w (leafOps p h s d) l).toNat
    let m := effMask d w.k.toNat
    LeafIssues p h s d → BenchLanes s u d ea n (lanesOf m) pl →
    ((∀ l, l ∈ lanesOf m → benchPoison u (pl l).1 (pl l).2 n = none) →
      exec (.vldb w) s = .next (leafDone u s.cur p (leafPops p h)
        (elementsTo b (isSignedTy w.ty.toNat) w.vd.toNat m (fun l => BitVec.ofNat b (packFields 8 (fun k => (benchByte u (pl l).1 ((pl l).2 + k)).toNat) n))) 0 nextWord)) ∧
    ((∃ l, l ∈ lanesOf m ∧ benchPoison u (pl l).1 (pl l).2 n ≠ none) → ∃ bad sec tea, bad ≠ [] ∧ (∀ l, l ∈ bad ↔ l ∈ lanesOf m ∧ benchPoison u (pl l).1 (pl l).2 n ≠ none) ∧
      benchPoison u (pl (bad.headD 0)).1 (pl (bad.headD 0)).2 n = some sec ∧ (∀ l, l ∈ bad → tabFind tea l = some (BitVec.ofNat 64 (ea l))) ∧
      exec (.vldb w) s = .next (leafTrap s s.cur cPoison (BitVec.ofNat 64 ((pl (bad.headD 0)).1 % 48 * 0x80000 + sec * 32)) (maskOf (fun l => decide (l ∈ bad))) tea))) ∧
  ∀ (w : LeafWord) (h : Shape) (s u : State) (d : Drill) (pl : Nat → Nat × Nat),
    let p : LeafPlan := { op := 0x203, w }
    let b := typeBits w.ty.toNat
    let n := b / 8
    let v := leafOps p h s d
    let lanes := lanesOf (effMask d w.k.toNat)
    LeafIssues p h s d → BenchLanes s u d (fun l => (laneAddr w v l).toNat) n lanes pl →
    ∃ t, exec (.vstb w) s = .next (leafDone t s.cur p (leafPops p h) [] 0 nextWord) ∧ BenchesOnly u t ∧ (∀ c, (coreAt t c).tags = (coreAt u c).tags) ∧
      (∀ l, l ∈ lanes → (∀ r, r ∈ lanes → l < r → pl r ≠ pl l) → ∀ k, k < n → (benchByte t (pl l).1 ((pl l).2 + k)).toNat = bitsOf (elem b (opd v 3) l) (8 * k) 8) ∧
      ∀ c a, (∀ l, l ∈ lanes → ¬(c = (pl l).1 ∧ (pl l).2 ≤ a ∧ a < (pl l).2 + n)) → benchByte t c a = benchByte u c a

/-- VLDF and VSTF: a panel outside a bench, misaligned, or for a load of another tag takes its fault; a load fills all 32 lanes of its registers from the
panel, word (j, l) at P(j, l) permuted by the swizzle; a store leaves lane l of register j there, then the tags of the tiles (R165 to R169). Where the spec
leaves a point open it follows the model's log: entry 59. -/
def Obligations.LeafPanels : Prop :=
  ∀ (i : Instr) (op : Nat) (load : Bool) (w : LeafWord) (h : Shape) (s : State) (d : Drill), (i = .vldf w ∧ op = 0x204 ∧ load = true) ∨ (i = .vstf w ∧ op = 0x205 ∧ load = false) →
    let p : LeafPlan := { op, w }
    let v := leafOps p h s d
    let code := w.imm.toNat / 2 ^ 26
    let swz := bitsOf w.imm.toNat 24 2
    let n := layoutBytes code
    let g := layoutRegs code
    let ea := (scaOf (opd v 0) + scaOf (opd v 1) + (w.imm.setWidth 24).signExtend 64).toNat
    LeafIssues p h s d →
    (benchIn s s.cur ea n = false → exec i s = .next (leafTrap s s.cur cBench (BitVec.ofNat 64 ea) 0 [])) ∧
    (benchIn s s.cur ea n = true → ea % n ≠ 0 → exec i s = .next (leafTrap s s.cur cAlign (BitVec.ofNat 64 ea) 0 [])) ∧
    ∀ (u : State) (core off : Nat), PanelReady s u d ea n core off →
      let tile (t : Nat) : Bool := decide (off / 2048 ≤ t ∧ t * 2048 < off + n)
      let at' (j l : Nat) : Nat := physOf (off + layoutAt code j l) swz
      (∀ t, load = true → tile t = true → tabGet 0 (coreAt u core).tags t ≠ swz → (∀ r, r < t → tile r = true → tabGet 0 (coreAt u core).tags r = swz) →
        exec i s = .next (leafTrap s s.cur cSwizzle (BitVec.ofNat 64 (ea / 2048 * 2048 + (t - off / 2048) * 2048)) 0 [])) ∧
      (load = true → (∀ t, tile t = true → tabGet 0 (coreAt u core).tags t = swz) →
        (∀ sec, benchPoison u core off n = some sec → exec i s = .next (leafTrap s s.cur cPoison (BitVec.ofNat 64 (core % 48 * 0x80000 + sec * 32)) 0 [])) ∧
        (benchPoison u core off n = none → ∃ x : Nat → Vec, exec i s = .next (leafDone u s.cur p (leafPops p h) ((below g).map (fun j => .vec (w.vd.toNat + j) (BitVec.allOnes 32) (x j))) 0 nextWord) ∧
          ∀ j l, j < g → l < 32 → lane (x j) l = packFields 8 (fun k => (benchByte u core (at' j l + k)).toNat) 4)) ∧
      (load = false → ∃ t, exec i s = .next (leafDone t s.cur p (leafPops p h) [] 0 nextWord) ∧ BenchesOnly u t ∧
        (∀ j l k, j < g → l < 32 → k < 4 → (benchByte t core (at' j l + k)).toNat = bitsOf (lane (vRead d (leafCtx d).run (w.vd.toNat + j)) l) (8 * k) 8) ∧
        (∀ c a, ¬(c = core ∧ off ≤ a ∧ a < off + n) → benchByte t c a = benchByte u c a) ∧
        (∀ k, tile k = true → tabGet 0 (coreAt t core).tags k = swz) ∧ ∀ c k, ¬(c = core ∧ tile k = true) → tabGet 0 (coreAt t c).tags k = tabGet 0 (coreAt u c).tags k)

/-- XIDX: a row outside every bench, a misaligned destination or source, an index past the count, a failing fill and a failing source take their faults in
this order with the lanes that fail; else the command joins the gather engine, or waits for a place there (R330, R331, R318, R319). Where the spec leaves a
point open it follows the model's log: entry 59. -/
def Obligations.LeafGathers : Prop :=
  ∀ (w : LeafWord) (h : Shape) (s : State) (d : Drill),
    let p : LeafPlan := { op := 0x20B, w }
    let v := leafOps p h s d
    let m := effMask d w.k.toNat
    let lanes := lanesOf m
    let b := 2 ^ bitsOf w.imm.toNat 16 4
    let key := bitOf w.imm.toNat 31
    let dst := scaOf (opd v 0)
    let c := scaOf (opd v 2)
    let c1 := sRead d (leafCtx d).run (w.vc.toNat + 1)
    let idx (l : Nat) : Nat := (element 32 v 1 l).toNat
    let row (l : Nat) : Nat := dst.toNat + l * b
    let src (l : Nat) : Nat := if key = true then c.toNat else c.toNat + idx l * b
    let out := lanes.filter (fun l => decide (benchIn s s.cur (row l) b = false))
    let past := lanes.filter (fun l => decide (c1.toNat ≤ idx l))
    let misD := lanes ≠ [] ∧ dst.toNat % min b 2048 ≠ 0
    let misS := lanes ≠ [] ∧ c.toNat % (if key = true then 64 else 128) ≠ 0
    LeafIssues p h s d →
    (out ≠ [] → exec (.xidx w) s = .next (lanesTrap s cBench row out)) ∧
    (out = [] → misD → exec (.xidx w) s = .next (lanesTrap s cAlign row lanes)) ∧
    (out = [] → ¬misD → misS → exec (.xidx w) s = .next (lanesTrap s cAlign src lanes)) ∧
    (out = [] → ¬misD → ¬misS → key = false → past ≠ [] → exec (.xidx w) s =
      .next (leafTrap s s.cur cIndex (BitVec.ofNat 64 (idx (past.headD 0))) (maskOf (fun l => decide (l ∈ past))) (past.map (fun l => (l, BitVec.ofNat 64 (src l)))))) ∧
    (out = [] → ¬misD → ¬misS → key = true ∨ past = [] → (∀ l, l ∈ lanes → ∃ t, benchRange s s.cur d.super (row l) b = .ok t) →
      ∀ u, u = lanes.foldl (fun x l => match benchRange x s.cur d.super (row l) b with | .ok t => t | .error _ => x) s →
      (∀ r, gatherRanges u d src (if key = true then 64 else b) lanes = .error r → exec (.xidx w) s = .next (lanesTrap s r.1 src r.2)) ∧
      ∀ u1 ts, gatherRanges u d src (if key = true then 64 else b) lanes = .ok (u1, ts) →
        let held := 32 ≤ (engineQ u1 s.cur).length ∨ 255 ≤ ocGet d 1 ∨ (dieAt u1 (dieOf s.cur)).level = 3
        (held → exec (.xidx w) s = .next (streamPark u1 s.cur true .engine (leafPops p h))) ∧
        (¬held → ∀ e, drillAt u1 s.cur = some e → ∃ t, exec (.xidx w) s = .next (leafDone t s.cur p (leafPops p h) [] 0 nextWord) ∧
          Queued u1 t { slot := s.cur, cls := 1, op := if key = true then 5 else 4, dst, src := c, lanes := m, idx := vecOf (opd v 1), blk := b, seqLayer := c1, job := d.job, sup := d.super, dt := d.dt, trans := ts } e))

/-- MSSA, MDOT, MZERO, MLOAD and MDRAIN: the twin-span, alignment and bench-range faults in their order; then the word waits for a place in the queue, or is
accepted with all that it names read (R342, R343, R345, R349). -/
def Obligations.LeafMatrixWords : Prop :=
  ∀ (i : Instr) (op : Nat) (w : LeafWord) (h : Shape) (s : State) (d : Drill) (f : MatForm), i.leaf? = some (op, w) → matForm i (leafOps { op, w } h s d) = some f →
    let p : LeafPlan := { op, w }
    let core := coreOf s.cur
    let stops (c : Nat) (x : Word) : Prop := exec i s = .next (leafTrap s s.cur c x 0 [])
    let named := w.imm.toNat % 32 ≠ 0
    let spans := f.twin = false ∨ (d.twin = true ∧ core % 2 = 0 ∧ ∀ e, e ∈ s.drills → coreOf e.1 = core + 1 → e.2.job = d.job)
    let aligned := f.fblk.toNat % 64 = 0 ∧ f.addr.toNat % f.align = 0 ∧ (named → f.bar.toNat % 8 = 0)
    LeafIssues p h s d →
    (¬spans → stops cTwin 0) ∧
    (spans → f.fblk.toNat % 64 ≠ 0 → stops cAlign f.fblk) ∧
    (spans → f.fblk.toNat % 64 = 0 → f.addr.toNat % f.align ≠ 0 → stops cAlign f.addr) ∧
    (spans → f.fblk.toNat % 64 = 0 → f.addr.toNat % f.align = 0 → named → f.bar.toNat % 8 ≠ 0 → stops cAlign f.bar) ∧
    (spans → aligned → ∀ c a, benchRange s s.cur d.super f.addr.toNat f.bytes = .error (c, a) → stops c (BitVec.ofNat 64 a)) ∧
    (spans → aligned → ∀ u, benchRange s s.cur d.super f.addr.toNat f.bytes = .ok u → u.cur = s.cur →
      (∀ c a, benchRange u s.cur d.super f.bar.toNat (if w.imm.toNat % 32 ≠ 0 then 8 else 0) = .error (c, a) → stops c (BitVec.ofNat 64 a)) ∧
      ∀ t e, benchRange u s.cur d.super f.bar.toNat (if w.imm.toNat % 32 ≠ 0 then 8 else 0) = .ok t → t.cur = s.cur → drillAt t s.cur = some e →
        (engineFull t d f.twin → exec i s = .next (streamPark t s.cur true .engine (leafPops p h))) ∧
        (¬engineFull t d f.twin → ∃ x, exec i s = .next (leafDone x s.cur p (leafPops p h) [] 0 nextWord) ∧
          Accepted t x { opOf s d op w with groupA := (List.range f.regsA).map (fun j => vRead d (leafCtx d).run (w.va.toNat + j)), groupB := (List.range f.regsB).map (fun j => vRead d (leafCtx d).run (w.vb.toNat + j)), addr := f.addr, fblk := f.fblk, bar := f.bar } f.twin e))

/-- The espalier words: a TYPE that does not fit is an illegal instruction; a misaligned panel and one outside a bench take their faults; a word is accepted
with what it names, EINIT and EREST with the TYPE they leave; ESTAT and EREST wait for what was accepted before; ESTAT returns the status word, and EREST
refuses a save area that holds none (R363, R364, R366 to R376). Where the spec leaves a point open it follows the model's log: entries 33, 67, 68. -/
def Obligations.LeafEspalierWords : Prop :=
  (∀ (i : Instr) (op : Nat) (w : LeafWord) (s : State) (d : Drill), i.leaf? = some (op, w) → drillAt s s.cur = some d → wfLeaf op w = true →
    (i = .eapp w ∨ i = .eleft w ∨ i = .eright w) ∧ espTypeAt s (w.imm.toNat % 4) ≠ (if w.ty = 12 then 2 else 1) ∨
    (i = .ecap w ∨ i = .estat w ∨ i = .esave w) ∧ espTypeAt s (w.imm.toNat % 4) = 3 ∨ i = .ecap w ∧ espTypeAt s (w.imm.toNat % 4) = 0 →
    exec i s = .next (leafTrap s s.cur cIllegal (BitVec.ofNat 64 ((packLeaf op w).toNat / 2 ^ 32)) 0 [])) ∧
  (∀ (i : Instr) (op : Nat) (w : LeafWord) (h : Shape) (s : State) (d : Drill) (f : EspForm), i.leaf? = some (op, w) → espForm s i (leafOps { op, w } h s d) = some f →
    let p : LeafPlan := { op, w, late := espLate op w }
    let stops (c : Nat) (x : Word) : Prop := exec i s = .next (leafTrap s s.cur c x 0 [])
    LeafIssues p h s d →
    (∀ a n, f.panel = some (a, n) → (a.toNat % 128 ≠ 0 → stops cAlign a) ∧ (a.toNat % 128 = 0 → ∀ c x, benchRange s s.cur d.super a.toNat n = .error (c, x) → stops c (BitVec.ofNat 64 x))) ∧
    ∀ u e, (∀ a n, f.panel = some (a, n) → a.toNat % 128 = 0 ∧ benchRange s s.cur d.super a.toNat n = .ok u) → (f.panel = none → u = s) → u.cur = s.cur → drillAt u s.cur = some e →
      (engineFull u d false → exec i s = .next (streamPark u s.cur true .engine (leafPops p h))) ∧
      (¬engineFull u d false → ∃ t, exec i s = .next (leafDone t s.cur p (leafPops p h) [] 0 nextWord) ∧
        Accepted u t { opOf u d op w with groupA := (List.range f.regs).map (fun j => vRead d (leafCtx d).run (w.va.toNat + j)), tau := f.tau, addr := (f.panel.map (·.1)).getD 0 } false e ∧
        (f.type = none → (coreAt t (coreOf s.cur)).espTy = (coreAt u (coreOf s.cur)).espTy) ∧ ∀ ty, f.type = some ty → TypeLeft u t (coreOf s.cur) (w.imm.toNat % 4) ty)) ∧
  (∀ (w : LeafWord) (h : Shape) (s : State) (d : Drill),
    let p : LeafPlan := { op := 0x345, w, late := espLate 0x345 w }
    let k := w.imm.toNat % 4
    let busy := ∃ m, m ∈ (coreAt s (coreOf s.cur)).mq ∧ 0x340 ≤ m.op ∧ m.word.imm.toNat % 4 / 2 = k / 2
    LeafIssues p h s d →
    (busy → exec (.estat w) s = .next (streamPark s s.cur true .retire (leafPops p h))) ∧
    (¬busy → ∃ x, exec (.estat w) s = .next (leafDone s s.cur p (leafPops p h) [.sca w.vd.toNat x] 0 nextWord) ∧ StatusOf (espAt s (coreOf s.cur) k) x)) ∧
  ∀ (w : LeafWord) (h : Shape) (s : State) (d : Drill),
    let p : LeafPlan := { op := 0x347, w }
    let k := w.imm.toNat % 4
    let a := scaOf (opd (leafOps p h s d) 0)
    let stops (c : Nat) (x : Word) : Prop := exec (.erest w) s = .next (leafTrap s s.cur c x 0 [])
    LeafIssues p h s d →
    (a.toNat % 128 ≠ 0 → stops cAlign a) ∧
    (a.toNat % 128 = 0 → (∀ c x, benchRange s s.cur d.super a.toNat 0x7080 = .error (c, x) → stops c (BitVec.ofNat 64 x)) ∧
      ∀ u, benchRange s s.cur d.super a.toNat 0x7080 = .ok u → u.cur = s.cur →
        ((∃ m, m ∈ (coreAt u (coreOf s.cur)).mq ∧ 0x340 ≤ m.op) → exec (.erest w) s = .next (streamPark u s.cur true .retire (leafPops p h))) ∧
        ∀ bc off, (∀ m, m ∈ (coreAt u (coreOf s.cur)).mq → m.op < 0x340) → benchPlace u s.cur a.toNat = some (bc, off) →
          (benchPoison u bc off 128 ≠ none → stops cPoison a) ∧
          (benchPoison u bc off 128 = none → let x := benchRead u bc off 128
            let more := if bitsOf x 62 2 = 2 then 0xE080 else 0
            (∀ c y, benchRange u s.cur d.super a.toNat more = .error (c, y) → stops c (BitVec.ofNat 64 y)) ∧
            ∀ t e, benchRange u s.cur d.super a.toNat more = .ok t → t.cur = s.cur → drillAt t s.cur = some e →
              (¬SaveArea k x → stops cEspSave a) ∧
              (SaveArea k x → engineFull t d false → exec (.erest w) s = .next (streamPark t s.cur true .engine (leafPops p h))) ∧
              (SaveArea k x → ¬engineFull t d false → ∃ y, exec (.erest w) s = .next (leafDone y s.cur p (leafPops p h) [] 0 nextWord) ∧
                Accepted t y { opOf t d 0x347 w with addr := a, stat := x % 2 ^ 64 } false e ∧ TypeLeft t y (coreOf s.cur) k (bitsOf x 62 2))))

/-! ## Events -/

/-- The events at a drill: a stalled or parked word issues again when what it waits for has come; a queued leaf routine starts; CHK resolves; a resumed drill
goes on; drift raises DT; a pre-emption, an illegal instruction, a failing fetch and a matrix error take their traps (R18, R34, R125, R126, R214, R215, R220,
R228, R266, R291, R336, R342, R347, R381, R387 to R392). Where the spec leaves a point open it follows the model's log: entries 7, 70. -/
def Obligations.DrillEvents : Prop :=
  ∀ (slot : Nat) (s : State) (d : Drill), drillAt s slot = some d →
    let goes (i : Instr) (e : Drill) (ms : List Msg) : Prop := ∃ t, exec i s = .next t ∧ DrillGoes s t slot e ms
    let traps (i : Instr) (b : Drill) (cause : Nat) (tval : Word) (tea : Tab Word) : Prop := ∃ t, exec i s = .next t ∧ Trapped s t slot b cause tval 0 tea d.pc
    let free := d.super = false ∧ trapClear s slot d = true
    (d.stemWait = .lrunQueue → goes (.lrunQueueSlotFree slot) { d with stemWait := .none } []) ∧
    (d.stemWait = .lwait → goes (.lwaitRelease slot) { d with stemWait := .none } []) ∧
    (d.stemWait = .trayput → goes (.trayputResume slot) { d with stemWait := .none } []) ∧
    (∀ k, d.stemWait = .phwait k → goes (.phwaitRelease slot) { d with stemWait := .none } []) ∧
    (∀ c n, d.stemWait = .xwait c n → goes (.xwaitRelease slot) { d with stemWait := .none } []) ∧
    (∀ c n a, d.stemWait = .xyield c n a → goes (.xyieldWake slot) { d with stemWait := .none } []) ∧
    (d.stemWait = .hose → goes (.parkedWordRetest slot false) { d with stemWait := .none } []) ∧
    (d.leafWait = .hose → goes (.parkedWordRetest slot true) { d with leafWait := .none } []) ∧
    (d.leafWait = .engine → goes (.matrixAccept slot) { d with leafWait := .none } []) ∧
    (∀ c o g x, d.stemWait = .barw c o g (some x) → goes (.barwWake slot) { d with stemWait := .none, wake := true, wkind := 2, woke := some x } []) ∧
    (∀ call scr, d.stemWait = .halted call → ∃ w, (∀ c, w ≠ .halted c) ∧ ((∀ c, d.leafWait ≠ .halted c) → w = d.leafWait) ∧
      goes (.firmwareResume slot scr) { d with stemWait := .none, leafWait := w, tscr := scr.getD d.tscr, pc := if call = true then d.pc + 4 else d.pc } []) ∧
    goes (.dtDrift slot) { d with dt := d.dt + 1 } [] ∧
    (∀ k, goes (.preemptCommand slot k) { d with preempt := some k } [.preemptionTrap slot]) ∧
    (∀ q r, d.killed = false → routineRuns (leafCtx d) = false → (leafCtx d).queue = q :: r → d.live ≠ 0 →
      goes (.routineStart slot) { onLeaf d (fun c => { c with queue := r, s := tabDel q.regs 0, fmode := q.fmode, clo := q.clo, run := 0, splits := [(0, { state := 2, pc := q.entry, em := d.live, sm := d.live })] }) with leafWait := .none, readyLeaf := s.cycle }
        (if d.stemWait = .lrunQueue then [.lrunQueueSlotFree slot] else [])) ∧
    (∀ ents taken fall, d.stemWait = .chk ents taken fall →
      let cloche := (coreAt s (coreOf slot)).cloche
      let struck := ∃ e, e ∈ cloche ∧ e.1 ∈ ents ∧ e.2.state = 2
      (∀ e, e ∈ cloche → e.1 ∈ ents → e.2.state ≠ 1) →
      (struck → stemTargetOk s d taken.toNat = false → exec (.chkResolve slot) s = .next (stemTrap s slot cFetch (taken.setWidth 64))) ∧
      ∀ pc, struck ∧ stemTargetOk s d taken.toNat = true ∧ pc = taken ∨ ¬struck ∧ pc = fall → ∃ t e, exec (.chkResolve slot) s = .next t ∧
        t = { s with drills := t.drills, cores := t.cores } ∧ drillAt t slot = some e ∧
        e = { passWord d false 0 true [] with pc, ovf := false, stemWait := .none, leafWait := e.leafWait, wake := false, wkind := 0 } ∧
        (coreAt t (coreOf slot)).cloche = cloche.filter (fun e => !(decide (e.2.ctx = ctxOf slot) && decide (e.1 ∈ ents))) ∧
        ∀ c, c ≠ coreOf slot → coreAt t c = coreAt s c) ∧
    (∀ (i : Instr) (k : Nat), i = .preemptionTrap slot ∨ i = .asyncTrapHoldExpiry slot ∧ 64 ≤ d.heldIssues → d.preempt = some k → d.killed = false → d.due = none →
      d.merr = none → free → d.wins = [] ∨ 64 ≤ d.heldIssues → d.stemWait ≠ .retire → portBusy s slot = false → ∃ t, exec i s = .next t ∧ Preempted s t slot d k) ∧
    (∀ fc, d.merr = some fc → d.due = none → (d.super = true → exec (.matrixErrorTrap slot) s = .next s) ∧
      (free → traps (.matrixErrorTrap slot) { d with merr := none } (2 ^ 29 + 0x20) (BitVec.ofNat 64 fc) [])) ∧
    (∀ word, free → traps (.illegalInstruction slot false word) d 0x01 (word.setWidth 64) [] ∧
      traps (.illegalInstruction slot true word) d (2 ^ 30 + 0x01) (BitVec.ofNat 64 (word.toNat / 2 ^ 32)) []) ∧
    ∀ (leaf : Bool) (a : VAddr), free → let bit := if leaf = true then 2 ^ 30 else 0
      traps (.instructionFetchFault slot leaf a none) d (bit + 0x03) (a.setWidth 64) [] ∧
      ∀ p, traps (.instructionFetchFault slot leaf a (some p)) d (bit + 2 ^ 28 + 0x03) (a.setWidth 64) [(0, BitVec.ofNat 64 p)]

/-- The life of a drill: what a core gives to a new job is zeroed; a valid bind record makes the drill of Table 1.4, a restore enters at TVEC, a record out of
its ranges is a bind error; a drill that has exited and has nothing outstanding retires and is counted in its bed, and so on up to its phase; an unbound drill
leaves its slot; a cancel kills the drills of a bed (R35, R36, R135, R190, R197, R200, R202, R203, R211, R393, R394, R402). Where the spec leaves a point open
it follows the model's log: entries 3, 50, 69, 71, 72. -/
def Obligations.DrillLives : Prop :=
  (∀ (core job : Nat) (s : State), ∃ t, exec (.ownerZeroing core job) s = .next t ∧ t = { s with cores := t.cores } ∧ (∀ c, c ≠ core → coreAt t c = coreAt s c) ∧
    let a := coreAt s core
    let b := coreAt t core
    b.ownBench = some job ∧ b.ownTiles = some job ∧ b.ownEsp = some job ∧
    (a.ownBench ≠ some job → b.bench = [] ∧ b.benchPsn = [] ∧ b.tags = []) ∧ (a.ownBench = some job → b.bench = a.bench ∧ b.benchPsn = a.benchPsn ∧ b.tags = a.tags) ∧
    (a.ownTiles ≠ some job → b.tiles = []) ∧ (a.ownTiles = some job → b.tiles = a.tiles) ∧
    (a.ownEsp ≠ some job → b.esp = [] ∧ b.espTy = []) ∧ (a.ownEsp = some job → b.esp = a.esp ∧ b.espTy = a.espTy)) ∧
  (∀ (slot : Nat) (w0 w1 w2 w3 : Word) (s : State),
    let i : Instr := .bindRecordValid slot w0 w1 w2 w3
    let r := (w0, w1, w2, w3)
    let job := field w3 15 0
    let launch := bindLaunch s job (field w0 55 0) (field w1 31 0) (field w1 36 32) (bitOf w0.toNat 58)
    let error : Prop := ∃ t, exec i s = .next t ∧ t = { s with dies := t.dies, notices := s.notices ++ [.bindError slot] } ∧ recordV (slotRec t slot) = false
    (recordV (slotRec s slot) = true ∨ twinBusy s (coreOf slot) job = true → exec i s = .next s) ∧
    (recordV (slotRec s slot) = false → twinBusy s (coreOf slot) job = false →
      (bitOf w0.toNat 56 = false → exec i s = .next (slotPut s slot r)) ∧
      (bitOf w0.toNat 56 = true → recordFits s slot w1 = false ∨ launch = none → error) ∧
      ∀ li l, bitOf w0.toNat 56 = true → recordFits s slot w1 = true → launch = some (li, l) →
        let lw (k hi lo : Nat) : Nat := field (l.words.getD k 0) hi lo
        (bitOf w0.toNat 58 = false → (∀ o, bedOf s li (field w1 31 0) = some o → objAt s o.1 = some o.2) → ∃ t e b, exec i s = .next t ∧ slotRec t slot = r ∧ (∀ k, k ≠ slot → drillAt t k = drillAt s k) ∧ drillAt t slot = some e ∧
          objAt t e.bed = some b ∧ b.lvl = 0 ∧ b.up = li ∧ b.index = field w1 31 0 ∧ field w1 36 32 ∈ b.bound ∧
          (∀ k, gGet e k = if k = 1 then BitVec.ofNat 64 (field w0 55 0) else if k = 2 then BitVec.ofNat 64 (field w1 31 0) else if k = 3 then BitVec.ofNat 64 (field w1 36 32) else 0) ∧
          e = { job, bed := e.bed, didx := field w1 36 32, prio := field w0 61 59, budget := field w1 41 37, twin := bitOf w0.toNat 57,
                save := BitVec.ofNat 64 (field w3 63 16 * 256), g := e.g, pc := BitVec.ofNat 56 (lw 0 55 0), role := BitVec.ofNat 32 (field w0 63 62), hmap := w2,
                dt := if l.dt ≠ 0 ∧ l.die = dieOf slot then l.dt else (dieAt s (dieOf slot)).hs + 1, lease := (jobAt s job).lease,
                live := BitVec.ofNat 32 (2 ^ lw 4 43 38 - 1), sbase := BitVec.ofNat 56 (lw 1 55 0), slim := BitVec.ofNat 56 (lw 1 55 0 + lw 3 31 0),
                lbase := BitVec.ofNat 56 (lw 2 55 0), llim := BitVec.ofNat 56 (lw 2 55 0 + lw 3 63 32), readyStem := s.cycle, readyLeaf := s.cycle }) ∧
        (bitOf w0.toNat 58 = true →
          let save := field w3 63 16 * 256
          let u := (ensureBed (zeroFor s (coreOf slot) job (fun k => decide (field w1 49 42 ≤ k ∧ k < field w1 49 42 + field w1 41 37))) slot job li (field w1 31 0) l).1
          (∀ f, hubRead u (coreOf slot) job true save 8 = .error f → ∃ t, exec i s = .next t ∧ .bindError slot ∈ t.notices ∧ t.drills = s.drills ∧ recordV (slotRec t slot) = false) ∧
          ∀ v x, hubRead u (coreOf slot) job true save 8 = .ok (v, x) → ∃ t e, exec i s = .next t ∧ drillAt t slot = some e ∧ e.job = job ∧ e.super = true ∧
            e.tcause = 0x80000039 ∧ e.tval = BitVec.ofNat 64 save ∧ e.dt = x ∧ e.pc = (jobAt s job).tvec ∧ e.tstat = (if othersBound s slot job = true then 0 else 0x2000) ∧
            ∀ k, k ≠ slot → drillAt t k = drillAt s k))) ∧
  (∀ (slot : Nat) (s : State) (d : Drill), drillAt s slot = some d →
    let idle := d.stemWait = .exited ∧ lqstat (leafCtx d) = 0 ∧ countersZero d = true ∧ underWay s slot = false
    (¬idle → exec (.drillRetire slot) s = .next s) ∧
    ∀ b l g p j, Lineage s d.bed b l g p j → idle →
      let stamp := max b.stamp (max d.dt d.pstamp)
      let bedOver := b.count ≤ 1 ∧ b.complete = false
      let ended := bedOver ∧ l.count ≤ 1 ∧ (l.released = true ∨ l.cancelled = true) ∧ l.complete = false
      let dest := bitsOf (l.words.getD 6 0).toNat 57 6
      ∃ t b' l' g', exec (.drillRetire slot) s = .next t ∧ drillAt t slot = none ∧ recordV (slotRec t slot) = false ∧ .slotFree slot ∈ t.notices ∧ OthersWait s t slot ∧ t.mem = s.mem ∧
        objAt t d.bed = some b' ∧ b'.count = b.count - 1 ∧ b'.stamp = stamp ∧ (b'.complete = true ↔ b.complete = true ∨ bedOver) ∧ (bedOver → b'.hoses = []) ∧
        objAt t b.up = some l' ∧ (¬bedOver → l' = l) ∧ (bedOver → l'.stamp = max l.stamp stamp ∧ l'.count = l.count - 1) ∧ (l'.complete = true ↔ l.complete = true ∨ ended) ∧
        objAt t l.up = some g' ∧ g'.liveDrills = g.liveDrills - 1 ∧ g'.count = (if ended then g.count - 1 else g.count) ∧
        (g'.complete = true ↔ g.complete = true ∨ g'.count = 0 ∧ g'.liveDrills = 0) ∧
        (ended → p.root = false → ∀ n die up, p.dests[dest]? = some (n, 0, die, up) → .phaseArrival l.phase dest l.cancelled ∈ t.agenda)) ∧
  (∀ (slot : Nat) (s : State) (d : Drill), drillAt s slot = some d →
    let ended := d.stemWait = .unbind ∧ countersZero d = true ∧ underWay s slot = false
    (¬ended → exec (.unbind slot) s = .next s) ∧
    (ended → ∃ t, exec (.unbind slot) s = .next t ∧ drillAt t slot = none ∧ recordV (slotRec t slot) = false ∧ .slotFree slot ∈ t.notices ∧ OthersWait s t slot)) ∧
  ∀ (slot : Nat) (s : State) (d : Drill) (b : Obj), drillAt s slot = some d → objAt s d.bed = some b → b.lvl = 0 → b.complete = false →
    ∃ t b', exec (.gardenerCancel slot) s = .next t ∧ objAt t d.bed = some b' ∧ b'.cancelled = true ∧ b'.hoses = [] ∧
      ∀ k e, drillAt s k = some e → e.bed = d.bed → ∃ f, drillAt t k = some f ∧ f.killed = true

/-- The events of launches, phases and jobs: a launch is released when every launch of its list is complete and is cancelled with a cancelled one; an arrival
counts its destination down and a destination at 0 raises its line; a phase completes when every line is raised, once no store of its drills is on its way
through the die; a job's end takes its stakes and its cores from it; a snapshot pre-empts the job's drills and, with none bound, is complete at once (R198,
R200, R201, R250, R314, R381, R402, R403, R425). Where the spec leaves a point open it follows the model's log: entries 78, 89, 95. -/
def Obligations.ObjectEvents : Prop :=
  (∀ (i : Nat) (s : State) (o : Obj), objAt s i = some o → o.lvl = 1 → o.released = false → o.complete = false →
    let st := o.deps.map (fun h => depState s o.job h.toNat)
    let dest := bitsOf (o.words.getD 6 0).toNat 57 6
    (.cancelled ∉ st → .open' ∈ st → exec (.launchDependenceRelease i) s = .next s) ∧
    (.cancelled ∉ st → .open' ∉ st → o.count ≠ 0 → ∃ t, exec (.launchDependenceRelease i) s = .next t ∧ t = { s with objs := t.objs } ∧ ObjBecomes s t i { o with released := true }) ∧
    (.cancelled ∈ st → ∀ g p j, objAt s o.up = some g → g.lvl = 2 → objAt s o.phase = some p → p.lvl = 3 → objAt s (jobAt s o.job).obj = some j → j.lvl = 4 →
      (∀ x, objAt s (jobAt s o.job).rootPhase = some x → x.lvl = 3) →
      ∃ t g', exec (.launchDependenceRelease i) s = .next t ∧ objAt t i = some { o with cancelled := true, complete := true, count := 0 } ∧ objAt t o.up = some g' ∧
        g'.count = g.count - 1 ∧ g'.stamp = max g.stamp o.stamp ∧ (g'.complete = true ↔ g.complete = true ∨ g'.count = 0 ∧ g'.liveDrills = 0) ∧
        (p.root = false → ∀ n die up, p.dests[dest]? = some (n, 0, die, up) → .phaseArrival o.phase dest true ∈ t.agenda) ∧ Settles s t)) ∧
  (∀ (i dest n dev die : Nat) (up err : Bool) (s : State) (o : Obj) (e : Instr), objAt s i = some o → o.dests[dest]? = some (n, dev, die, up) →
    e = .phaseArrival i dest err ∨ e = .devicePhaseArrival i dest err →
    ∃ t, exec e s = .next t ∧ t = { s with objs := t.objs, agenda := t.agenda } ∧
      ObjBecomes s t i { o with err := o.err || (err || o.complete || decide (n = 0)), dests := o.dests.set dest (n - 1, dev, die, up) } ∧
      (n = 1 → dev = 0 → .phaseLineRaise i dest ∈ t.agenda) ∧ ∀ m, m ∈ s.agenda → m ∈ t.agenda) ∧
  (∀ (i dest die : Nat) (s : State) (o : Obj), objAt s i = some o → o.dests[dest]? = some (0, 0, die, false) → o.complete = false →
    (phaseTraffic s i die = true → exec (.phaseLineRaise i dest) s = .next s) ∧
    (phaseTraffic s i die = false → ∃ t, exec (.phaseLineRaise i dest) s = .next t ∧ LineRaised s t i o (o.dests.set dest (0, 0, die, true)))) ∧
  (∀ (i dest n dev die : Nat) (s : State) (o : Obj), objAt s i = some o → o.dests[dest]? = some (n, dev, die, false) → dev ≠ 0 → o.complete = false →
    ∃ t, exec (.phaseLineSideband i dest) s = .next t ∧ LineRaised s t i o (o.dests.set dest (n, dev, die, true))) ∧
  (∀ (job : Nat) (s : State) (o : Obj), objAt s (jobAt s job).obj = some o → o.lvl = 4 → o.job = job → o.complete = false →
    ∃ t o', exec (.jobEnd job) s = .next t ∧ objAt t (jobAt s job).obj = some o' ∧ o'.count = o.count ∧ (o'.complete = true ↔ o.count = 0) ∧ o'.released = true ∧
      (∀ c x, x ∈ (clAt t c).tiles → x.2.staked ≠ some job) ∧
      ∀ c, (∀ d ∈ s.drills, coreOf d.1 = c → d.2.job ≠ job) →
        (coreAt t c).ownBench ≠ some job ∧ (coreAt t c).ownTiles ≠ some job ∧ (coreAt t c).ownEsp ≠ some job ∧ ∀ u ∈ (coreAt t c).ownRegs, u.2 ≠ job) ∧
  ∀ (job region : Nat) (s : State),
    ((∃ k d, drillAt s k = some d ∧ d.job = job) → ∃ t, exec (.snapshot job region) s = .next t ∧ t = { s with drills := t.drills, jobs := t.jobs, agenda := t.agenda } ∧
      (jobAt t job).snapping = some region ∧ (jobAt t job).snapGen = (jobAt s job).snapGen ∧
      (∀ k d, drillAt s k = some d → d.job = job → .preemptionTrap k ∈ t.agenda ∧ drillAt t k = some { d with preempt := some (d.preempt.getD 0) }) ∧
      ∀ k, (∀ e ∈ s.drills, e.1 = k → e.2.job ≠ job) → drillAt t k = drillAt s k) ∧
    ((∀ d ∈ s.drills, d.2.job ≠ job) → ∃ t, exec (.snapshot job region) s = .next t ∧ (jobAt t job).snapGen = (jobAt s job).snapGen + 1 ∧ (jobAt t job).snapping = none ∧
      .snapshotDone job ((jobAt s job).snapGen + 1) ∈ t.notices ∧ t.drills = s.drills ∧ t.objs = s.objs)

/-- The commands of a mapped queue: a command that completes advances HEAD, which goes to the status line, and the next one is taken up; a command with a bit
set that it does not use, an address that does not translate, a bad record or a bad transfer halts the queue with its error code; a launch waits for a free
entry, a wait for its semaphore, a signal for the launches before it, a transfer for its report. Mapping, the mailbox, the report of a transfer, the writes of
another device's transfer and the event of an unmapped signaller follow (R208, R209, R424, R456 to R458). Where the spec leaves a point open it follows the
model's log: entries 51, 95, 108. -/
def Obligations.QueueEvents : Prop :=
  (∀ (die q op : Nat) (s u : State) (x : Queue) (w : List Nat), queueAt s die q = some x → headCommand s die q = .words u op w →
    let va := bitsOf (w.getD 0 0) 0 56
    let ends (i : Instr) (v : State) (ls : List Nat) : Prop := ∃ t, exec i s = .next (queueKick t die q) ∧
      QueueMoves v t die q { x with head := (x.head + 1) % 2 ^ 32, xfer := false, launches := x.launches ++ ls } []
    let halts (i : Instr) (v : State) (err : Nat) : Prop := ∃ t, exec i s = .next t ∧ QueueMoves v t die q { x with err } [.queueHalt die q err]
    Behind s u ∧
    (op = 0 → (restZero w 0 = true → ends (.queueNop die q) u []) ∧ (restZero w 0 = false → halts (.queueNop die q) u 1)) ∧
    (op = 1 → (restZero w 1 = false → halts (.queueLaunch die q) u 1) ∧ (restZero w 1 = true →
      (va % 64 ≠ 0 → halts (.queueLaunch die q) u 2) ∧
      (va % 64 = 0 →
        let v := ensureJob u x.job die
        let r := readRecord v (hubCore die) x.job false va none (jobAt v x.job).rootPhase
        (∀ y words ph deps, r = .ok y words ph deps →
          let c := createLaunch y die x.job va words ph deps none 0
          (launchEntries ≤ openLaunches y die → exec (.queueLaunch die q) s = .next u) ∧ (openLaunches y die < launchEntries → ends (.queueLaunch die q) c.1 [handleOf c.1 c.2])) ∧
        ((∀ y words ph deps, r ≠ .ok y words ph deps) → halts (.queueLaunch die q) u 2)))) ∧
    (op = 2 → (restZero w 2 = false → halts (.queueWait die q) u 1) ∧ (restZero w 2 = true →
      (semRead u die x.job va = none → halts (.queueWait die q) u 2) ∧
      ∀ v r, semRead u die x.job va = some (v, r) →
        (w.getD 1 0 ≤ bitsOf r 0 64 → ends (.queueWait die q) v []) ∧ (bitsOf r 0 64 < w.getD 1 0 → exec (.queueWait die q) s = .next v))) ∧
    (op = 3 → (restZero w 2 = false → halts (.queueSignal die q) u 1) ∧ (restZero w 2 = true →
      let allOver : Prop := ∀ h ∈ x.launches, launchOver u x.job h = true
      (¬allOver → exec (.queueSignal die q) s = .next u) ∧ (allOver →
        (semRead u die x.job va = none → halts (.queueSignal die q) u 2) ∧
        ∀ v r v1 pa tr, semRead u die x.job va = some (v, r) → translateNow v (hubCore die) x.job false .store va = (.hit pa tr, v1) →
          let y := coherentWrite v1 pa 8 (max (bitsOf r 0 64) (w.getD 1 0))
          ((∀ b, pa ≤ b → b < pa + 8 → AtHome v1 (b / 128)) → Written v1 y pa 8 (max (bitsOf r 0 64) (w.getD 1 0))) ∧
          ∃ t, exec (.queueSignal die q) s = .next (retestWaits (queueKick t die q)) ∧ QueueMoves y t die q { x with head := (x.head + 1) % 2 ^ 32, xfer := false } []))) ∧
    (op = 4 → (restZero w 3 = false → halts (.queueXfer die q) u 1) ∧ (restZero w 3 = true →
      let n := w.getD 2 0
      let dev := bitsOf (w.getD 1 0) 52 12
      let bad : Prop := n < 128 ∨ 2 ^ 30 < n ∨ n % 128 ≠ 0 ∨ dev = 0
      let ok : Prop := ∀ p, va / 65536 ≤ p → p < (va + n + 65535) / 65536 → max va (65536 * p) < 2 ^ 56 ∧ ∃ pa tr v, translateNow u (hubCore die) x.job false .load (max va (65536 * p)) = (.hit pa tr, v)
      (x.xfer = true → exec (.queueXfer die q) s = .next u) ∧ (x.xfer = false →
        (bad → halts (.queueXfer die q) u 1) ∧ (¬bad → (u.hokuxUp = [] → halts (.queueXfer die q) u 3) ∧ (u.hokuxUp ≠ [] →
          (¬ok → halts (.queueXfer die q) u 2) ∧
          (ok → ∃ t, exec (.queueXfer die q) s = .next t ∧ t = { u with dies := t.dies, notices := u.notices ++ [.xferSent dev (bitsOf (w.getD 1 0) 0 52) n] } ∧
            queueAt t die q = some { x with xfer := true } ∧ ∀ k j, k ≠ die ∨ j ≠ q → queueAt t k j = queueAt u k j)))))) ∧
    (op = 2 → ∀ v r, semRead u die x.job va = some (v, r) →
      let silent : Prop := ∀ d ∈ s.dies, ∀ y ∈ d.2.queues, ∀ i < min (bitsOf r 448 4) 12, y.2.qid ≠ bitsOf r (64 + 32 * i) 32
      let due : Prop := bitsOf r 0 64 < w.getD 1 0 ∧ silent ∧ (x.raisedAt = 0 ∨ x.raisedAt + cycles100us ≤ s.cycle + 1)
      (¬due → exec (.signallerUnmappedEvent die q) s = .next s) ∧
      (due → ∃ t, exec (.signallerUnmappedEvent die q) s = .next t ∧ queueAt t die q = some { x with raisedAt := s.cycle + 1 } ∧ t.notices = s.notices ++ [.signallerUnmapped die q] ∧
        t.drills = s.drills ∧ t.objs = s.objs))) ∧
  (∀ (die q : Nat) (s : State) (x : Queue), queueAt s die q = some x → x.xfer = true →
    (∃ t, exec (.xferComplete die q true) s = .next (queueKick t die q) ∧ QueueMoves s t die q { x with head := (x.head + 1) % 2 ^ 32, xfer := false } []) ∧
    ∃ t, exec (.xferComplete die q false) s = .next t ∧ QueueMoves s t die q { x with xfer := false, err := 3 } [.queueHalt die q 3]) ∧
  (∀ (addr : Nat) (data : List (BitVec 8)) (s : State),
    let present : Prop := ∀ i < data.length, (tierOf (addr + i)).isSome = true ∧ inHubWindow (addr + i) = false
    (¬present → exec (.incomingXfer addr data) s = .fault .absentAddress) ∧
    (present → ∃ t, exec (.incomingXfer addr data) s = .next t ∧ Behind s t ∧
      ((∀ b, addr ≤ b → b < addr + data.length → AtHome s (b / 128)) → Written s t addr data.length (packFields 8 (fun i => (data.getD i 0).toNat) data.length)))) ∧
  (∀ (die pair q : Nat) (s : State), (∀ e ∈ (dieAt s die).queues, e.2.pair ≠ pair) → (below 64).find? (fun k => (tabFind (dieAt s die).queues k).isNone) = some q →
    let v := tabGet 0 (dieAt s die).mailLine pair
    let st := freshRead s (statusAt s die pair) 8
    (mailOk v = false → exec (.queueSlotMap die pair true) s = .next s) ∧
    (mailOk v = true → ∃ t, exec (.queueSlotMap die pair true) s = .next (queueKick t die q) ∧ t = { s with dies := t.dies } ∧ (∀ k j, k ≠ die ∨ j ≠ q → queueAt t k j = queueAt s k j) ∧
      queueAt t die q = some { qid := bitsOf v.toNat 128 32, job := bitsOf v.toNat 176 16, ring := BitVec.ofNat 56 (bitsOf v.toNat 64 56), log2n := bitsOf v.toNat 160 5, tail := bitsOf v.toNat 0 32, head := bitsOf st 0 32, err := bitsOf st 32 8, pair })) ∧
  (∀ (die pair q : Nat) (s : State) (x : Queue), (dieAt s die).queues.find? (fun e => decide (e.2.pair = pair)) = some (q, x) →
    ∃ t, exec (.queueSlotMap die pair false) s = .next t ∧ t = { s with dies := t.dies } ∧ queueAt t die q = none ∧ ∀ k j, k ≠ die ∨ j ≠ q → queueAt t k j = queueAt s k j) ∧
  ∀ (die pair : Nat) (data : Vec) (s : State), pair < 64 →
    let line := ((dieAt s die).mailBase + 256 * pair) / 128
    let seq := bitsOf data.toNat 32 32
    ∃ v, Behind s v ∧ (AtHome s line → ∀ b, b / 128 = line → freshByte v b = lineByte data (b % 128)) ∧
      (tabGet 0 (dieAt s die).seqSeen pair = seq → exec (.mailboxWrite die pair data) s = .next v) ∧
      (tabGet 0 (dieAt s die).seqSeen pair ≠ seq → ∃ t, tabGet 0 (dieAt t die).seqSeen pair = seq ∧ tabFind (dieAt t die).mailLine pair = some data ∧
        t = { v with dies := t.dies, notices := v.notices ++ [.mailbox die pair] } ∧
        ((∀ e ∈ (dieAt s die).queues, e.2.pair ≠ pair) → exec (.mailboxWrite die pair data) s = .next t) ∧
        ∀ q x, (dieAt s die).queues.find? (fun e => decide (e.2.pair = pair)) = some (q, x) → queueAt s die q = some x →
          exec (.mailboxWrite die pair data) s = .next (queueKick t die q) ∧ queueAt t die q = some { x with tail := bitsOf data.toNat 0 32 })

/-- The events of the hubs, the Tendrils and the cloches: an operation without the right to its line sends for it and is held; a fill, a renewal and a verify
extend the region's lease and answer with its stamps; a store is stamped past the lease and its bytes reach memory; a response, a fill and a verdict change
the copy or the entry they name; one step of a Tendril admits a lone access; a landing and a write-back are acknowledged; regions merge, and stamps are
rebased (R244, R248, R252, R255, R266 to R272, R288 to R290, R413, R416, R467). Where the spec leaves a point open it follows the model's log: entries 10, 23,
42, 43. -/
def Obligations.HubEvents : Prop :=
  (∀ (e : Instr) (s : State) (m : Msg) (die line : Nat) (own : Bool), hubAsk s e = some (m, die, line, own) → reachable s line = true → ¬HasRight s die line own →
    ∃ t, exec e s = .next t ∧ t = { s with dies := t.dies, agenda := t.agenda } ∧ m ∈ (dieAt t die).held ∧ (∀ x, x ∈ s.agenda → x ∈ t.agenda) ∧
      (heldFor s die line = false → (if own then (if hubState s die line = .i then .rdx line die else .upg line die) else .rds line die) ∈ t.agenda)) ∧
  (∀ (e : Instr) (s : State) (m : Msg) (die cl line dt lease : Nat) (own : Bool) (answers : Region → Vec × BitVec 4 → List Msg),
    hubAsk s e = some (m, die, line, own) → hubLease e = some (cl, line, dt, lease, answers) → HasRight s die line own →
    let h := holdLine s die line
    let r := (hubOp (dieAt h die) cl line false).2
    let rts := max r.rts (dt + lease)
    (rts ≤ stampLimit → ∃ t, exec e s = .next t ∧ t.mem = s.mem ∧ RegionMoves s t die r r.wts rts (answers r (hubData h die line))) ∧
    (stampLimit < rts → ∃ t, exec e s = .next t ∧ m ∈ (dieAt t die).held ∧ (dieAt t die).exhausted = true ∧ t.drills = s.drills ∧ t.mem = s.mem ∧
      ((dieAt h die).exhausted = false → .stampExhaustion die ∈ t.notices))) ∧
  (∀ (id : Nat) (s : State) (p : PendStore), tabFind s.stores id = some p → HasRight s (dieOfCl p.cl) p.line true →
    let die := dieOfCl p.cl
    let r := (hubOp (dieAt (holdLine s die p.line) die) p.cl p.line true).2
    let w := max (r.rts + 1) p.dt
    (w ≤ stampLimit → ∃ t, exec (.hubStoreStamp id) s = .next t ∧ RegionMoves s t die r w w [.stampResponse id w r.wts] ∧
      (privateCopies s p.line = [] → ∀ b, b / 128 = p.line → bitOf p.bytes.toNat (b % 128) = true → freshByte t b = lineByte p.data (b % 128)))) ∧
  (∀ (id w wts : Nat) (s : State) (p : PendStore), tabFind s.stores id = some p → (∀ d, drillAt s p.slot = some d → d.due = none) →
    ∃ t, exec (.stampResponse id w wts) s = .next t ∧ t.stores = tabDel s.stores id ∧ t.mem = s.mem ∧ t.objs = s.objs ∧
      (∀ d, drillAt s p.slot = some d → ∃ e, drillAt t p.slot = some e ∧ e = { d with pstamp := max d.pstamp w, stemWait := e.stemWait, leafWait := e.leafWait } ∧
        e.stemWait ≠ .stores ∧ e.leafWait ≠ .stores) ∧
      ∀ x, copyAt s p.cl p.line = some x → ∃ y, copyAt t p.cl p.line = some y ∧
        y.pend = x.pend &&& (pendingBytes { s with stores := tabDel s.stores id } p.cl p.line ||| ~~~p.bytes) ∧
        (if x.have' ≠ 0 ∧ x.wts = wts then y.wts = w ∧ y.rts = w else y.wts = x.wts ∧ y.rts = x.rts) ∧ y.data = x.data ∧ y.have' = x.have') ∧
  (∀ (cl line slot wts rts : Nat) (data : Option Vec) (psn : BitVec 4) (s : State) (tile : TileSt), tabFind (clAt s cl).tiles (line / 16) = some tile →
    (tabGet { shared := true } tile.lines line).shared = true →
    ∃ t, exec (.leaseResponse cl line slot wts rts data psn) s = .next t ∧ copyAt t cl line = some (leaseCopy (tabGet { shared := true } tile.lines line) wts rts data psn) ∧
      t = { s with drills := t.drills, clusters := t.clusters } ∧ ∀ c l, c ≠ cl ∨ l ≠ line → copyAt t c l = copyAt s c l) ∧
  (∀ (cl line : Nat) (s : State) (tile : TileSt), HasRight s (dieOfCl cl) line true → tabFind (clAt s cl).tiles (line / 16) = some tile → (tabGet {} tile.lines line).shared = false →
    ∃ t, exec (.tileFillReturn cl (line / 16) line) s = .next t ∧ copyAt t cl line = some (fillCopy (tabGet {} tile.lines line) (freshLine s line) (freshLinePsn s line)) ∧
      t = { s with drills := t.drills, clusters := t.clusters } ∧ ∀ c l, c ≠ cl ∨ l ≠ line → copyAt t c l = copyAt s c l) ∧
  (∀ (core ent line wts : Nat) (struck : Bool) (s : State) (x : ClEntry) (d : Drill), tabFind (coreAt s core).cloche ent = some x → x.state = 1 →
    drillAt s (16 * core + x.ctx) = some d → (jobAt s d.job).replay = .free →
    ∃ t e, exec (.clocheVerdict core ent line wts struck) s = .next t ∧ tabFind (coreAt t core).cloche ent = (if struck then some { x with state := 2 } else none) ∧
      drillAt t (16 * core + x.ctx) = some e ∧ e.lstamp = (if struck then d.lstamp else max d.lstamp wts) ∧ e.dt = d.dt ∧ e.g = d.g ∧ t.mem = s.mem) ∧
  (∀ (cl core : Nat) (s : State) (a : Access) (d : Drill), core / 48 = cl → (coreAt s core).queue.head? = some a → (∀ k, k / 48 = cl → k ≠ core → (coreAt s k).queue = []) →
    chaseHeld (clAt s cl) a = false → a.kind = 0 → drillAt s a.slot = some d → (jobAt s d.job).replay = .free →
    ∃ t e, exec (.tendrilStep cl) s = .next t ∧ drillAt t a.slot = some e ∧ (a.leaf, a.tile) ∈ e.granted ∧ (coreAt t core).queue = (coreAt s core).queue.drop 1 ∧ (coreAt t core).lost = 0 ∧
      (clAt t cl).stepNo = (clAt s cl).stepNo + 1 ∧ (a.slot, a.leaf, a.tile) ∈ (clAt t cl).order ∧ t.objs = s.objs ∧ t.mem = s.mem) ∧
  (∀ (cl tile : Nat) (s : State), ∃ t, exec (.tileLand cl tile) s = .next t ∧ t = { s with clusters := t.clusters } ∧
    ∀ x, tabFind (clAt s cl).tiles tile = some x → tabFind (clAt t cl).tiles tile = some (if x.moving then { x with moving := false, chase := [] } else x)) ∧
  (∀ (cl tile : Nat) (s : State), ∃ t, exec (.tileWritebackAck cl tile) s = .next t ∧ tabGet [] (clAt t cl).wback tile = [] ∧ (clAt t cl).tiles = (clAt s cl).tiles ∧ t.objs = s.objs ∧
    ∀ k d, drillAt s k = some d → ∃ e, drillAt t k = some e ∧ e = { d with stemWait := e.stemWait, leafWait := e.leafWait } ∧ e.stemWait ≠ .retire) ∧
  (∀ (die base size : Nat) (s : State) (a b : Region), (dieAt s die).regions.find? (fun r => decide (r.base = base ∧ r.size = size)) = some a →
    (dieAt s die).regions.find? (fun r => decide (r.base = base + size ∧ r.size = size)) = some b → siblings a b = true →
    4096 ≤ (dieAt s die).ops - a.lastConflict → 4096 ≤ (dieAt s die).ops - b.lastConflict →
    ∃ t x, exec (.regionMerge die base size) s = .next t ∧ t = { s with dies := t.dies } ∧ x ∈ (dieAt t die).regions ∧ x.base = base ∧ x.size = 2 * size ∧
      x.wts = max a.wts b.wts ∧ x.rts = max a.rts b.rts ∧ ∀ r ∈ (dieAt t die).regions, r = x ∨ r ∈ (dieAt s die).regions) ∧
  (∀ (die : Nat) (s : State),
    ((∃ k d, drillAt s k = some d ∧ dieOf k = die) → ∃ t, exec (.stampRebase die) s = .next t ∧ t = { s with drills := t.drills, agenda := t.agenda } ∧
      ∀ k d, drillAt s k = some d → dieOf k = die → .preemptionTrap k ∈ t.agenda ∧ drillAt t k = some { d with preempt := some (d.preempt.getD 0) }) ∧
    ((∀ e ∈ s.drills, dieOf e.1 ≠ die) → ∃ t, exec (.stampRebase die) s = .next t ∧ t.drills = s.drills ∧ (dieAt t die).hs = 1 ∧ (dieAt t die).exhausted = false ∧ (dieAt t die).held = [] ∧
      (∀ r ∈ (dieAt t die).regions, r.wts = 1 ∧ r.rts = 1) ∧ (∀ e ∈ (dieAt t die).tray, e.dt = 1) ∧ (∀ i o, objAt t i = some o → o.die = die → o.stamp = 1) ∧
      ∀ m ∈ (dieAt s die).held, m ∈ t.agenda))

/-- The events of pages: a private page that another cluster reaches becomes shared; a walk ends with an entry in the caches or with a fault for the words
that wait; a cache drops an entry; a page joins its ring and a parked load goes on; a bench map is written, and written back; a page is locked, moved or left
where it is; another die answers a shootdown (R271, R304, R307 to R317, R421). Where the spec leaves a point open it follows the model's log: entries 46, 77,
78, 79. -/
def Obligations.PageEvents : Prop :=
  (∀ (pte : Nat) (s : State), bitOf (freshRead s (pte + 8) 8) 60 = true ∨ bitOf (freshRead s (pte + 8) 8) 59 = false →
    ∃ t, exec (.pageReclassify pte) s = .next t ∧ t = { s with drills := t.drills } ∧
      ∀ k d, drillAt s k = some d → ∃ e, drillAt t k = some e ∧ e = { d with stemWait := e.stemWait, leafWait := e.leafWait } ∧ e.stemWait ≠ .line ∧ e.leafWait ≠ .line) ∧
  (∀ (pte lo hi : Nat) (s : State), let w := freshRead s (pte + 8) 8
    bitOf w 60 = false → bitOf w 59 = true → bitOf w 63 = false → (lo, hi) = pteRange s pte → HomeRange s (pte + 8) 8 →
    (clAt s (bitsOf w 55 4)).order.any (fun a => decide (lo ≤ a.2.2 * 2048 ∧ a.2.2 * 2048 < hi)) = false →
    ∃ t, exec (.pageReclassify pte) s = .next t ∧ freshRead t (pte + 8) 8 = w + 2 ^ 60 ∧ NoTrans t pte ∧ t.objs = s.objs ∧ t.jobs = s.jobs ∧
      (∀ r ∈ (dieAt t (dieOfCl (bitsOf w 55 4))).regions, r.base < hi → lo < r.base + r.size →
        r.wts = (dieAt t (dieOfCl (bitsOf w 55 4))).hs ∧ r.rts = (dieAt t (dieOfCl (bitsOf w 55 4))).hs) ∧
      (∀ k d, drillAt s k = some d → ∃ e, drillAt t k = some e ∧ e = { d with stemWait := e.stemWait, leafWait := e.leafWait } ∧ e.stemWait ≠ .line ∧ e.leafWait ≠ .line)) ∧
  (∀ (die job page : Nat) (store : Bool) (s : State) (x : Trans), (jobAt s job).rootOk = true → bitOf (page * 4096) 55 = false → nativeWalk s job (page * 4096) = some x →
    ∃ t, exec (.translationWalk die job page store) s = .next t ∧ t = { s with drills := t.drills, cores := t.cores, dies := t.dies } ∧ x ∈ (dieAt t die).tcache ∧
      ∀ k d, drillAt s k = some d → ∃ e, drillAt t k = some e ∧ e = { d with stemWait := e.stemWait, leafWait := e.leafWait } ∧ e.stemWait ≠ .walk ∧ e.leafWait ≠ .walk ∧
        (dieOf k = die → d.job = job → d.stemWait = .walk ∨ d.leafWait = .walk → x ∈ (coreAt t (coreOf k)).tcache)) ∧
  (∀ (die job page : Nat) (store : Bool) (s : State), (jobAt s job).rootOk = false ∨ (bitOf (page * 4096) 55 = false ∧ nativeWalk s job (page * 4096) = none) →
    ∃ t, exec (.translationWalk die job page store) s = .next t ∧ t = { s with drills := t.drills } ∧
      ∀ k d, drillAt s k = some d → ∃ e, drillAt t k = some e ∧ e = { d with stemWait := e.stemWait, leafWait := e.leafWait, walked := e.walked } ∧ e.stemWait ≠ .walk ∧ e.leafWait ≠ .walk ∧
        (dieOf k = die → d.job = job → (d.stemWait = .walk → (false, page, cTranslation) ∈ e.walked) ∧ (d.leafWait = .walk → (true, page, cTranslation) ∈ e.walked))) ∧
  (∀ (core job page : Nat) (dieLevel : Bool) (s : State), ∃ t, exec (.translationCacheDrop core dieLevel job page) s = .next t ∧ t = { s with cores := t.cores, dies := t.dies } ∧
    ∀ x, x ∈ (if dieLevel then (dieAt t (core / 192)).tcache else (coreAt t core).tcache) ↔
      x ∈ (if dieLevel then (dieAt s (core / 192)).tcache else (coreAt s core).tcache) ∧ ¬(x.job = job ∧ x.page = page)) ∧
  (∀ (die size pa : Nat) (s : State), size ≤ 2 → (tabGet [] (dieAt s die).pool size).length < 4096 → pa % 2 ^ shiftOf size = 0 →
    ∃ t, exec (.poolPageAdd die size pa) s = .next t ∧ t = { s with drills := t.drills, dies := t.dies } ∧
      (∀ z, tabGet [] (dieAt t die).pool z = if z = size then tabGet [] (dieAt s die).pool size ++ [pa] else tabGet [] (dieAt s die).pool z) ∧
      ((∃ k d v, drillAt s k = some d ∧ d.stemWait = .pool die size v) → ∃ k d v, (k, d) ∈ s.drills ∧ d.stemWait = .pool die size v ∧ drillAt t k = some { d with stemWait := .none }) ∧
      ((∀ e ∈ s.drills, ∀ v, e.2.stemWait ≠ .pool die size v) → t.drills = s.drills)) ∧
  (∀ (core idx off len job : Nat) (va : VAddr) (s : State), idx < 8 → len ≠ 0 → off % 2048 = 0 → len % 2048 = 0 → va.toNat % 2048 = 0 → off + len ≤ benchSize s core → va.toNat + len ≤ 2 ^ 56 →
    ∃ t, exec (.benchMapWrite core idx off len va job) s = .next t ∧ t = { s with cores := t.cores } ∧ tabFind (coreAt t core).bmap idx = some { off, len, va, job } ∧
      (∀ j, j ≠ idx → tabFind (coreAt t core).bmap j = tabFind (coreAt s core).bmap j) ∧ ∀ c, c ≠ core → coreAt t c = coreAt s c) ∧
  (∀ (core idx off job : Nat) (va : VAddr) (s : State), idx < 8 → ∃ t, exec (.benchMapWrite core idx off 0 va job) s = .next t ∧ t = { s with agenda := t.agenda } ∧
    ((tabFind (coreAt s core).bmap idx).isSome = true → .benchMapWriteback core idx ∈ t.agenda)) ∧
  (∀ (core idx : Nat) (s : State) (b : BenchMap), tabFind (coreAt s core).bmap idx = some b → b.dirty = [] →
    ∃ t, exec (.benchMapWriteback core idx) s = .next t ∧ t = { s with cores := t.cores } ∧ tabFind (coreAt t core).bmap idx = none ∧
      (∀ j, j ≠ idx → tabFind (coreAt t core).bmap j = tabFind (coreAt s core).bmap j) ∧ ∀ c, c ≠ core → coreAt t c = coreAt s c) ∧
  (∀ (core idx : Nat) (s u : State) (b : BenchMap) (k : Nat), tabFind (coreAt s core).bmap idx = some b → b.dirty = [k] → tileBack s core k b = some u →
    ∃ t, exec (.benchMapWriteback core idx) s = .next t ∧ t = { u with cores := t.cores } ∧ tabFind (coreAt t core).bmap idx = none ∧
      ∀ c, c ≠ core → coreAt t c = coreAt u c) ∧
  (∀ (core idx : Nat) (s : State) (b : BenchMap) (k : Nat), tabFind (coreAt s core).bmap idx = some b → b.dirty = [k] → tileBack s core k b = none →
    ∃ t, exec (.benchMapWriteback core idx) s = .next t ∧ tabFind (coreAt t core).bmap idx = some b ∧ .benchWriteBack core idx ∈ t.notices ∧ t.mem = s.mem ∧ t.objs = s.objs) ∧
  (∀ (die job frame pte : Nat) (va : VAddr) (s : State) (x : Trans), (dieAt s die).move = none → (jobAt s job).rootOk = true → bitOf va.toNat 55 = false →
    nativeWalk s job va.toNat = some x → x.pte = some pte → x.shift ≤ 21 → bitOf (freshRead s (pte + 8) 8) 63 = false → frame % 2 ^ x.shift = 0 →
    nearFrame x.frame = true → nearFrame frame = true → nearFrame (frame + 2 ^ x.shift - 1) = true → frame + 2 ^ x.shift ≤ x.frame ∨ x.frame + 2 ^ x.shift ≤ frame → HomeRange s (pte + 8) 8 →
    ∃ t, exec (.migrationMove die job va frame) s = .next t ∧ freshRead t (pte + 8) 8 = freshRead s (pte + 8) 8 + 2 ^ 63 ∧ NoTrans t pte ∧ AllStruck t (fun _ => true) job ∧
      (∃ m, (dieAt t die).move = some m ∧ m.job = job ∧ m.va = va ∧ m.pte = pte ∧ m.frame = frame ∧ m.old = x.frame ∧ m.size = 2 ^ x.shift ∧ m.locked.toNat = freshRead s (pte + 8) 8 + 2 ^ 63) ∧
      .migrationMove die job va frame ∈ t.agenda ∧ t.objs = s.objs) ∧
  (∀ (die job frame : Nat) (va : VAddr) (s : State) (m : Move), (dieAt s die).move = some m → m.job ≠ job ∨ m.va ≠ va ∨ m.frame ≠ frame ∨ moveBusy s m = true →
    exec (.migrationMove die job va frame) s = .next s) ∧
  (∀ (die : Nat) (s : State) (m : Move), (dieAt s die).move = some m → moveBusy s m = false → m.old % 2048 = 0 → NoTiles s m.old (m.old + m.size) → HomeRange s (m.pte + 8) 8 →
    (∃ k, k < m.size / 32 ∧ freshPsn s (m.old + 32 * k) = true) ∨ freshRead s (m.pte + 8) 8 ≠ m.locked.toNat →
    ∃ t, exec (.migrationMove die m.job m.va m.frame) s = .next t ∧ (dieAt t die).move = none ∧ NoTrans t m.pte ∧ t.objs = s.objs ∧
      freshRead t (m.pte + 8) 8 = freshRead s (m.pte + 8) 8 - bitsOf (freshRead s (m.pte + 8) 8) 63 1 * 2 ^ 63) ∧
  (∀ (die : Nat) (s : State) (m : Move), (dieAt s die).move = some m → moveBusy s m = false → m.old % 2048 = 0 → NoTiles s m.old (m.old + m.size) → HomeRange s (m.pte + 8) 8 → HomeRange s m.frame m.size →
    (∀ k, k < m.size / 32 → freshPsn s (m.old + 32 * k) = false) → freshRead s (m.pte + 8) 8 = m.locked.toNat → m.pte + 16 ≤ m.frame ∨ m.frame + m.size ≤ m.pte + 8 →
    ∃ t, exec (.migrationMove die m.job m.va m.frame) s = .next t ∧ (dieAt t die).move = none ∧ NoTrans t m.pte ∧ t.objs = s.objs ∧
      freshRead t (m.pte + 8) 8 = movedWord m.locked.toNat m.frame ((tierOf m.frame).getD 0) ∧ ∀ i, i < m.size → freshByte t (m.frame + i) = freshByte s (m.old + i)) ∧
  (∀ (die id : Nat) (s : State) (x : Shoot), tabFind s.shoots id = some x →
    ∃ t, exec (.shootRemote die id) s = .next t ∧ t = { s with drills := t.drills, cores := t.cores, dies := t.dies, shoots := t.shoots, agenda := t.agenda } ∧
      tabFind t.shoots id = some { x with await := x.await.filter (fun k => decide (k ≠ die)) } ∧ AllStruck t (fun c => decide (c / 192 = die)) x.job ∧
      (∀ y, y ∈ (dieAt t die).tcache → ¬(y.job = x.job ∧ transOverlaps y x.lo x.len = true)) ∧
      (∀ c y, c / 192 = die → y ∈ (coreAt t c).tcache → ¬(y.job = x.job ∧ transOverlaps y x.lo x.len = true)) ∧
      ∀ k d, drillAt s k = some d → ∃ e, drillAt t k = some e ∧ e = { d with stemWait := e.stemWait, leafWait := e.leafWait } ∧ ∀ i, e.stemWait ≠ .shoot i)

/-- The protocol between the die hubs and a line's home: a request waits for an earlier one, else the home sends the data or the grant, forwards to the owner
or invalidates the other holders; holders give up what they are asked for; data and acknowledgements move the requester and the directory; lines are written
back and evicted; an atomic is performed at its point of coherence and answered (spec 26, R409 to R418; 15, R280). Where the spec leaves a point open it
follows the model's log: entries 5, 34, 49. -/
def Obligations.CoherenceEvents : Prop :=
  (∀ (e : Instr) (s : State) (m : Msg) (line k y : Nat), hubRequest e = some (m, line, k, y) → (busyAt s line).isSome = true →
    ∃ t, exec e s = .next t ∧ t = { s with dies := t.dies } ∧ (dieAt t (homeOf s (line * 128))).waiting = (dieAt s (homeOf s (line * 128))).waiting ++ [m] ∧
      ∀ d, d ≠ homeOf s (line * 128) → dieAt t d = dieAt s d) ∧
  (∀ (e : Instr) (s : State) (m : Msg) (line k y : Nat), hubRequest e = some (m, line, k, y) → Servable s line y → y < 4 → hubOwner s line = none → (∀ a, a < 5 → a ≠ y → agentState s line a = .i) →
    (y ≠ homeOf s (line * 128) → ∃ t, exec e s = .next t ∧ busyAt t line = some { kind := k, req := y, await := [y], sent := true } ∧
      .coherenceData line y (if k = 0 then .e else .m) (homeData s line).1 (homeData s line).2 ∈ t.agenda ∧ t.mem = s.mem ∧ t.drills = s.drills ∧ t.objs = s.objs) ∧
    (y = homeOf s (line * 128) → ∃ t, exec e s = .next t ∧ busyAt t line = none ∧ agentState t line y = (if k = 0 then .e else .m) ∧ t.mem = s.mem ∧ t.drills = s.drills ∧ t.objs = s.objs ∧
      ∀ x ∈ (dieAt s y).waiting, x ∈ t.agenda)) ∧
  (∀ (line y x : Nat) (s : State), Servable s line y → y < 4 → x < 4 → x ≠ y → isOwner (agentState s line x) = true → (∀ a, a < 5 → a ≠ y → a ≠ x → isOwner (agentState s line a) = false) →
    ∃ t, exec (.rds line y) s = .next t ∧ busyAt t line = some { kind := 0, req := y, await := [y], sent := true } ∧ .fwds line x y ∈ t.agenda ∧ t.mem = s.mem ∧ t.drills = s.drills ∧ t.objs = s.objs) ∧
  (∀ (e : Instr) (s : State) (m : Msg) (line k y : Nat), hubRequest e = some (m, line, k, y) → k ≠ 0 → Servable s line y → (∀ a b, a < 5 → b < 5 → a ≠ y → b ≠ y →
      isOwner (agentState s line a) = true → isOwner (agentState s line b) = true → a = b) → y < 4 →
    (∀ x, x < 4 → x ≠ y → isOwner (agentState s line x) = true → (∀ a, ¬toDrop s line y a) →
      ∃ t, exec e s = .next t ∧ busyAt t line = some { kind := k, req := y, await := [y], sent := true } ∧ .fwdx line x y ∈ t.agenda ∧ t.mem = s.mem ∧ t.drills = s.drills ∧ t.objs = s.objs) ∧
    ((∃ a, toDrop s line y a) → ∃ t b, exec e s = .next t ∧ busyAt t line = some b ∧ b.kind = k ∧ b.req = y ∧ b.sent = false ∧ (∀ a, a ∈ b.await ↔ toDrop s line y a) ∧
      (∀ a, toDrop s line y a → if a = 4 then .biSnp line 0 ∈ t.notices else .inv line a y ∈ t.agenda) ∧ t.mem = s.mem ∧ t.drills = s.drills ∧ t.objs = s.objs)) ∧
  (∀ (line holder req : Nat) (s : State) (h : HubLine), tabFind (dieAt s holder).lines line = some h → holder ≠ homeOf s (line * 128) →
    (∃ t, exec (.fwds line holder req) s = .next t ∧ .coherenceData line req .s h.data h.psn ∈ t.agenda ∧
      tabFind (dieAt t holder).lines line = some { h with st := if h.st = .m ∨ h.st = .o then .o else .s } ∧ t.mem = s.mem ∧ t.drills = s.drills ∧ t.objs = s.objs) ∧
    (∃ t, exec (.fwdx line holder req) s = .next t ∧ .coherenceData line req .m h.data h.psn ∈ t.agenda ∧ tabFind (dieAt t holder).lines line = none ∧ t.mem = s.mem ∧ t.drills = s.drills ∧ t.objs = s.objs) ∧
    (∃ t, exec (.inv line holder req) s = .next t ∧ .coherenceAck line holder false ∈ t.agenda ∧ tabFind (dieAt t holder).lines line = none ∧ t.drills = s.drills ∧ t.objs = s.objs ∧
      ∀ b, memByte t b = if b / 128 = line ∧ (h.st = .m ∨ h.st = .o) then BitVec.ofNat 8 (lineByte h.data (b % 128)) else memByte s b)) ∧
  (∀ (e : Instr) (line holder req : Nat) (s : State), e = .fwds line holder req ∨ e = .fwdx line holder req ∨ e = .inv line holder req → tabFind (dieAt s holder).lines line = none →
    ∃ t, exec e s = .next t ∧ t = { s with agenda := t.agenda } ∧ .coherenceAck line holder true ∈ t.agenda) ∧
  (∀ (line die : Nat) (st : LineSt) (data : Vec) (psn : BitVec 4) (s : State), tabFind (dieAt s die).lines line = none → die ≠ homeOf s (line * 128) →
    ∃ t, exec (.coherenceData line die st data psn) s = .next t ∧ tabFind (dieAt t die).lines line = some { st, data, psn } ∧ .coherenceAck line die false ∈ t.agenda ∧
      (∀ m ∈ (dieAt s die).held, msgLine s m = some line → m ∈ t.agenda) ∧ t.mem = s.mem ∧ t.drills = s.drills ∧ t.objs = s.objs) ∧
  (∀ (line : Nat) (s : State) (b : Busy) (h : HubLine), busyAt s line = some b → b.sent = true → b.req < 4 → b.req ≠ homeOf s (line * 128) → tierOf (line * 128) ≠ some 2 →
    tabFind (dieAt s b.req).lines line = some h → h.st ≠ .i →
    ∃ t, exec (.coherenceAck line b.req false) s = .next t ∧ busyAt t line = none ∧ agentState t line b.req = (if b.kind = 0 then h.st else .m) ∧
      (∀ m ∈ (dieAt s (homeOf s (line * 128))).waiting, m ∈ t.agenda) ∧ t.mem = s.mem ∧ t.drills = s.drills ∧ t.objs = s.objs) ∧
  (∀ (line agent : Nat) (gone : Bool) (s : State) (b : Busy), busyAt s line = some b → b.sent = false → agent < 5 → DirOk s line → b.await.filter (fun a => decide (a ≠ agent)) ≠ [] →
    ∃ t, exec (.coherenceAck line agent gone) s = .next t ∧ busyAt t line = some { b with await := b.await.filter (fun a => decide (a ≠ agent)) } ∧
      (agent ≠ homeOf s (line * 128) → agentState t line agent = .i) ∧ t.mem = s.mem ∧ t.drills = s.drills ∧ t.objs = s.objs) ∧
  (∀ (line agent : Nat) (gone : Bool) (s : State) (b : Busy), busyAt s line = some b → b.sent = false → b.await = [agent] → DirOk s line → hubOwner s line = none → b.kind = 1 ∨ b.kind = 2 → b.req < 4 → agent < 5 → b.req ≠ agent → b.req ≠ homeOf s (line * 128) →
    (∀ a, a < 5 → a ≠ b.req → a ≠ agent → agentState s line a = .i) → (agent = homeOf s (line * 128) → agentState s line agent = .i) →
    ∃ t, exec (.coherenceAck line agent gone) s = .next t ∧ busyAt t line = some { b with await := [b.req], sent := true } ∧
      .coherenceData line b.req .m (homeData s line).1 (homeData s line).2 ∈ t.agenda ∧ t.mem = s.mem ∧ t.drills = s.drills ∧ t.objs = s.objs) ∧
  (∀ (line agent : Nat) (data : Vec) (psn : BitVec 4) (s : State) (h : HubLine), tabFind (dieAt s agent).lines line = some h → agent ≠ homeOf s (line * 128) → tabFind s.hostSide line = none → DirOk s line →
    (h.st = .m ∨ h.st = .o → ∃ t, exec (.wb line agent data psn) s = .next t ∧ tabFind (dieAt t agent).lines line = none ∧ (agent < 5 → agentState t line agent = .i) ∧
      (∀ b, memByte t b = if b / 128 = line then BitVec.ofNat 8 (lineByte h.data (b % 128)) else memByte s b) ∧ t.drills = s.drills ∧ t.objs = s.objs) ∧
    (h.st = .e ∨ h.st = .s → ∃ t, exec (.evict line agent) s = .next t ∧ tabFind (dieAt t agent).lines line = none ∧ (agent < 5 → agentState t line agent = .i) ∧
      t.mem = s.mem ∧ t.drills = s.drills ∧ t.objs = s.objs)) ∧
  (∀ (id : Nat) (s : State) (r : Remote), tabFind s.remotes id = some r → reachable s (r.pa / 128) = true → ¬HasRight s r.hub (r.pa / 128) true →
    ∃ t, exec (.homeAtomic id) s = .next t ∧ t = { s with dies := t.dies, agenda := t.agenda } ∧ .homeAtomic id ∈ (dieAt t r.hub).held) ∧
  (∀ (id : Nat) (s : State) (r : Remote), tabFind s.remotes id = some r → HasRight s r.hub (r.pa / 128) true →
    let h := holdLine s r.hub (r.pa / 128)
    let x := hubData h r.hub (r.pa / 128)
    let old := bitsOf x.1.toNat (8 * (r.pa % 128)) (8 * r.size)
    let g := (hubOp (dieAt h r.hub) (clusterOf r.slot) (r.pa / 128) true).2
    let w := if (amoWrite (8 * r.size) r.op old r.arg r.cmp).isSome then max (g.rts + 1) r.dt else g.wts
    bitOf x.2.toNat (r.pa % 128 / 32) = false → w ≤ stampLimit →
    ∃ t, exec (.homeAtomic id) s = .next t ∧ tabFind t.remotes id = some { r with stamp := w, wts := g.wts } ∧ .atomicResponse id (BitVec.ofNat 64 old) false ∈ t.agenda ∧
      t.drills = s.drills ∧ t.objs = s.objs ∧ t.clusters = s.clusters ∧
      ∀ y, amoWrite (8 * r.size) r.op old r.arg r.cmp = some y → privateCopies s (r.pa / 128) = [] → r.pa % 128 + r.size ≤ 128 → y < 2 ^ (8 * r.size) → freshRead t r.pa r.size = y) ∧
  (∀ (id : Nat) (old : Word) (psn : Bool) (s : State) (r : Remote) (d : Drill), tabFind s.remotes id = some r → drillAt s r.slot = some d →
    ∃ t e, exec (.atomicResponse id old psn) s = .next t ∧ tabFind t.remotes id = some { r with answer := some (old.toNat, psn) } ∧ drillAt t r.slot = some e ∧
      (if r.hub = dieOf r.slot then e.dt = d.dt ∧ e.lstamp = max d.lstamp r.wts ∧ e.pstamp = max d.pstamp r.stamp
        else e.dt = max d.dt ((dieAt s (dieOf r.slot)).hs + 1) ∧ e.lstamp = max d.lstamp ((dieAt s (dieOf r.slot)).hs + 1) ∧ e.pstamp = max d.pstamp ((dieAt s (dieOf r.slot)).hs + 1)) ∧
      e.g = d.g ∧ e.pc = d.pc ∧ (∀ i, e.stemWait ≠ .atomic i) ∧ t.mem = s.mem ∧ t.objs = s.objs)

/-- The events of the stacks, the mesh and the error checks: congestion levels, the throttle pointer, refreshes, rows, the scrubbers and the retention
filters, retraining, the riser tester, the arbitration of the mesh, and single errors in every part (R205, R399 to R401, R427 to R436, R437 to R442, R465).
Where the spec leaves a point open it follows the model's log: entries 80, 81, 82, 83, 84, 85, 86, 87. -/
def Obligations.StackEvents : Prop :=
  (∀ (die : Nat) (s : State), ∃ t, exec (.congestionSample die) s = .next t ∧ t = { s with dies := t.dies, agenda := t.agenda } ∧
    (let n := fullest s die
     (dieAt t die).report = if n < 32 then 0 else if n < 48 then 1 else if n < 58 then 2 else 3) ∧
    ∀ k d, drillAt s k = some d → dieOf k = die → .congestionLevelApply (coreOf k) ∈ t.agenda) ∧
  (∀ (core : Nat) (s : State), let n := (dieAt s (core / 192)).report
    ∃ t, exec (.congestionLevelApply core) s = .next t ∧ t = { s with cores := t.cores } ∧ (∀ c, c ≠ core → coreAt t c = coreAt s c) ∧
      coreAt t core = (if (coreAt s core).congestion < n ∨ (n < (coreAt s core).congestion ∧ (coreAt s core).congestedAt + 256 ≤ s.cycle)
        then { coreAt s core with congestion := n, congestedAt := s.cycle } else coreAt s core)) ∧
  (∀ (core : Nat) (s : State), ∃ t, exec (.throttlePointerAdvance core) s = .next t ∧ t = { s with cores := t.cores } ∧ (∀ c, c ≠ core → coreAt t c = coreAt s c) ∧
    coreAt t core = { coreAt s core with throttle := ((coreAt s core).throttle + 1) % 16 }) ∧
  (∀ (die chan bank : Nat) (s : State), let b := bankAt s die chan bank
    ∃ t, exec (.bankRefresh die chan bank) s = .next t ∧ t = { s with dies := t.dies } ∧
      bankAt t die chan bank = (if b.openRow = none then { b with refreshes := b.refreshes + b.postponed + 1, postponed := 0 }
        else if b.postponed < 8 then { b with postponed := b.postponed + 1 } else { b with refreshes := b.refreshes + 1 })) ∧
  (∀ (die chan bank : Nat) (s : State), (rowWanted s die chan bank = true → exec (.rowClose die chan bank) s = .next s) ∧
    (rowWanted s die chan bank = false → ∃ t, exec (.rowClose die chan bank) s = .next t ∧ t = { s with dies := t.dies } ∧
      bankAt t die chan bank = { bankAt s die chan bank with openRow := none })) ∧
  (∀ (die chan bank row line : Nat) (s : State), exec (.dramScrub die chan bank row line .clean) s = .next s ∧
    (∃ t, exec (.dramScrub die chan bank row line .correctable) s = .next t ∧ t.mgmt = { s.mgmt with cec := s.mgmt.cec + 1 } ∧ t.mem = s.mem ∧ t.psn = s.psn ∧ t.drills = s.drills ∧
      (rowWindow s die chan bank row = 64 → filterHas (normalFilter t die chan bank) row = true) ∧ (rowWindow s die chan bank row = 32 → filterHas (weakFilter t die chan bank) row = true) ∧
      (rowWindow s die chan bank row = 16 → row ∈ (bankAt t die chan bank).weakLog ∧ .weakRow die chan bank row ∈ t.notices)) ∧
    (∃ t, exec (.dramScrub die chan bank row line .uncorrectable) s = .next t ∧ t.mgmt = { s.mgmt with uec := s.mgmt.uec + 4 } ∧ t.mem = s.mem ∧ t.drills = s.drills ∧
      ∀ x, x ∈ t.psn ↔ x ∈ s.psn ∨ x / 4 = line)) ∧
  (∀ (die stack r : Nat) (s : State), tabFind (dieAt s die).retrain stack = some r →
    (taggedFor s die stack ≠ [] → s.cycle < r + 3000000 → exec (.hbmRetrain die stack) s = .next s) ∧
    (taggedFor s die stack = [] ∨ r + 3000000 ≤ s.cycle → ∃ t, exec (.hbmRetrain die stack) s = .next t ∧ t = { s with drills := t.drills, dies := t.dies } ∧
      tabFind (dieAt t die).retrain stack = none ∧ ∀ k d, drillAt s k = some d → drillAt t k = some (if k ∈ taggedFor s die stack then { d with retrained := some (2 * die + stack) } else d))) ∧
  (∀ (die riser : Nat) (fails : Bool) (s : State), riser < 4096 →
    (riser / 16 ∈ queuedAt s die → ∃ t, exec (.riserTest die riser fails) s = .next t ∧ t = { s with dies := t.dies } ∧ (dieAt t die).tester = some riser) ∧
    (riser / 16 ∉ queuedAt s die → ∃ t, exec (.riserTest die riser fails) s = .next t ∧ t = { s with dies := t.dies, notices := t.notices } ∧ (dieAt t die).tester = none ∧
      (fails = true → .riserFailed die riser ∈ t.notices))) ∧
  (∀ (die stop port p vc : Nat) (f : Flit) (s : State), eligible (dieAt s die) stop port = [(p, vc, f)] →
    ∃ t, exec (.meshGrant die stop port) s = .next t ∧ t = { s with dies := t.dies } ∧ meshQ (dieAt t die) stop p vc = (meshQ (dieAt s die) stop p vc).drop 1 ∧
      (port ≠ 0 → let n := nextStop stop port
        meshQ (dieAt t die) n.1 n.2 vc = meshQ (dieAt s die) n.1 n.2 vc ++ [{ dest := f.dest }]) ∧
      tabGet 0 (tabGet {} (dieAt t die).ports (5 * stop + port)).ptr vc = (p + 1) % 5) ∧
  (∀ (die stop port vc : Nat) (f : Flit) (r : List Flit) (s : State), meshQ (dieAt s die) stop port vc = f :: r → 32 ≤ f.age → f.promoted = none →
    ∃ t, exec (.meshPromote die stop port vc) s = .next t ∧ t = { s with dies := t.dies } ∧ meshQ (dieAt t die) stop port vc = { f with promoted := some s.cycle } :: r) ∧
  (∀ (x : ErrSite) (s : State), (∀ a b c, x ≠ .datapath a b c) → exec (.softError x .clean) s = .next s) ∧
  (∀ (x : ErrSite) (s : State), (∀ p, x ≠ .link p) → (∀ a b c, x ≠ .datapath a b c) → (∀ c o, x ≠ .bench c o) →
    exec (.softError x .correctable) s = .next { s with mgmt := { s.mgmt with cec := s.mgmt.cec + 1 } }) ∧
  (∀ (core off : Nat) (s : State), ∃ t, exec (.softError (.bench core off) .correctable) s = .next t ∧ t = { s with cores := t.cores } ∧ off ∈ (coreAt t core).soft) ∧
  (∀ (pa : Nat) (s : State), ∃ t, exec (.softError (.memory pa) .uncorrectable) s = .next t ∧ t = { s with psn := t.psn, mgmt := { s.mgmt with uec := s.mgmt.uec + 1 } } ∧
    ∀ k, k ∈ t.psn ↔ k ∈ s.psn ∨ k = pa / 32) ∧
  (∀ (core off : Nat) (s : State), ∃ t, exec (.softError (.bench core off) .uncorrectable) s = .next t ∧ t = { s with cores := t.cores, mgmt := { s.mgmt with uec := s.mgmt.uec + 1 } } ∧
    off / 32 ∈ (coreAt t core).benchPsn) ∧
  (∀ (cl tile off : Nat) (s : State) (x : LineCopy), copyAt s cl (tile * 16 + off / 128) = some x →
    ∃ t, exec (.softError (.tendril cl tile off) .uncorrectable) s = .next t ∧ t = { s with clusters := t.clusters, mgmt := { s.mgmt with uec := s.mgmt.uec + 1 } } ∧
      copyAt t cl (tile * 16 + off / 128) = some { x with psn := x.psn ||| BitVec.ofNat 4 (2 ^ (off % 128 / 32)) }) ∧
  (∀ (slot reg l : Nat) (v : Check) (s : State) (d : Drill), drillAt s slot = some d → ∃ t, exec (.softError (.datapath slot reg l) v) s = .next t ∧
    t = { s with drills := t.drills, tick := s.tick + 1 } ∧ drillAt t slot = some (vPutBase d reg (BitVec.ofNat 32 (2 ^ l)) (vecOfLanes (fun _ => (Config.gapValue s.tick).toNat)))) ∧
  (∀ (core addr : Nat) (s : State), ∃ t, exec (.sramScrub core addr) s = .next t ∧ t = { s with cores := t.cores, mgmt := t.mgmt } ∧ tabFind (coreAt t core).power (addr / 65536) = none ∧
    ((∃ x ∈ (coreAt s core).soft, x / 8 = addr / 8) → t.mgmt = { s.mgmt with cec := s.mgmt.cec + 1 } ∧ ∀ x, x ∈ (coreAt t core).soft ↔ x ∈ (coreAt s core).soft ∧ x / 8 ≠ addr / 8) ∧
    ((∀ x ∈ (coreAt s core).soft, x / 8 ≠ addr / 8) → t.mgmt = s.mgmt ∧ (coreAt t core).soft = (coreAt s core).soft))

/-- The events of the module: lost parts and failed dies, bring-up and recovery, attestation, heat, bank power, the management registers, the debugger, the
replay log and the external ports (R398, R405 to R407, R422 to R425, R435, R451, R460 to R469, Tables 31.1 to 31.3). Where the spec leaves a point open it
follows the model's log: entries 91, 92, 93, 94. -/
def Obligations.ModuleEvents : Prop :=
  (∀ (x : Part) (s : State), (∀ c b, x ≠ .sramBank c b) → ∃ t, exec (.partLoss x) s = .next t ∧ t = { s with lostParts := t.lostParts } ∧ ∀ y, y ∈ t.lostParts ↔ y ∈ s.lostParts ∨ y = x) ∧
  (∀ (core bank : Nat) (s : State), 8 ≤ bank ∨ bank < 8 - (coreAt s core).lend →
    let s1 := if Part.sramBank core bank ∈ s.lostParts then s else { s with lostParts := s.lostParts ++ [.sramBank core bank] }
    ((∀ e ∈ s.drills, coreOf e.1 ≠ core) → exec (.partLoss (.sramBank core bank)) s = .next s1) ∧
    (∀ k d, s.drills.filter (fun e => decide (coreOf e.1 = core)) = [(k, d)] → exec (.partLoss (.sramBank core bank)) s = .next (cancelObj s1 d.bed))) ∧
  (∀ (core bank : Nat) (s : State), bank < 8 → 8 - (coreAt s core).lend ≤ bank → (∀ e ∈ s.drills, clusterOf e.1 ≠ clusterOfCore core) →
    let hit (e : Nat × TileSt) : Prop := Config.slotBank (clusterOfCore core) e.2.pos = core % 48 * 8 + bank
    ∃ t, exec (.partLoss (.sramBank core bank)) s = .next t ∧ t = { s with clusters := t.clusters, psn := t.psn, lostParts := t.lostParts } ∧ .sramBank core bank ∈ t.lostParts ∧
      (∀ e, e ∈ (clAt t (clusterOfCore core)).tiles ↔ e ∈ (clAt s (clusterOfCore core)).tiles ∧ ¬hit e) ∧
      ∀ e ∈ (clAt s (clusterOfCore core)).tiles, hit e → ∀ y ∈ e.2.lines, y.2.shared = false → ∀ k, k < 4 → bitsOf y.2.dirty.toNat (32 * k) 32 ≠ 0 → 4 * y.1 + k ∈ t.psn) ∧
  (∀ (die : Nat) (s : State), (dieAt s die).failed = true → exec (.dieFailure die) s = .next s) ∧
  (∀ (die : Nat) (s : State), (dieAt s die).failed = false → ∃ t, exec (.dieFailure die) s = .next t ∧ (dieAt t die).failed = true) ∧
  (∀ (im : Image) (s : State), im.verifies = true → im.minimum ≤ im.version → im.failing = none →
    ∃ t, exec (.powerGood im) s = .next t ∧ t.drills = [] ∧ t.jobs = [] ∧ t.objs = [] ∧ t.cxlUp = below 4 ∧ t.hokuxUp = below 16 ∧ t.lostParts = s.lostParts ∧ t.agenda = [] ∧
      (∀ d, d < 4 → (dieAt t d).trained = true ∧ (dieAt t d).failed = false) ∧ t.mgmt.bstat = 0x406 ||| BitVec.ofNat 32 (im.version.toNat * 65536) ∧
      ∀ a, memByte t a = if hostBase ≤ a then memByte s a else 0) ∧
  (∀ (im : Image) (s : State), im.verifies = false ∨ im.version < im.minimum → im.failing ≠ some 1 →
    ∃ t, exec (.powerGood im) s = .next t ∧ t.mgmt.bstat = 0x302 ∧ inRecovery t = true ∧ t.cxlUp = [] ∧ t.hokuxUp = [] ∧ t.drills = []) ∧
  (∀ (im : Image) (s : State), (inRecovery s = false → exec (.recoveryImage im) s = .next s) ∧
    (inRecovery s = true → im.verifies = true → im.minimum ≤ im.version → im.failing = none → ∃ t, exec (.recoveryImage im) s = .next t ∧ inRecovery t = false ∧ t.cxlUp = below 4 ∧ t.hokuxUp = below 16 ∧
      ∀ d, d < 4 → (dieAt t d).trained = true)) ∧
  (∀ (port : Nat) (nonce : Word) (s : State), exec (.spdmRequest port nonce) s = .next (notify s (.spdm port (Config.spdmAnswer nonce)))) ∧
  (∀ (die temp : Nat) (s : State), die < 4 → temp < 110 → let up := heatLevel temp
    ∃ t, exec (.thermalLevelChange die temp) s = .next t ∧ bitsOf t.mgmt.temp.toNat (8 * die) 8 = temp ∧
      (dieAt t die).hot = (if (dieAt s die).hot ≤ up then up else max up (min (dieAt s die).hot (heatLevel (temp + 3)))) ∧ (dieAt t die).throttleMin = (dieAt s die).throttleMin ∧
      (dieAt t die).level = max (dieAt t die).hot (dieAt s die).throttleMin ∧ t.mem = s.mem ∧ t.objs = s.objs) ∧
  (∀ (die temp : Nat) (s : State), 110 ≤ temp → ∃ t, exec (.thermalLevelChange die temp) s = .next t ∧ die ∉ t.cxlUp ∧ (dieAt t die).failed = true) ∧
  (∀ (core bank : Nat) (p : BankPower) (s : State), ∃ t, exec (.sramBankPower core bank p) s = .next t ∧ t = { s with cores := t.cores } ∧
    (bankInUse (coreAt s core) bank = true → coreAt t core = coreAt s core) ∧
    (bankInUse (coreAt s core) bank = false → coreAt t core = { coreAt s core with power := (coreAt t core).power } ∧ tabGet .on (coreAt t core).power bank = p)) ∧
  (∀ (v : BitVec 32) (s : State), (inRecovery s = true ∨ v.toNat % 4 = 3 → exec (.hbmrateWrite v) s = .next s) ∧
    (inRecovery s = false → v.toNat % 4 ≠ 3 → ∃ t, exec (.hbmrateWrite v) s = .next t ∧ t = { s with mgmt := { s.mgmt with hbmrate := BitVec.ofNat 32 (v.toNat % 4) }, dies := t.dies, agenda := t.agenda } ∧
      ∀ d k, d < 4 → k < 2 → tabFind (dieAt t d).retrain k = some s.cycle ∧ .hbmRetrain d k ∈ t.agenda)) ∧
  (∀ (win word : Nat) (v : Word) (s : State), (inRecovery s = true → exec (.pwinWrite win word v) s = .next s) ∧
    (inRecovery s = false → word < 2 → ∃ t, exec (.pwinWrite win word v) s = .next t ∧ t = { s with mgmt := { s.mgmt with pwin := t.mgmt.pwin } } ∧
      (let old := tabGet 0 s.mgmt.pwin (2 * win + word)
       tabGet 0 t.mgmt.pwin (2 * win + word) = if word = 0 then (v &&& 0xBFFF0000003FFFFF) ||| (v &&& old &&& 0x4000000000000000) else v &&& 0x3FFFFF) ∧
      ∀ i, i ≠ 2 * win + word → tabGet 0 t.mgmt.pwin i = tabGet 0 s.mgmt.pwin i)) ∧
  (∀ (v : BitVec 32) (s : State), (inRecovery s = true ∨ bitOf v.toNat 0 = false ∨ s.mgmt.dbgbusy = true → exec (.debugRead v) s = .next s) ∧
    (inRecovery s = false → bitOf v.toNat 0 = true → s.mgmt.dbgbusy = false → ∃ t, exec (.debugRead v) s = .next t ∧ t = { s with mgmt := { s.mgmt with dbgbusy := true, dbgctl := 0 }, agenda := t.agenda } ∧
      .debugReadDone ∈ t.agenda)) ∧
  (∀ s : State, (s.mgmt.dbgbusy = false → exec .debugReadDone s = .next s) ∧
    (s.mgmt.dbgbusy = true → let pa := s.mgmt.dbgaddr.toNat
      exec .debugReadDone s = .next { s with mgmt := { s.mgmt with dbgbusy := false, dbgdata := (if powered s pa = true then BitVec.ofNat 256 (freshRead s pa 32) else BitVec.allOnes 256), dbgctl := if powered s pa = true then 2 else 6 } })) ∧
  (∀ (off : Nat) (v : Word) (fw : Bool) (s : State), ∃ t, exec (.mgmtRegisterWrite off v fw) s = .next t ∧
    (off = 0x0008 → fw = true → t = { s with mgmt := { s.mgmt with bstat := v.setWidth 32 &&& 0xFFFF0707 } }) ∧
    (inRecovery s = true → off ≠ 0x0008 ∨ fw = false → t = s) ∧
    (inRecovery s = false →
      (off = 0x0020 → t = if 1200 ≤ v.toNat % 4096 ∧ v.toNat % 4096 ≤ 2400 then { s with mgmt := { s.mgmt with pcap := BitVec.ofNat 32 (v.toNat % 4096) } } else s) ∧
      (off = 0x0030 → fw = true → t = { s with mgmt := { s.mgmt with cec := v } }) ∧ (off = 0x0038 → fw = true → t = { s with mgmt := { s.mgmt with uec := v } }) ∧
      (∀ d, d < 4 → off = 0x0100 + 16 * d → fw = true → anyFailed s = false → t = { s with mgmt := { s.mgmt with olbase := tabSet 0 s.mgmt.olbase d (BitVec.ofNat 64 (v.toNat / 256 * 256)) } }) ∧
      (∀ d, d < 4 → off = 0x0108 + 16 * d → fw = true → anyFailed s = false → t = { s with mgmt := { s.mgmt with olcap := tabSet 0 s.mgmt.olcap d (v.setWidth 32) } }) ∧
      (off = 0x0400 → t = { s with mgmt := { s.mgmt with dbgaddr := BitVec.ofNat 64 (bitsOf v.toNat 5 47 * 32) } }) ∧
      (fw = false → off ∈ [0x0000, 0x0008, 0x0010, 0x0018, 0x0030, 0x0038, 0x0100, 0x0200, 0x0420] → t = s))) ∧
  (∀ (job base size : Nat) (m : ReplayMode) (s : State), ∃ t, exec (.replayModeSet job m base size) s = .next t ∧ t = { s with drills := t.drills, jobs := t.jobs } ∧
    jobAt t job = { jobAt s job with replay := m, logBase := base, logSize := size, logUsed := 0, logAt := 0, logWait := [], ords := [] } ∧
    ∀ k d, drillAt s k = some d → ∃ e, drillAt t k = some e ∧ e.seq = (if d.job = job then 0 else d.seq) ∧ e.dt = d.dt ∧ e.g = d.g ∧ e.stemWait ≠ .replay) ∧
  (∀ (job count : Nat) (s : State), (jobAt s job).logWait = [] → ∃ t, exec (.replayLogSpaceFreed job count) s = .next t ∧ t = { s with jobs := t.jobs } ∧
    jobAt t job = { jobAt s job with logUsed := (jobAt s job).logUsed - count } ∧ ∀ j, j ≠ job → jobAt t j = jobAt s j) ∧
  (∀ (port : Nat) (s : State), s.hokuxUp.filter (fun p => decide (p ≠ port)) ≠ [] ∨ s.hokuxUp = [] →
    exec (.hokuxPortDown port) s = .next { s with hokuxUp := s.hokuxUp.filter (fun p => decide (p ≠ port)) }) ∧
  (∀ (port i : Nat) (o : Obj) (s : State), s.hokuxUp.filter (fun p => decide (p ≠ port)) = [] → s.hokuxUp ≠ [] → (∀ d ∈ s.dies, ∀ q ∈ d.2.queues, q.2.xfer = false) →
    s.objs.filter (fun o => decide (o.2.lvl = 3) && !o.2.complete && !o.2.root && o.2.dests.any (fun x => decide (x.2.1 ≠ 0))) = [(i, o)] → objAt s i = some o →
    ∃ t o', exec (.hokuxPortDown port) s = .next t ∧ objAt t i = some o' ∧ o'.complete = true ∧ o'.err = true ∧ t.hokuxUp = [] ∧ t.mem = s.mem ∧ t.dies = s.dies)

/-- The events of the host and of the pool devices: host reads, writes and claims, the answers to back-invalidate snoops and their timeouts, device reads of
host memory and host snoops, pool completions and failures, and a CXL link going down (R446 to R457, Tables 29.1, 29.2). Where the spec leaves a point open it
follows the model's log: entries 99, 105, 114. -/
def Obligations.HostEvents : Prop :=
  (∀ (e : Instr) (h : Nat) (s : State), hostAsk e = some h → HostUnmapped s h →
    exec e s = .next (notify s (.toHost h 0 15))) ∧
  (∀ (e : Instr) (h line : Nat) (s : State), hostAsk e = some h → HostMaps s h line → busyAt s line = none → victimOf s line 4 = none → hubOwner s line = none →
    (∀ a, a < 4 → agentState s line a = .i) → mailboxLine s line = false → (∀ x, e ≠ .hostMemwr h x) →
    ∃ t, exec e s = .next t ∧ .toHost line (homeData s line).1 (homeData s line).2 ∈ t.notices ∧ busyAt t line = none ∧
      agentState t line 4 = (if e = .hostMemrdI h then agentState s line 4 else .e) ∧ (∀ m ∈ (dieAt s (homeOf s (line * 128))).waiting, m ∈ t.agenda) ∧
      t.mem = s.mem ∧ t.drills = s.drills ∧ t.objs = s.objs) ∧
  (∀ (e : Instr) (h line : Nat) (s : State), e = .hostMemrdS h ∨ e = .hostMemrdA h → HostMaps s h line → busyAt s line = none → victimOf s line 4 = none → hubOwner s line = none →
    (∀ a, a < 4 → agentState s line a = .i) → mailboxLine s line = true →
    ∃ t, exec e s = .next t ∧ .toHost line (homeData s line).1 (homeData s line).2 ∈ t.notices ∧ busyAt t line = some { kind := 9, req := 4, await := [4] } ∧ .biSnp line 1 ∈ t.notices ∧
      agentState t line 4 = .e ∧ t.mem = s.mem ∧ t.drills = s.drills ∧ t.objs = s.objs) ∧
  (∀ (h line : Nat) (data : Vec) (s : State), HostMaps s h line → DirOk s line →
    (isOwner (agentState s line 4) = true ∨ (busyAt s line = none ∧ ∀ a, a < 4 → agentState s line a = .i)) →
    ∃ t, exec (.hostMemwr h data) s = .next t ∧ (∀ b, memByte t b = if b / 128 = line then BitVec.ofNat 8 (lineByte data (b % 128)) else memByte s b) ∧
      (if isOwner (agentState s line 4) = true then agentState t line 4 = .i ∧ busyAt t line = busyAt s line else agentState t line (homeOf s (line * 128)) = .m ∧ busyAt t line = none) ∧
      t.drills = s.drills ∧ t.objs = s.objs) ∧
  (∀ (line : Nat) (s : State), (∀ b, busyAt s line = some b → 4 ∉ b.await) → exec (.birsp line) s = .next s ∧ exec (.bisnpTimeout line) s = .next s) ∧
  (∀ (line : Nat) (s : State) (b : Busy), busyAt s line = some b → 4 ∈ b.await → DirOk s line → b.await.filter (fun a => decide (a ≠ 4)) ≠ [] →
    (∃ t, exec (.birsp line) s = .next t ∧ busyAt t line = some { b with await := b.await.filter (fun a => decide (a ≠ 4)) } ∧
      agentState t line 4 = (if (b.kind = 0 ∨ b.kind = 9) ∧ agentState s line 4 ≠ .i then .s else .i) ∧ t = { s with dies := t.dies }) ∧
    (∃ t, exec (.bisnpTimeout line) s = .next t ∧ busyAt t line = some { b with await := b.await.filter (fun a => decide (a ≠ 4)) } ∧ agentState t line 4 = .i ∧ .hostTimeout line ∈ t.notices ∧
      (∀ x, x ∈ t.psn ↔ x ∈ s.psn ∨ (isOwner (agentState s line 4) = true ∧ x / 4 = line)) ∧ t = { s with dies := t.dies, psn := t.psn, notices := t.notices })) ∧
  (∀ (line : Nat) (s : State) (b : Busy), busyAt s line = some b → b.kind = 9 → b.await = [4] → ∃ t, exec (.birsp line) s = .next t ∧ busyAt t line = none ∧
    agentState t line 4 = (if agentState s line 4 = .i then .i else .s) ∧ (∀ m ∈ (dieAt s (homeOf s (line * 128))).waiting, m ∈ t.agenda) ∧ t.mem = s.mem ∧ t.drills = s.drills ∧ t.objs = s.objs) ∧
  (∀ (line : Nat) (data : Vec) (s : State) (b : Busy), busyAt s line = some b → b.await = [5] → b.kind ≤ 2 → b.req < 4 → b.req ≠ homeOf s (line * 128) → tierOf (line * 128) = some 2 →
    tabFind s.hostSide line = none → hubOwner s line = none → (∀ a, a < 5 → a ≠ b.req → agentState s line a = .i) →
    ∃ t, exec (.hostCacheCompletion line data) s = .next t ∧ busyAt t line = some { b with await := [b.req], sent := true } ∧
      .coherenceData line b.req (if b.kind = 0 then .s else .m) (homeData t line).1 (homeData t line).2 ∈ t.agenda ∧ tabFind t.hostSide line = some (if b.kind = 0 then .s else .e) ∧
      (∀ a, memByte t a = if a / 128 = line then BitVec.ofNat 8 (lineByte data (a % 128)) else memByte s a) ∧ t.drills = s.drills ∧ t.objs = s.objs) ∧
  (∀ (line : Nat) (data : Vec) (s : State), (∀ b, busyAt s line = some b → b.await ≠ [5]) → exec (.hostCacheCompletion line data) s = .next s) ∧
  (∀ (line : Nat) (s : State), (busyAt s line).isSome = true → ∀ e ∈ [Instr.snpinv line, .snpdata line, .snpcur line], ∃ t, exec e s = .next t ∧ t = { s with dies := t.dies }) ∧
  (∀ (line : Nat) (s : State), busyAt s line = none → hubOwner s line = none → (∀ a, a < 4 → agentState s line a = .i) →
    (∃ t, exec (.snpinv line) s = .next t ∧ .toHost line (homeData s line).1 (homeData s line).2 ∈ t.notices ∧ tabFind t.hostSide line = none ∧ t.mem = s.mem ∧ t.drills = s.drills ∧ t.objs = s.objs) ∧
    (∃ t, exec (.snpdata line) s = .next t ∧ .toHost line (homeData s line).1 (homeData s line).2 ∈ t.notices ∧ tabFind t.hostSide line = (tabFind s.hostSide line).map (fun _ => LineSt.s) ∧
      t.mem = s.mem ∧ t.drills = s.drills ∧ t.objs = s.objs) ∧
    (∃ t, exec (.snpcur line) s = .next t ∧ .toHost line (homeData s line).1 (homeData s line).2 ∈ t.notices ∧ t.hostSide = s.hostSide ∧ t.mem = s.mem ∧ t.drills = s.drills ∧ t.objs = s.objs)) ∧
  (∀ (id : Nat) (data : Vec) (bad : Bool) (s : State), (∀ r, tabFind s.remotes id = some r → tierOf r.pa ≠ some 3) → exec (.poolCompletion id data bad) s = .next s) ∧
  (∀ (id : Nat) (data : Vec) (bad : Bool) (s : State) (r : Remote), tabFind s.remotes id = some r → tierOf r.pa = some 3 →
    (r.kind < 2 → r.answer = none → ∃ t, exec (.poolCompletion id data bad) s = .next t ∧
      tabFind t.remotes id = some { r with answer := some (bitsOf data.toNat (8 * (r.pa % 128)) (8 * r.size), bad) } ∧ t.mem = s.mem ∧ t.objs = s.objs ∧
      ∀ k d, drillAt s k = some d → ∃ e, drillAt t k = some e ∧ e.g = d.g ∧ e.pc = d.pc ∧ ∀ i, e.stemWait ≠ .atomic i) ∧
    (r.kind = 2 → (∀ d, drillAt s r.slot = some d → d.due = none) → ∃ t, exec (.poolCompletion id data bad) s = .next t ∧ tabFind t.remotes id = none ∧ t.mem = s.mem ∧ t.objs = s.objs)) ∧
  (∀ (win : Nat) (s : State), (∀ r ∈ s.remotes, ¬(tierOf r.2.pa = some 3 ∧ poolWindow s r.2.pa = some win)) →
    ∃ t, exec (.poolFailure win) s = .next t ∧ t = { s with mgmt := { s.mgmt with pwin := t.mgmt.pwin }, notices := t.notices } ∧
      tabGet 0 t.mgmt.pwin (2 * win) = tabGet 0 s.mgmt.pwin (2 * win) ||| 0x4000000000000000 ∧ (∀ i, i ≠ 2 * win → tabGet 0 t.mgmt.pwin i = tabGet 0 s.mgmt.pwin i) ∧ .poolFailed win ∈ t.notices) ∧
  (∀ (win id : Nat) (r : Remote) (s : State), s.remotes = [(id, r)] → tierOf r.pa = some 3 → poolWindow s r.pa = some win → r.kind < 2 → r.answer = none →
    ∃ t, exec (.poolFailure win) s = .next t ∧ tabFind t.remotes id = some { r with answer := some (0, true) } ∧ bitOf (tabGet 0 t.mgmt.pwin (2 * win)).toNat 62 = true ∧ .poolFailed win ∈ t.notices ∧
      t.mem = s.mem ∧ t.objs = s.objs) ∧
  (∀ (port : Nat) (s : State), (∀ e ∈ (dieAt s port).dir, hasBit e.2.holders 4 = false) → (∀ b ∈ (dieAt s port).busy, 4 ∉ b.2.await ∧ 5 ∉ b.2.await) →
    ∃ t, exec (.portLinkDown port) s = .next t ∧ t = { s with cxlUp := t.cxlUp, drills := t.drills } ∧ ∀ p, p ∈ t.cxlUp ↔ p ∈ s.cxlUp ∧ p ≠ port) ∧
  (∀ (port line : Nat) (x : DirEnt) (s : State), (dieAt s port).dir = [(line, x)] → homeOf s (line * 128) = port → port < 4 → hasBit x.holders 4 = true → (dieAt s port).busy = [] → DirOk s line →
    ∃ t, exec (.portLinkDown port) s = .next t ∧ agentState t line 4 = .i ∧ (∀ k, k ∈ t.psn ↔ k ∈ s.psn ∨ ((∃ st, x.owner = some (4, st)) ∧ k / 4 = line)) ∧
      (∀ p, p ∈ t.cxlUp ↔ p ∈ s.cxlUp ∧ p ≠ port) ∧ t.mem = s.mem ∧ t.objs = s.objs)

/-- What the copy engines and the matrix units do when a command or an operation retires: it leaves its queue, its drill's counter falls by one, what waits
for the counter goes on, and its effect stands (R318 to R321, R327, R345, R346, R360, R366, R367). Where the spec leaves a point open it follows the model's
log: entries 53, 62, 111. -/
def Obligations.EngineEvents : Prop :=
  (∀ (slot cls : Nat) (c : CopyCmd) (s : State) (d : Drill), engineQ s slot = [c] → c.slot = slot → c.cls = cls → finished c = true → drillAt s slot = some d →
    ∃ t e, exec (.copyRetire slot cls) s = .next t ∧ engineQ t slot = [] ∧ drillAt t slot = some e ∧ ocGet e cls = ocGet d cls - 1 ∧ (∀ k, k ≠ cls → ocGet e k = ocGet d k) ∧ e.g = d.g ∧ e.pc = d.pc ∧
      (∀ n, d.stemWait = .xwait cls n → ocGet d cls ≤ n + 1 → .xwaitRelease slot ∈ t.agenda) ∧ t.mem = s.mem ∧ t.objs = s.objs ∧ t.cores = s.cores) ∧
  (∀ (slot cls a core off : Nat) (c : CopyCmd) (s : State) (d : Drill), engineQ s slot = [c] → c.slot = slot → c.cls = cls → c.op = 3 → c.moved = 0 → c.trans = [] → spaceOf c.dst = some (.bench a) →
    (spaceOf c.src).isSome = true → 0 < c.len → (∀ i, i < c.len → benchPlace s slot (a + i) = some (core, off + i)) → drillAt s slot = some d →
    ∃ t e, exec (.copyRetire slot cls) s = .next t ∧ engineQ t slot = [] ∧ drillAt t slot = some e ∧ ocGet e cls = ocGet d cls - 1 ∧
      (∀ i, i < c.len → benchByte t core (off + i) = 0) ∧ (∀ k x, k ≠ core ∨ x < off ∨ off + c.len ≤ x → benchByte t k x = benchByte s k x) ∧ t.mem = s.mem ∧ t.objs = s.objs) ∧
  (∀ (slot cls : Nat) (s : State), (∀ c ∈ engineQ s slot, c.slot ≠ slot) → exec (.copyRetire slot cls) s = .next s) ∧
  (∀ (core : Nat) (s : State), (coreAt s core).mq = [] → exec (.matrixRetire core) s = .next s) ∧
  (∀ (core : Nat) (m : MatOp) (s : State) (d : Drill), (coreAt s core).mq = [m] → coreOf m.slot = core → m.twinHalf = false → drillAt s m.slot = some d → (∀ k ∈ s.drills, k.2.due = none) →
    (m.op = 0x302 → m.word.imm = 0 → ∃ t e, exec (.matrixRetire core) s = .next t ∧ (coreAt t core).mq = [] ∧ drillAt t m.slot = some e ∧ ocGet e 2 = ocGet d 2 - 1 ∧ e.fmode = d.fmode ∧
      (∀ i, i < 1024 → tileGet t core m.word.vd.toNat i = 0) ∧ t.mem = s.mem ∧ t.objs = s.objs) ∧
    (m.op = 0x344 → ∃ t e, exec (.matrixRetire core) s = .next t ∧ (coreAt t core).mq = [] ∧ drillAt t m.slot = some e ∧ ocGet e 2 = ocGet d 2 - 1 ∧ e.fmode = d.fmode ∧
      espAt t core (espIdx m.word) = { espAt s core (espIdx m.word) with cap := bitsOf m.word.imm.toNat 8 6 } ∧ (∀ i, i ≠ espIdx m.word → espAt t core i = espAt s core i) ∧ t.mem = s.mem ∧ t.objs = s.objs) ∧
    (m.op = 0x340 → (espAt s core (espIdx m.word)).ty.toNat < 2 → espF64 m.word = false → ∃ t e, exec (.matrixRetire core) s = .next t ∧ (coreAt t core).mq = [] ∧ drillAt t m.slot = some e ∧
      ocGet e 2 = ocGet d 2 - 1 ∧ e.fmode = d.fmode ∧
      (let y := espAt t core (espIdx m.word)
       y.ty = 1 ∧ y.cap = 32 ∧ y.n = bitsOf m.word.imm.toNat 8 7 ∧ y.k = 0 ∧ y.rc = 0 ∧
        ∀ w, w < 7168 → espWord t core (espIdx m.word) w = if 3072 ≤ w ∧ (w - 3072) / 64 = (w - 3072) % 64 ∧ (w - 3072) / 64 < y.n then 0x3F800000 else 0) ∧
      (∀ i, i ≠ espIdx m.word → espAt t core i = espAt s core i) ∧ t.mem = s.mem ∧ t.objs = s.objs))

/-! ## The machine as a whole -/

/-- What reset leaves: nothing bound, in flight or allocated, every core lending 5 units of its SRAM, Tendril pointers and loss counts 0, tiles and espaliers
zero, and the management registers at the resets of Table 31.3 (R239, R248, R337, R359, Table 31.3); memory lists nothing, by log entry 2. -/
def Obligations.ResetState : Prop :=
  (∀ c, (coreAt State.reset c).lend = 5 ∧ benchSize State.reset c = 196608 ∧ (coreAt State.reset c).lost = 0 ∧ (coreAt State.reset c).throttle = 0) ∧
  (∀ cl, (clAt State.reset cl).ptr = 0) ∧
  (∀ c t w, tileGet State.reset c t w = 0) ∧
  (∀ c e, espAt State.reset c e = { ty := 0, rc := 0, cap := 0, n := 0, k := 0, body := [] }) ∧
  (∀ slot, drillAt State.reset slot = none) ∧ (∀ i, objAt State.reset i = none) ∧
  (∀ off, mgmtRead State.reset off = if off = 0x0000 then 0x0D4A0300 else if off = 0x0020 then 0x960 else 0) ∧
  State.reset.jobs = [] ∧ State.reset.lines = [] ∧ State.reset.agenda = [] ∧ State.reset.notices = [] ∧ State.reset.hostSide = [] ∧
  Memory.wf State.reset.mem = true

/-- Every step that answers a next state keeps physical memory in its one canonical form: addresses strictly rising, and no entry that equals what an unlisted
address reads as. -/
def Obligations.MemoryKeepsForm : Prop :=
  ∀ s t : State, Memory.wf s.mem = true → step s = .next t → Memory.wf t.mem = true

/-- Decoding and encoding agree, both ways: the word of every well-formed instruction, at every value of every field, decodes to it, and every word that
decodes is the word of its instruction, which is well formed (R40, R51, R52, R55, R73, R74). -/
def Obligations.RoundTrip : Prop :=
  (∀ (i : Instr) (n w : Nat), i.wf = true → encode i = some (n, w) → decodeTableWord n w = some i) ∧
  (∀ (w : BitVec 32) (i : Instr), decodeStem w = .ok i → i.wf = true ∧ encodeStem i = some w) ∧
  (∀ (w : BitVec 96) (i : Instr), decodeLeaf w = .ok i → i.wf = true ∧ encodeLeaf i = some w)

/-- Whose turn it is runs the instruction that its bytes decode to; a word that decodes to none raises illegal-instruction; a PC outside its section, or a
fetch that fails, raises the instruction-fetch fault; without a turn the oldest message arrives, and without a message the clock advances. Where the spec
leaves a point open it follows the model's log: entries 6, 97, 98, 109. -/
def Obligations.StepRuns : Prop :=
  (∀ (s : State) (slot : Nat) (r : List Turn) (d : Drill), s.sched = .stem slot :: r → drillAt s slot = some d → stemReady { s with sched := r } slot d = true →
    (stemTargetOk { s with sched := r } d d.pc.toNat = false → step s = afterWord slot (exec (.instructionFetchFault slot false d.pc none) { s with sched := r })) ∧
    (∀ p, stemTargetOk { s with sched := r } d d.pc.toNat = true → fetchWord { s with sched := r } slot d false d.pc.toNat 4 = .fault p →
      step s = afterWord slot (exec (.instructionFetchFault slot false d.pc p) { s with sched := r })) ∧
    (∀ x, stemTargetOk { s with sched := r } d d.pc.toNat = true → fetchWord { s with sched := r } slot d false d.pc.toNat 4 = .word x →
      (∀ i, decodeStem (BitVec.ofNat 32 x) = .ok i → step s = afterWord slot (exec i { s with sched := r, cur := slot })) ∧
      (∀ e, decodeStem (BitVec.ofNat 32 x) = .error e → step s = afterWord slot (exec (.illegalInstruction slot false (BitVec.ofNat 96 x)) { s with sched := r })))) ∧
  (∀ (s : State) (slot : Nat) (r : List Turn) (d : Drill), s.sched = .leaf slot :: r → drillAt s slot = some d → leafReady { s with sched := r } slot d = true →
    (leafTargetOk { s with sched := r } d (runSplit (leafCtx d)).pc.toNat = false →
      step s = afterWord slot (exec (.instructionFetchFault slot true (runSplit (leafCtx d)).pc none) { s with sched := r })) ∧
    (∀ p, leafTargetOk { s with sched := r } d (runSplit (leafCtx d)).pc.toNat = true → fetchWord { s with sched := r } slot d true (runSplit (leafCtx d)).pc.toNat 12 = .fault p →
      step s = afterWord slot (exec (.instructionFetchFault slot true (runSplit (leafCtx d)).pc p) { s with sched := r })) ∧
    (∀ x, leafTargetOk { s with sched := r } d (runSplit (leafCtx d)).pc.toNat = true → fetchWord { s with sched := r } slot d true (runSplit (leafCtx d)).pc.toNat 12 = .word x →
      (∀ i, decodeLeaf (BitVec.ofNat 96 x) = .ok i → step s = afterWord slot (exec i { s with sched := r, cur := slot })) ∧
      (∀ e, decodeLeaf (BitVec.ofNat 96 x) = .error e → step s = afterWord slot (exec (.illegalInstruction slot true (BitVec.ofNat 96 x)) { s with sched := r })))) ∧
  (∀ (s : State) (slot : Nat) (d : Drill) (leaf : Bool) (va n pa : Nat) (e : Trans), va % 4096 + n ≤ 4096 → translate s slot d .fetch leaf va = .hit pa e → fetchPoison s pa n = none → inHubWindow pa = false →
    fetchWord s slot d leaf va n = .word (freshRead s pa n)) ∧
  (∀ (t : State) (slot : Nat) (d : Drill), drillAt t slot = some d → d.killed = false → d.due = none → d.merr = none → d.preempt = none → (∀ e ∈ t.drills, e.2.yields = []) →
    afterWord slot (.next t) = .next t) ∧
  (∀ (s : State) (i : Instr) (r : List Turn), s.sched = .input i :: r → isWord i = false → i.wf = true → step s = exec i { s with sched := r }) ∧
  (∀ (m : Msg), ∃ i, isWord i = false ∧ ∀ s, deliver m s = exec i s) ∧
  (∀ (s : State) (m : Msg) (r : List Msg), s.sched = [] → s.agenda = m :: r → step s = deliver m (noteTraffic { s with agenda := r } m)) ∧
  (∀ (s : State), s.sched = [] → s.agenda = [] → step s = .next (clock s))

/-- Words written out from the encoding tables of the spec, field by field, decode to the instructions that they stand for and are their encodings; an
unassigned opcode, a reserved field that is set and a reserved code decode to none (R40, R51, R52, R55, R74). -/
def Obligations.DecodeWords : Prop :=
  (∀ e ∈ ([
      (0x01105180, .add 4 5 6), (0x01CF1240, .add 51 49 9), (0x20104FF8, .addi 4 4 0xFF8), (0x221C7678, .ori 7 7 0x678), (0x2A1D2345, .ldhi 7 0x12345),
      (0x31100FFD, .bne 4 0 0xFFD), (0x37000100, .call 0x100), (0x3802F000, .jr 47 0), (0x43205208, .ldI64 8 5 2 0 8), (0x43205288, .ldI64 8 5 2 1 8),
      (0x4F246081, .stlI64 9 6 4 1), (0x53204002, .ldbI64 8 4 0 2), (0x5828519C, .amoAdd 10 5 6 3 1), (0x798D8740, .xstr 35 24 29), (0x90100000, .sysr 4 0),
      (0x9040000D, .sysr 16 13)] : List (BitVec 32 × Instr)),
    decodeStem e.1 = .ok e.2 ∧ encodeStem e.2 = some e.1) ∧
  (∀ e ∈ ([
      (0x004101014000014200000000, .vadd ⟨4, 4, 5, 0, 0, 0, 0, 5, 2, 0⟩), (0x10020242800D02C000000000, .vfadd ⟨8, 9, 10, 0, 3, 2, 0, 11, 0, 0⟩),
      (0x10C14141C20002C000000000, .vfma ⟨5, 5, 7, 8, 0, 0, 0, 11, 0, 0⟩), (0x403C40C0000003C000000000, .vmov ⟨241, 3, 0, 0, 0, 0, 0, 15, 0, 0⟩),
      (0x80030081C0001AC000000040, .vld ⟨12, 2, 7, 0, 0, 0, 3, 11, 0, 0x40⟩), (0x80030081C0001AE000000040, .vld ⟨12, 2, 7, 0, 0, 0, 3, 11, 0x20, 0x40⟩),
      (0x824501854580014C50000000, .vamo ⟨20, 6, 21, 22, 0, 0, 0, 5, 0xC, 0x50000000⟩), (0xA00000000008000000000005, .lbr ⟨0, 0, 0, 0, 2, 0, 0, 0, 0, 5⟩),
      (0xA080000000000000FFFFFFF6, .ljmp ⟨0, 0, 0, 0, 0, 0, 0, 0, 0, 0xFFFFFFF6⟩), (0xC00080080100000080000005, .mssa ⟨2, 0, 32, 4, 0, 0, 0, 0, 0, 0x80000005⟩),
      (0xD0400A01800002C000000001, .eapp ⟨0, 40, 6, 0, 0, 0, 0, 11, 0, 1⟩)] : List (BitVec 96 × Instr)),
    decodeLeaf e.1 = .ok e.2 ∧ encodeLeaf e.2 = some e.1) ∧
  decodeStem 0x00000000 = .error .unassigned ∧ decodeStem 0x01105181 = .error .reserved ∧ decodeLeaf 0 = .error .unassigned ∧
  decodeLeaf 0x004101014000014200000001 = .error .reserved
end

