-- ==== Sys2Proof/Laws/Tab.lean ====
section
/-! SUPPORT. The laws of sparse tables: what is read after a write, and that the canonical form is kept. -/
namespace Sys2Proof.Machine

variable {α : Type}

theorem tabFind_mem {t : Tab α} {k : Nat} {x : α} (h : tabFind t k = some x) : (k, x) ∈ t := by
  induction t with
  | nil => simp [tabFind] at h
  | cons e r ih =>
    obtain ⟨j, y⟩ := e
    simp only [tabFind] at h
    split at h
    · subst j; cases h; exact List.mem_cons_self ..
    · exact List.mem_cons_of_mem _ (ih h)
theorem tabFind_tabPut (t : Tab α) (k j : Nat) (x : α) : tabFind (tabPut t k x) j = if j = k then some x else tabFind t j := by
  induction t with
  | nil => simp only [tabPut, tabFind, eq_comm]
  | cons e r ih =>
    obtain ⟨i, y⟩ := e
    simp only [tabPut]
    split
    · simp only [tabFind, eq_comm]
    · split
      · subst i; simp only [tabFind, eq_comm]; split <;> simp_all
      · simp only [tabFind, ih]
        by_cases h : i = j
        · subst j; simp_all
        · simp [h]

theorem tabFind_tabDel (t : Tab α) (k j : Nat) : tabFind (tabDel t k) j = if j = k then none else tabFind t j := by
  induction t with
  | nil => simp [tabDel, tabFind]
  | cons e r ih =>
    obtain ⟨i, y⟩ := e
    simp only [tabDel, List.filter] at ih ⊢
    by_cases h : i = k
    · subst i; simp only [ne_eq, not_true_eq_false, decide_false]; rw [ih]; simp only [tabFind]; split
      · rfl
      · rename_i hj; rw [if_neg (fun h => hj h.symm)]
    · simp only [ne_eq, h, not_false_eq_true, decide_true, tabFind, ih]
      by_cases hj : i = j
      · subst j; simp [h]
      · simp [hj]

/-- What a key reads as after a write: x at that key, and everywhere else what it read before. -/
theorem tabGet_tabSet [DecidableEq α] (d : α) (t : Tab α) (k j : Nat) (x : α) : tabGet d (tabSet d t k x) j = if j = k then x else tabGet d t j := by
  unfold tabSet tabGet
  split
  · rw [tabFind_tabDel]; split <;> simp_all
  · rw [tabFind_tabPut]; split <;> simp_all
theorem tabGet_tabPut (d : α) (t : Tab α) (k j : Nat) (x : α) : tabGet d (tabPut t k x) j = if j = k then x else tabGet d t j := by
  unfold tabGet; rw [tabFind_tabPut]; split <;> simp_all
@[simp] theorem tabFind_tabPut_self (t : Tab α) (k : Nat) (x : α) : tabFind (tabPut t k x) k = some x := by simp [tabFind_tabPut]
@[simp] theorem tabGet_tabPut_self (d : α) (t : Tab α) (k : Nat) (x : α) : tabGet d (tabPut t k x) k = x := by simp [tabGet_tabPut]
@[simp] theorem tabGet_tabSet_self [DecidableEq α] (d : α) (t : Tab α) (k : Nat) (x : α) : tabGet d (tabSet d t k x) k = x := by simp [tabGet_tabSet]

/-! ## The canonical form -/

theorem tabRises_mono (lo hi : Option Nat) (t : Tab α) (h : ∀ a, lo = some a → ∃ b, hi = some b ∧ a ≤ b) (r : tabRises hi t = true) : tabRises lo t = true := by
  cases t with
  | nil => rfl
  | cons e r' =>
    obtain ⟨j, y⟩ := e
    simp only [tabRises, Bool.and_eq_true] at r ⊢
    refine ⟨?_, r.2⟩
    cases lo with
    | none => rfl
    | some a =>
      obtain ⟨b, hb, hab⟩ := h a rfl
      subst hb
      have := r.1
      simp only [decide_eq_true_eq] at this ⊢
      omega

theorem tabRises_none_of (lo : Option Nat) (t : Tab α) (r : tabRises lo t = true) : tabRises none t = true := tabRises_mono none lo t (by simp) r

theorem tabRises_put (t : Tab α) (k : Nat) (x : α) (lo : Option Nat) (hk : ∀ a, lo = some a → a < k) (r : tabRises lo t = true) : tabRises lo (tabPut t k x) = true := by
  induction t generalizing lo with
  | nil => cases lo <;> simp_all [tabPut, tabRises]
  | cons e r' ih =>
    obtain ⟨j, y⟩ := e
    simp only [tabRises, Bool.and_eq_true] at r
    simp only [tabPut]
    split
    · rename_i h
      simp only [tabRises, Bool.and_eq_true, decide_eq_true_eq]
      refine ⟨?_, h, r.2⟩
      cases lo with
      | none => rfl
      | some a => simpa using hk a rfl
    · split
      · subst j; simp only [tabRises, Bool.and_eq_true]; exact r
      · simp only [tabRises, Bool.and_eq_true]
        exact ⟨r.1, ih (some j) (fun a h => by cases h; omega) r.2⟩

theorem tabRises_filter (t : Tab α) (p : Nat × α → Bool) (lo : Option Nat) (r : tabRises lo t = true) : tabRises lo (t.filter p) = true := by
  induction t generalizing lo with
  | nil => simpa using r
  | cons e r' ih =>
    obtain ⟨j, y⟩ := e
    simp only [tabRises, Bool.and_eq_true] at r
    simp only [List.filter]
    split
    · simp only [tabRises, Bool.and_eq_true]; exact ⟨r.1, ih _ r.2⟩
    · refine ih lo (tabRises_mono lo (some j) r' ?_ r.2)
      intro a h
      subst h
      refine ⟨j, rfl, ?_⟩
      have := r.1
      simp only [decide_eq_true_eq] at this
      omega

theorem all_tabPut (t : Tab α) (k : Nat) (x : α) (p : Nat × α → Bool) (h : t.all p = true) (hx : p (k, x) = true) : (tabPut t k x).all p = true := by
  induction t with
  | nil => simpa [tabPut] using hx
  | cons e r ih =>
    obtain ⟨j, y⟩ := e
    simp only [List.all_cons, Bool.and_eq_true] at h
    simp only [tabPut]
    split
    · simp [h.1, h.2, hx]
    · split
      · simp [h.2, hx]
      · simp [h.1, ih h.2]

/-- A byte written keeps the canonical form of a memory. -/
theorem wf_tabSet (m : List Host.Cell) (a : Nat) (x : BitVec 8) (h : Memory.wf m = true) : Memory.wf (tabSet 0 m a x) = true := by
  simp only [Memory.wf, Bool.and_eq_true] at h ⊢
  unfold tabSet
  split
  · refine ⟨tabRises_filter m _ none h.1, ?_⟩
    simp only [tabDel, List.all_eq_true, List.mem_filter] at h ⊢
    intro c hc; exact h.2 c hc.1
  · rename_i hx
    exact ⟨tabRises_put m a x none (by simp) h.1, all_tabPut m a x _ h.2 (by simpa using hx)⟩

/-- Bytes written keep the canonical form of a memory. -/
theorem wf_cellsWrite (m : List Host.Cell) (a n x : Nat) (h : Memory.wf m = true) : Memory.wf (cellsWrite m a n x) = true := by
  induction n generalizing m a x with
  | zero => exact h
  | succ k ih => exact ih _ _ _ (wf_tabSet m a _ h)

/-- A byte of a memory after n bytes of x have been stored at a: the bytes of x, lowest first, in [a, a + n), and everywhere else what it was. -/
theorem tabGet_cellsWrite (m : List Host.Cell) (a n x b : Nat) :
    tabGet 0 (cellsWrite m a n x) b = if a ≤ b ∧ b < a + n then BitVec.ofNat 8 (x / 256 ^ (b - a)) else tabGet 0 m b := by
  induction n generalizing m a x with
  | zero => simp only [cellsWrite]; rw [if_neg (by omega)]
  | succ k ih =>
    simp only [cellsWrite, ih, tabGet_tabSet]
    by_cases h : a + 1 ≤ b ∧ b < a + 1 + k
    · rw [if_pos h, if_pos (by omega)]
      have : b - a = (b - (a + 1)) + 1 := by omega
      rw [this, Nat.pow_succ, Nat.mul_comm, Nat.div_div_eq_div_mul]
    · rw [if_neg h]
      by_cases hb : b = a
      · subst b; simp
      · rw [if_neg hb, if_neg (by omega)]

end Sys2Proof.Machine
end

