-- ==== Sys2Proof/Laws/State.lean ====
section
/-! SUPPORT. What each update of the state leaves as it was, field by field. -/
namespace Sys2Proof.Machine

/-! putDrill -/

@[simp] theorem putDrill_cores (s : State) (k : Nat) (d : Drill) : (putDrill s k d).cores = s.cores := rfl
@[simp] theorem putDrill_clusters (s : State) (k : Nat) (d : Drill) : (putDrill s k d).clusters = s.clusters := rfl
@[simp] theorem putDrill_dies (s : State) (k : Nat) (d : Drill) : (putDrill s k d).dies = s.dies := rfl
@[simp] theorem putDrill_jobs (s : State) (k : Nat) (d : Drill) : (putDrill s k d).jobs = s.jobs := rfl
@[simp] theorem putDrill_objs (s : State) (k : Nat) (d : Drill) : (putDrill s k d).objs = s.objs := rfl
@[simp] theorem putDrill_gens (s : State) (k : Nat) (d : Drill) : (putDrill s k d).gens = s.gens := rfl
@[simp] theorem putDrill_lines (s : State) (k : Nat) (d : Drill) : (putDrill s k d).lines = s.lines := rfl
@[simp] theorem putDrill_mem (s : State) (k : Nat) (d : Drill) : (putDrill s k d).mem = s.mem := rfl
@[simp] theorem putDrill_psn (s : State) (k : Nat) (d : Drill) : (putDrill s k d).psn = s.psn := rfl
@[simp] theorem putDrill_stores (s : State) (k : Nat) (d : Drill) : (putDrill s k d).stores = s.stores := rfl
@[simp] theorem putDrill_remotes (s : State) (k : Nat) (d : Drill) : (putDrill s k d).remotes = s.remotes := rfl
@[simp] theorem putDrill_shoots (s : State) (k : Nat) (d : Drill) : (putDrill s k d).shoots = s.shoots := rfl
@[simp] theorem putDrill_nextId (s : State) (k : Nat) (d : Drill) : (putDrill s k d).nextId = s.nextId := rfl
@[simp] theorem putDrill_mgmt (s : State) (k : Nat) (d : Drill) : (putDrill s k d).mgmt = s.mgmt := rfl
@[simp] theorem putDrill_cxlUp (s : State) (k : Nat) (d : Drill) : (putDrill s k d).cxlUp = s.cxlUp := rfl
@[simp] theorem putDrill_hokuxUp (s : State) (k : Nat) (d : Drill) : (putDrill s k d).hokuxUp = s.hokuxUp := rfl
@[simp] theorem putDrill_lostParts (s : State) (k : Nat) (d : Drill) : (putDrill s k d).lostParts = s.lostParts := rfl
@[simp] theorem putDrill_hostSide (s : State) (k : Nat) (d : Drill) : (putDrill s k d).hostSide = s.hostSide := rfl
@[simp] theorem putDrill_notices (s : State) (k : Nat) (d : Drill) : (putDrill s k d).notices = s.notices := rfl
@[simp] theorem putDrill_sched (s : State) (k : Nat) (d : Drill) : (putDrill s k d).sched = s.sched := rfl
@[simp] theorem putDrill_agenda (s : State) (k : Nat) (d : Drill) : (putDrill s k d).agenda = s.agenda := rfl
@[simp] theorem putDrill_tick (s : State) (k : Nat) (d : Drill) : (putDrill s k d).tick = s.tick := rfl
@[simp] theorem putDrill_cycle (s : State) (k : Nat) (d : Drill) : (putDrill s k d).cycle = s.cycle := rfl
@[simp] theorem putDrill_cur (s : State) (k : Nat) (d : Drill) : (putDrill s k d).cur = s.cur := rfl

/-! putCore -/

@[simp] theorem putCore_drills (s : State) (k : Nat) (x : CoreSt) : (putCore s k x).drills = s.drills := rfl
@[simp] theorem putCore_clusters (s : State) (k : Nat) (x : CoreSt) : (putCore s k x).clusters = s.clusters := rfl
@[simp] theorem putCore_dies (s : State) (k : Nat) (x : CoreSt) : (putCore s k x).dies = s.dies := rfl
@[simp] theorem putCore_jobs (s : State) (k : Nat) (x : CoreSt) : (putCore s k x).jobs = s.jobs := rfl
@[simp] theorem putCore_objs (s : State) (k : Nat) (x : CoreSt) : (putCore s k x).objs = s.objs := rfl
@[simp] theorem putCore_gens (s : State) (k : Nat) (x : CoreSt) : (putCore s k x).gens = s.gens := rfl
@[simp] theorem putCore_lines (s : State) (k : Nat) (x : CoreSt) : (putCore s k x).lines = s.lines := rfl
@[simp] theorem putCore_mem (s : State) (k : Nat) (x : CoreSt) : (putCore s k x).mem = s.mem := rfl
@[simp] theorem putCore_psn (s : State) (k : Nat) (x : CoreSt) : (putCore s k x).psn = s.psn := rfl
@[simp] theorem putCore_stores (s : State) (k : Nat) (x : CoreSt) : (putCore s k x).stores = s.stores := rfl
@[simp] theorem putCore_remotes (s : State) (k : Nat) (x : CoreSt) : (putCore s k x).remotes = s.remotes := rfl
@[simp] theorem putCore_shoots (s : State) (k : Nat) (x : CoreSt) : (putCore s k x).shoots = s.shoots := rfl
@[simp] theorem putCore_nextId (s : State) (k : Nat) (x : CoreSt) : (putCore s k x).nextId = s.nextId := rfl
@[simp] theorem putCore_mgmt (s : State) (k : Nat) (x : CoreSt) : (putCore s k x).mgmt = s.mgmt := rfl
@[simp] theorem putCore_cxlUp (s : State) (k : Nat) (x : CoreSt) : (putCore s k x).cxlUp = s.cxlUp := rfl
@[simp] theorem putCore_hokuxUp (s : State) (k : Nat) (x : CoreSt) : (putCore s k x).hokuxUp = s.hokuxUp := rfl
@[simp] theorem putCore_lostParts (s : State) (k : Nat) (x : CoreSt) : (putCore s k x).lostParts = s.lostParts := rfl
@[simp] theorem putCore_hostSide (s : State) (k : Nat) (x : CoreSt) : (putCore s k x).hostSide = s.hostSide := rfl
@[simp] theorem putCore_notices (s : State) (k : Nat) (x : CoreSt) : (putCore s k x).notices = s.notices := rfl
@[simp] theorem putCore_sched (s : State) (k : Nat) (x : CoreSt) : (putCore s k x).sched = s.sched := rfl
@[simp] theorem putCore_agenda (s : State) (k : Nat) (x : CoreSt) : (putCore s k x).agenda = s.agenda := rfl
@[simp] theorem putCore_tick (s : State) (k : Nat) (x : CoreSt) : (putCore s k x).tick = s.tick := rfl
@[simp] theorem putCore_cycle (s : State) (k : Nat) (x : CoreSt) : (putCore s k x).cycle = s.cycle := rfl
@[simp] theorem putCore_cur (s : State) (k : Nat) (x : CoreSt) : (putCore s k x).cur = s.cur := rfl

/-! onCore -/

@[simp] theorem onCore_drills (s : State) (k : Nat) (f : CoreSt → CoreSt) : (onCore s k f).drills = s.drills := rfl
@[simp] theorem onCore_clusters (s : State) (k : Nat) (f : CoreSt → CoreSt) : (onCore s k f).clusters = s.clusters := rfl
@[simp] theorem onCore_dies (s : State) (k : Nat) (f : CoreSt → CoreSt) : (onCore s k f).dies = s.dies := rfl
@[simp] theorem onCore_jobs (s : State) (k : Nat) (f : CoreSt → CoreSt) : (onCore s k f).jobs = s.jobs := rfl
@[simp] theorem onCore_objs (s : State) (k : Nat) (f : CoreSt → CoreSt) : (onCore s k f).objs = s.objs := rfl
@[simp] theorem onCore_gens (s : State) (k : Nat) (f : CoreSt → CoreSt) : (onCore s k f).gens = s.gens := rfl
@[simp] theorem onCore_lines (s : State) (k : Nat) (f : CoreSt → CoreSt) : (onCore s k f).lines = s.lines := rfl
@[simp] theorem onCore_mem (s : State) (k : Nat) (f : CoreSt → CoreSt) : (onCore s k f).mem = s.mem := rfl
@[simp] theorem onCore_psn (s : State) (k : Nat) (f : CoreSt → CoreSt) : (onCore s k f).psn = s.psn := rfl
@[simp] theorem onCore_stores (s : State) (k : Nat) (f : CoreSt → CoreSt) : (onCore s k f).stores = s.stores := rfl
@[simp] theorem onCore_remotes (s : State) (k : Nat) (f : CoreSt → CoreSt) : (onCore s k f).remotes = s.remotes := rfl
@[simp] theorem onCore_shoots (s : State) (k : Nat) (f : CoreSt → CoreSt) : (onCore s k f).shoots = s.shoots := rfl
@[simp] theorem onCore_nextId (s : State) (k : Nat) (f : CoreSt → CoreSt) : (onCore s k f).nextId = s.nextId := rfl
@[simp] theorem onCore_mgmt (s : State) (k : Nat) (f : CoreSt → CoreSt) : (onCore s k f).mgmt = s.mgmt := rfl
@[simp] theorem onCore_cxlUp (s : State) (k : Nat) (f : CoreSt → CoreSt) : (onCore s k f).cxlUp = s.cxlUp := rfl
@[simp] theorem onCore_hokuxUp (s : State) (k : Nat) (f : CoreSt → CoreSt) : (onCore s k f).hokuxUp = s.hokuxUp := rfl
@[simp] theorem onCore_lostParts (s : State) (k : Nat) (f : CoreSt → CoreSt) : (onCore s k f).lostParts = s.lostParts := rfl
@[simp] theorem onCore_hostSide (s : State) (k : Nat) (f : CoreSt → CoreSt) : (onCore s k f).hostSide = s.hostSide := rfl
@[simp] theorem onCore_notices (s : State) (k : Nat) (f : CoreSt → CoreSt) : (onCore s k f).notices = s.notices := rfl
@[simp] theorem onCore_sched (s : State) (k : Nat) (f : CoreSt → CoreSt) : (onCore s k f).sched = s.sched := rfl
@[simp] theorem onCore_agenda (s : State) (k : Nat) (f : CoreSt → CoreSt) : (onCore s k f).agenda = s.agenda := rfl
@[simp] theorem onCore_tick (s : State) (k : Nat) (f : CoreSt → CoreSt) : (onCore s k f).tick = s.tick := rfl
@[simp] theorem onCore_cycle (s : State) (k : Nat) (f : CoreSt → CoreSt) : (onCore s k f).cycle = s.cycle := rfl
@[simp] theorem onCore_cur (s : State) (k : Nat) (f : CoreSt → CoreSt) : (onCore s k f).cur = s.cur := rfl

/-! putCl -/

@[simp] theorem putCl_drills (s : State) (k : Nat) (x : Cluster) : (putCl s k x).drills = s.drills := rfl
@[simp] theorem putCl_cores (s : State) (k : Nat) (x : Cluster) : (putCl s k x).cores = s.cores := rfl
@[simp] theorem putCl_dies (s : State) (k : Nat) (x : Cluster) : (putCl s k x).dies = s.dies := rfl
@[simp] theorem putCl_jobs (s : State) (k : Nat) (x : Cluster) : (putCl s k x).jobs = s.jobs := rfl
@[simp] theorem putCl_objs (s : State) (k : Nat) (x : Cluster) : (putCl s k x).objs = s.objs := rfl
@[simp] theorem putCl_gens (s : State) (k : Nat) (x : Cluster) : (putCl s k x).gens = s.gens := rfl
@[simp] theorem putCl_lines (s : State) (k : Nat) (x : Cluster) : (putCl s k x).lines = s.lines := rfl
@[simp] theorem putCl_mem (s : State) (k : Nat) (x : Cluster) : (putCl s k x).mem = s.mem := rfl
@[simp] theorem putCl_psn (s : State) (k : Nat) (x : Cluster) : (putCl s k x).psn = s.psn := rfl
@[simp] theorem putCl_stores (s : State) (k : Nat) (x : Cluster) : (putCl s k x).stores = s.stores := rfl
@[simp] theorem putCl_remotes (s : State) (k : Nat) (x : Cluster) : (putCl s k x).remotes = s.remotes := rfl
@[simp] theorem putCl_shoots (s : State) (k : Nat) (x : Cluster) : (putCl s k x).shoots = s.shoots := rfl
@[simp] theorem putCl_nextId (s : State) (k : Nat) (x : Cluster) : (putCl s k x).nextId = s.nextId := rfl
@[simp] theorem putCl_mgmt (s : State) (k : Nat) (x : Cluster) : (putCl s k x).mgmt = s.mgmt := rfl
@[simp] theorem putCl_cxlUp (s : State) (k : Nat) (x : Cluster) : (putCl s k x).cxlUp = s.cxlUp := rfl
@[simp] theorem putCl_hokuxUp (s : State) (k : Nat) (x : Cluster) : (putCl s k x).hokuxUp = s.hokuxUp := rfl
@[simp] theorem putCl_lostParts (s : State) (k : Nat) (x : Cluster) : (putCl s k x).lostParts = s.lostParts := rfl
@[simp] theorem putCl_hostSide (s : State) (k : Nat) (x : Cluster) : (putCl s k x).hostSide = s.hostSide := rfl
@[simp] theorem putCl_notices (s : State) (k : Nat) (x : Cluster) : (putCl s k x).notices = s.notices := rfl
@[simp] theorem putCl_sched (s : State) (k : Nat) (x : Cluster) : (putCl s k x).sched = s.sched := rfl
@[simp] theorem putCl_agenda (s : State) (k : Nat) (x : Cluster) : (putCl s k x).agenda = s.agenda := rfl
@[simp] theorem putCl_tick (s : State) (k : Nat) (x : Cluster) : (putCl s k x).tick = s.tick := rfl
@[simp] theorem putCl_cycle (s : State) (k : Nat) (x : Cluster) : (putCl s k x).cycle = s.cycle := rfl
@[simp] theorem putCl_cur (s : State) (k : Nat) (x : Cluster) : (putCl s k x).cur = s.cur := rfl

/-! onCl -/

@[simp] theorem onCl_drills (s : State) (k : Nat) (f : Cluster → Cluster) : (onCl s k f).drills = s.drills := rfl
@[simp] theorem onCl_cores (s : State) (k : Nat) (f : Cluster → Cluster) : (onCl s k f).cores = s.cores := rfl
@[simp] theorem onCl_dies (s : State) (k : Nat) (f : Cluster → Cluster) : (onCl s k f).dies = s.dies := rfl
@[simp] theorem onCl_jobs (s : State) (k : Nat) (f : Cluster → Cluster) : (onCl s k f).jobs = s.jobs := rfl
@[simp] theorem onCl_objs (s : State) (k : Nat) (f : Cluster → Cluster) : (onCl s k f).objs = s.objs := rfl
@[simp] theorem onCl_gens (s : State) (k : Nat) (f : Cluster → Cluster) : (onCl s k f).gens = s.gens := rfl
@[simp] theorem onCl_lines (s : State) (k : Nat) (f : Cluster → Cluster) : (onCl s k f).lines = s.lines := rfl
@[simp] theorem onCl_mem (s : State) (k : Nat) (f : Cluster → Cluster) : (onCl s k f).mem = s.mem := rfl
@[simp] theorem onCl_psn (s : State) (k : Nat) (f : Cluster → Cluster) : (onCl s k f).psn = s.psn := rfl
@[simp] theorem onCl_stores (s : State) (k : Nat) (f : Cluster → Cluster) : (onCl s k f).stores = s.stores := rfl
@[simp] theorem onCl_remotes (s : State) (k : Nat) (f : Cluster → Cluster) : (onCl s k f).remotes = s.remotes := rfl
@[simp] theorem onCl_shoots (s : State) (k : Nat) (f : Cluster → Cluster) : (onCl s k f).shoots = s.shoots := rfl
@[simp] theorem onCl_nextId (s : State) (k : Nat) (f : Cluster → Cluster) : (onCl s k f).nextId = s.nextId := rfl
@[simp] theorem onCl_mgmt (s : State) (k : Nat) (f : Cluster → Cluster) : (onCl s k f).mgmt = s.mgmt := rfl
@[simp] theorem onCl_cxlUp (s : State) (k : Nat) (f : Cluster → Cluster) : (onCl s k f).cxlUp = s.cxlUp := rfl
@[simp] theorem onCl_hokuxUp (s : State) (k : Nat) (f : Cluster → Cluster) : (onCl s k f).hokuxUp = s.hokuxUp := rfl
@[simp] theorem onCl_lostParts (s : State) (k : Nat) (f : Cluster → Cluster) : (onCl s k f).lostParts = s.lostParts := rfl
@[simp] theorem onCl_hostSide (s : State) (k : Nat) (f : Cluster → Cluster) : (onCl s k f).hostSide = s.hostSide := rfl
@[simp] theorem onCl_notices (s : State) (k : Nat) (f : Cluster → Cluster) : (onCl s k f).notices = s.notices := rfl
@[simp] theorem onCl_sched (s : State) (k : Nat) (f : Cluster → Cluster) : (onCl s k f).sched = s.sched := rfl
@[simp] theorem onCl_agenda (s : State) (k : Nat) (f : Cluster → Cluster) : (onCl s k f).agenda = s.agenda := rfl
@[simp] theorem onCl_tick (s : State) (k : Nat) (f : Cluster → Cluster) : (onCl s k f).tick = s.tick := rfl
@[simp] theorem onCl_cycle (s : State) (k : Nat) (f : Cluster → Cluster) : (onCl s k f).cycle = s.cycle := rfl
@[simp] theorem onCl_cur (s : State) (k : Nat) (f : Cluster → Cluster) : (onCl s k f).cur = s.cur := rfl

/-! putDie -/

@[simp] theorem putDie_drills (s : State) (k : Nat) (x : Die) : (putDie s k x).drills = s.drills := rfl
@[simp] theorem putDie_cores (s : State) (k : Nat) (x : Die) : (putDie s k x).cores = s.cores := rfl
@[simp] theorem putDie_clusters (s : State) (k : Nat) (x : Die) : (putDie s k x).clusters = s.clusters := rfl
@[simp] theorem putDie_jobs (s : State) (k : Nat) (x : Die) : (putDie s k x).jobs = s.jobs := rfl
@[simp] theorem putDie_objs (s : State) (k : Nat) (x : Die) : (putDie s k x).objs = s.objs := rfl
@[simp] theorem putDie_gens (s : State) (k : Nat) (x : Die) : (putDie s k x).gens = s.gens := rfl
@[simp] theorem putDie_lines (s : State) (k : Nat) (x : Die) : (putDie s k x).lines = s.lines := rfl
@[simp] theorem putDie_mem (s : State) (k : Nat) (x : Die) : (putDie s k x).mem = s.mem := rfl
@[simp] theorem putDie_psn (s : State) (k : Nat) (x : Die) : (putDie s k x).psn = s.psn := rfl
@[simp] theorem putDie_stores (s : State) (k : Nat) (x : Die) : (putDie s k x).stores = s.stores := rfl
@[simp] theorem putDie_remotes (s : State) (k : Nat) (x : Die) : (putDie s k x).remotes = s.remotes := rfl
@[simp] theorem putDie_shoots (s : State) (k : Nat) (x : Die) : (putDie s k x).shoots = s.shoots := rfl
@[simp] theorem putDie_nextId (s : State) (k : Nat) (x : Die) : (putDie s k x).nextId = s.nextId := rfl
@[simp] theorem putDie_mgmt (s : State) (k : Nat) (x : Die) : (putDie s k x).mgmt = s.mgmt := rfl
@[simp] theorem putDie_cxlUp (s : State) (k : Nat) (x : Die) : (putDie s k x).cxlUp = s.cxlUp := rfl
@[simp] theorem putDie_hokuxUp (s : State) (k : Nat) (x : Die) : (putDie s k x).hokuxUp = s.hokuxUp := rfl
@[simp] theorem putDie_lostParts (s : State) (k : Nat) (x : Die) : (putDie s k x).lostParts = s.lostParts := rfl
@[simp] theorem putDie_hostSide (s : State) (k : Nat) (x : Die) : (putDie s k x).hostSide = s.hostSide := rfl
@[simp] theorem putDie_notices (s : State) (k : Nat) (x : Die) : (putDie s k x).notices = s.notices := rfl
@[simp] theorem putDie_sched (s : State) (k : Nat) (x : Die) : (putDie s k x).sched = s.sched := rfl
@[simp] theorem putDie_agenda (s : State) (k : Nat) (x : Die) : (putDie s k x).agenda = s.agenda := rfl
@[simp] theorem putDie_tick (s : State) (k : Nat) (x : Die) : (putDie s k x).tick = s.tick := rfl
@[simp] theorem putDie_cycle (s : State) (k : Nat) (x : Die) : (putDie s k x).cycle = s.cycle := rfl
@[simp] theorem putDie_cur (s : State) (k : Nat) (x : Die) : (putDie s k x).cur = s.cur := rfl

/-! onDie -/

@[simp] theorem onDie_drills (s : State) (k : Nat) (f : Die → Die) : (onDie s k f).drills = s.drills := rfl
@[simp] theorem onDie_cores (s : State) (k : Nat) (f : Die → Die) : (onDie s k f).cores = s.cores := rfl
@[simp] theorem onDie_clusters (s : State) (k : Nat) (f : Die → Die) : (onDie s k f).clusters = s.clusters := rfl
@[simp] theorem onDie_jobs (s : State) (k : Nat) (f : Die → Die) : (onDie s k f).jobs = s.jobs := rfl
@[simp] theorem onDie_objs (s : State) (k : Nat) (f : Die → Die) : (onDie s k f).objs = s.objs := rfl
@[simp] theorem onDie_gens (s : State) (k : Nat) (f : Die → Die) : (onDie s k f).gens = s.gens := rfl
@[simp] theorem onDie_lines (s : State) (k : Nat) (f : Die → Die) : (onDie s k f).lines = s.lines := rfl
@[simp] theorem onDie_mem (s : State) (k : Nat) (f : Die → Die) : (onDie s k f).mem = s.mem := rfl
@[simp] theorem onDie_psn (s : State) (k : Nat) (f : Die → Die) : (onDie s k f).psn = s.psn := rfl
@[simp] theorem onDie_stores (s : State) (k : Nat) (f : Die → Die) : (onDie s k f).stores = s.stores := rfl
@[simp] theorem onDie_remotes (s : State) (k : Nat) (f : Die → Die) : (onDie s k f).remotes = s.remotes := rfl
@[simp] theorem onDie_shoots (s : State) (k : Nat) (f : Die → Die) : (onDie s k f).shoots = s.shoots := rfl
@[simp] theorem onDie_nextId (s : State) (k : Nat) (f : Die → Die) : (onDie s k f).nextId = s.nextId := rfl
@[simp] theorem onDie_mgmt (s : State) (k : Nat) (f : Die → Die) : (onDie s k f).mgmt = s.mgmt := rfl
@[simp] theorem onDie_cxlUp (s : State) (k : Nat) (f : Die → Die) : (onDie s k f).cxlUp = s.cxlUp := rfl
@[simp] theorem onDie_hokuxUp (s : State) (k : Nat) (f : Die → Die) : (onDie s k f).hokuxUp = s.hokuxUp := rfl
@[simp] theorem onDie_lostParts (s : State) (k : Nat) (f : Die → Die) : (onDie s k f).lostParts = s.lostParts := rfl
@[simp] theorem onDie_hostSide (s : State) (k : Nat) (f : Die → Die) : (onDie s k f).hostSide = s.hostSide := rfl
@[simp] theorem onDie_notices (s : State) (k : Nat) (f : Die → Die) : (onDie s k f).notices = s.notices := rfl
@[simp] theorem onDie_sched (s : State) (k : Nat) (f : Die → Die) : (onDie s k f).sched = s.sched := rfl
@[simp] theorem onDie_agenda (s : State) (k : Nat) (f : Die → Die) : (onDie s k f).agenda = s.agenda := rfl
@[simp] theorem onDie_tick (s : State) (k : Nat) (f : Die → Die) : (onDie s k f).tick = s.tick := rfl
@[simp] theorem onDie_cycle (s : State) (k : Nat) (f : Die → Die) : (onDie s k f).cycle = s.cycle := rfl
@[simp] theorem onDie_cur (s : State) (k : Nat) (f : Die → Die) : (onDie s k f).cur = s.cur := rfl

/-! onJob -/

@[simp] theorem onJob_drills (s : State) (k : Nat) (f : Job → Job) : (onJob s k f).drills = s.drills := rfl
@[simp] theorem onJob_cores (s : State) (k : Nat) (f : Job → Job) : (onJob s k f).cores = s.cores := rfl
@[simp] theorem onJob_clusters (s : State) (k : Nat) (f : Job → Job) : (onJob s k f).clusters = s.clusters := rfl
@[simp] theorem onJob_dies (s : State) (k : Nat) (f : Job → Job) : (onJob s k f).dies = s.dies := rfl
@[simp] theorem onJob_objs (s : State) (k : Nat) (f : Job → Job) : (onJob s k f).objs = s.objs := rfl
@[simp] theorem onJob_gens (s : State) (k : Nat) (f : Job → Job) : (onJob s k f).gens = s.gens := rfl
@[simp] theorem onJob_lines (s : State) (k : Nat) (f : Job → Job) : (onJob s k f).lines = s.lines := rfl
@[simp] theorem onJob_mem (s : State) (k : Nat) (f : Job → Job) : (onJob s k f).mem = s.mem := rfl
@[simp] theorem onJob_psn (s : State) (k : Nat) (f : Job → Job) : (onJob s k f).psn = s.psn := rfl
@[simp] theorem onJob_stores (s : State) (k : Nat) (f : Job → Job) : (onJob s k f).stores = s.stores := rfl
@[simp] theorem onJob_remotes (s : State) (k : Nat) (f : Job → Job) : (onJob s k f).remotes = s.remotes := rfl
@[simp] theorem onJob_shoots (s : State) (k : Nat) (f : Job → Job) : (onJob s k f).shoots = s.shoots := rfl
@[simp] theorem onJob_nextId (s : State) (k : Nat) (f : Job → Job) : (onJob s k f).nextId = s.nextId := rfl
@[simp] theorem onJob_mgmt (s : State) (k : Nat) (f : Job → Job) : (onJob s k f).mgmt = s.mgmt := rfl
@[simp] theorem onJob_cxlUp (s : State) (k : Nat) (f : Job → Job) : (onJob s k f).cxlUp = s.cxlUp := rfl
@[simp] theorem onJob_hokuxUp (s : State) (k : Nat) (f : Job → Job) : (onJob s k f).hokuxUp = s.hokuxUp := rfl
@[simp] theorem onJob_lostParts (s : State) (k : Nat) (f : Job → Job) : (onJob s k f).lostParts = s.lostParts := rfl
@[simp] theorem onJob_hostSide (s : State) (k : Nat) (f : Job → Job) : (onJob s k f).hostSide = s.hostSide := rfl
@[simp] theorem onJob_notices (s : State) (k : Nat) (f : Job → Job) : (onJob s k f).notices = s.notices := rfl
@[simp] theorem onJob_sched (s : State) (k : Nat) (f : Job → Job) : (onJob s k f).sched = s.sched := rfl
@[simp] theorem onJob_agenda (s : State) (k : Nat) (f : Job → Job) : (onJob s k f).agenda = s.agenda := rfl
@[simp] theorem onJob_tick (s : State) (k : Nat) (f : Job → Job) : (onJob s k f).tick = s.tick := rfl
@[simp] theorem onJob_cycle (s : State) (k : Nat) (f : Job → Job) : (onJob s k f).cycle = s.cycle := rfl
@[simp] theorem onJob_cur (s : State) (k : Nat) (f : Job → Job) : (onJob s k f).cur = s.cur := rfl

/-! notify -/

@[simp] theorem notify_drills (s : State) (n : Notice) : (notify s n).drills = s.drills := rfl
@[simp] theorem notify_cores (s : State) (n : Notice) : (notify s n).cores = s.cores := rfl
@[simp] theorem notify_clusters (s : State) (n : Notice) : (notify s n).clusters = s.clusters := rfl
@[simp] theorem notify_dies (s : State) (n : Notice) : (notify s n).dies = s.dies := rfl
@[simp] theorem notify_jobs (s : State) (n : Notice) : (notify s n).jobs = s.jobs := rfl
@[simp] theorem notify_objs (s : State) (n : Notice) : (notify s n).objs = s.objs := rfl
@[simp] theorem notify_gens (s : State) (n : Notice) : (notify s n).gens = s.gens := rfl
@[simp] theorem notify_lines (s : State) (n : Notice) : (notify s n).lines = s.lines := rfl
@[simp] theorem notify_mem (s : State) (n : Notice) : (notify s n).mem = s.mem := rfl
@[simp] theorem notify_psn (s : State) (n : Notice) : (notify s n).psn = s.psn := rfl
@[simp] theorem notify_stores (s : State) (n : Notice) : (notify s n).stores = s.stores := rfl
@[simp] theorem notify_remotes (s : State) (n : Notice) : (notify s n).remotes = s.remotes := rfl
@[simp] theorem notify_shoots (s : State) (n : Notice) : (notify s n).shoots = s.shoots := rfl
@[simp] theorem notify_nextId (s : State) (n : Notice) : (notify s n).nextId = s.nextId := rfl
@[simp] theorem notify_mgmt (s : State) (n : Notice) : (notify s n).mgmt = s.mgmt := rfl
@[simp] theorem notify_cxlUp (s : State) (n : Notice) : (notify s n).cxlUp = s.cxlUp := rfl
@[simp] theorem notify_hokuxUp (s : State) (n : Notice) : (notify s n).hokuxUp = s.hokuxUp := rfl
@[simp] theorem notify_lostParts (s : State) (n : Notice) : (notify s n).lostParts = s.lostParts := rfl
@[simp] theorem notify_hostSide (s : State) (n : Notice) : (notify s n).hostSide = s.hostSide := rfl
@[simp] theorem notify_sched (s : State) (n : Notice) : (notify s n).sched = s.sched := rfl
@[simp] theorem notify_agenda (s : State) (n : Notice) : (notify s n).agenda = s.agenda := rfl
@[simp] theorem notify_tick (s : State) (n : Notice) : (notify s n).tick = s.tick := rfl
@[simp] theorem notify_cycle (s : State) (n : Notice) : (notify s n).cycle = s.cycle := rfl
@[simp] theorem notify_cur (s : State) (n : Notice) : (notify s n).cur = s.cur := rfl

/-! onDrill -/

@[simp] theorem onDrill_cores (s : State) (k : Nat) (f : Drill → Drill) : (onDrill s k f).cores = s.cores := by unfold onDrill; split <;> rfl
@[simp] theorem onDrill_clusters (s : State) (k : Nat) (f : Drill → Drill) : (onDrill s k f).clusters = s.clusters := by unfold onDrill; split <;> rfl
@[simp] theorem onDrill_dies (s : State) (k : Nat) (f : Drill → Drill) : (onDrill s k f).dies = s.dies := by unfold onDrill; split <;> rfl
@[simp] theorem onDrill_jobs (s : State) (k : Nat) (f : Drill → Drill) : (onDrill s k f).jobs = s.jobs := by unfold onDrill; split <;> rfl
@[simp] theorem onDrill_objs (s : State) (k : Nat) (f : Drill → Drill) : (onDrill s k f).objs = s.objs := by unfold onDrill; split <;> rfl
@[simp] theorem onDrill_gens (s : State) (k : Nat) (f : Drill → Drill) : (onDrill s k f).gens = s.gens := by unfold onDrill; split <;> rfl
@[simp] theorem onDrill_lines (s : State) (k : Nat) (f : Drill → Drill) : (onDrill s k f).lines = s.lines := by unfold onDrill; split <;> rfl
@[simp] theorem onDrill_mem (s : State) (k : Nat) (f : Drill → Drill) : (onDrill s k f).mem = s.mem := by unfold onDrill; split <;> rfl
@[simp] theorem onDrill_psn (s : State) (k : Nat) (f : Drill → Drill) : (onDrill s k f).psn = s.psn := by unfold onDrill; split <;> rfl
@[simp] theorem onDrill_stores (s : State) (k : Nat) (f : Drill → Drill) : (onDrill s k f).stores = s.stores := by unfold onDrill; split <;> rfl
@[simp] theorem onDrill_remotes (s : State) (k : Nat) (f : Drill → Drill) : (onDrill s k f).remotes = s.remotes := by unfold onDrill; split <;> rfl
@[simp] theorem onDrill_shoots (s : State) (k : Nat) (f : Drill → Drill) : (onDrill s k f).shoots = s.shoots := by unfold onDrill; split <;> rfl
@[simp] theorem onDrill_nextId (s : State) (k : Nat) (f : Drill → Drill) : (onDrill s k f).nextId = s.nextId := by unfold onDrill; split <;> rfl
@[simp] theorem onDrill_mgmt (s : State) (k : Nat) (f : Drill → Drill) : (onDrill s k f).mgmt = s.mgmt := by unfold onDrill; split <;> rfl
@[simp] theorem onDrill_cxlUp (s : State) (k : Nat) (f : Drill → Drill) : (onDrill s k f).cxlUp = s.cxlUp := by unfold onDrill; split <;> rfl
@[simp] theorem onDrill_hokuxUp (s : State) (k : Nat) (f : Drill → Drill) : (onDrill s k f).hokuxUp = s.hokuxUp := by unfold onDrill; split <;> rfl
@[simp] theorem onDrill_lostParts (s : State) (k : Nat) (f : Drill → Drill) : (onDrill s k f).lostParts = s.lostParts := by unfold onDrill; split <;> rfl
@[simp] theorem onDrill_hostSide (s : State) (k : Nat) (f : Drill → Drill) : (onDrill s k f).hostSide = s.hostSide := by unfold onDrill; split <;> rfl
@[simp] theorem onDrill_notices (s : State) (k : Nat) (f : Drill → Drill) : (onDrill s k f).notices = s.notices := by unfold onDrill; split <;> rfl
@[simp] theorem onDrill_sched (s : State) (k : Nat) (f : Drill → Drill) : (onDrill s k f).sched = s.sched := by unfold onDrill; split <;> rfl
@[simp] theorem onDrill_agenda (s : State) (k : Nat) (f : Drill → Drill) : (onDrill s k f).agenda = s.agenda := by unfold onDrill; split <;> rfl
@[simp] theorem onDrill_tick (s : State) (k : Nat) (f : Drill → Drill) : (onDrill s k f).tick = s.tick := by unfold onDrill; split <;> rfl
@[simp] theorem onDrill_cycle (s : State) (k : Nat) (f : Drill → Drill) : (onDrill s k f).cycle = s.cycle := by unfold onDrill; split <;> rfl
@[simp] theorem onDrill_cur (s : State) (k : Nat) (f : Drill → Drill) : (onDrill s k f).cur = s.cur := by unfold onDrill; split <;> rfl

/-! onObj -/

@[simp] theorem onObj_drills (s : State) (k : Nat) (f : Obj → Obj) : (onObj s k f).drills = s.drills := by unfold onObj; split <;> rfl
@[simp] theorem onObj_cores (s : State) (k : Nat) (f : Obj → Obj) : (onObj s k f).cores = s.cores := by unfold onObj; split <;> rfl
@[simp] theorem onObj_clusters (s : State) (k : Nat) (f : Obj → Obj) : (onObj s k f).clusters = s.clusters := by unfold onObj; split <;> rfl
@[simp] theorem onObj_dies (s : State) (k : Nat) (f : Obj → Obj) : (onObj s k f).dies = s.dies := by unfold onObj; split <;> rfl
@[simp] theorem onObj_jobs (s : State) (k : Nat) (f : Obj → Obj) : (onObj s k f).jobs = s.jobs := by unfold onObj; split <;> rfl
@[simp] theorem onObj_gens (s : State) (k : Nat) (f : Obj → Obj) : (onObj s k f).gens = s.gens := by unfold onObj; split <;> rfl
@[simp] theorem onObj_lines (s : State) (k : Nat) (f : Obj → Obj) : (onObj s k f).lines = s.lines := by unfold onObj; split <;> rfl
@[simp] theorem onObj_mem (s : State) (k : Nat) (f : Obj → Obj) : (onObj s k f).mem = s.mem := by unfold onObj; split <;> rfl
@[simp] theorem onObj_psn (s : State) (k : Nat) (f : Obj → Obj) : (onObj s k f).psn = s.psn := by unfold onObj; split <;> rfl
@[simp] theorem onObj_stores (s : State) (k : Nat) (f : Obj → Obj) : (onObj s k f).stores = s.stores := by unfold onObj; split <;> rfl
@[simp] theorem onObj_remotes (s : State) (k : Nat) (f : Obj → Obj) : (onObj s k f).remotes = s.remotes := by unfold onObj; split <;> rfl
@[simp] theorem onObj_shoots (s : State) (k : Nat) (f : Obj → Obj) : (onObj s k f).shoots = s.shoots := by unfold onObj; split <;> rfl
@[simp] theorem onObj_nextId (s : State) (k : Nat) (f : Obj → Obj) : (onObj s k f).nextId = s.nextId := by unfold onObj; split <;> rfl
@[simp] theorem onObj_mgmt (s : State) (k : Nat) (f : Obj → Obj) : (onObj s k f).mgmt = s.mgmt := by unfold onObj; split <;> rfl
@[simp] theorem onObj_cxlUp (s : State) (k : Nat) (f : Obj → Obj) : (onObj s k f).cxlUp = s.cxlUp := by unfold onObj; split <;> rfl
@[simp] theorem onObj_hokuxUp (s : State) (k : Nat) (f : Obj → Obj) : (onObj s k f).hokuxUp = s.hokuxUp := by unfold onObj; split <;> rfl
@[simp] theorem onObj_lostParts (s : State) (k : Nat) (f : Obj → Obj) : (onObj s k f).lostParts = s.lostParts := by unfold onObj; split <;> rfl
@[simp] theorem onObj_hostSide (s : State) (k : Nat) (f : Obj → Obj) : (onObj s k f).hostSide = s.hostSide := by unfold onObj; split <;> rfl
@[simp] theorem onObj_notices (s : State) (k : Nat) (f : Obj → Obj) : (onObj s k f).notices = s.notices := by unfold onObj; split <;> rfl
@[simp] theorem onObj_sched (s : State) (k : Nat) (f : Obj → Obj) : (onObj s k f).sched = s.sched := by unfold onObj; split <;> rfl
@[simp] theorem onObj_agenda (s : State) (k : Nat) (f : Obj → Obj) : (onObj s k f).agenda = s.agenda := by unfold onObj; split <;> rfl
@[simp] theorem onObj_tick (s : State) (k : Nat) (f : Obj → Obj) : (onObj s k f).tick = s.tick := by unfold onObj; split <;> rfl
@[simp] theorem onObj_cycle (s : State) (k : Nat) (f : Obj → Obj) : (onObj s k f).cycle = s.cycle := by unfold onObj; split <;> rfl
@[simp] theorem onObj_cur (s : State) (k : Nat) (f : Obj → Obj) : (onObj s k f).cur = s.cur := by unfold onObj; split <;> rfl

/-! post -/

@[simp] theorem post_drills (s : State) (m : Msg) : (post s m).drills = s.drills := by unfold post; split <;> rfl
@[simp] theorem post_cores (s : State) (m : Msg) : (post s m).cores = s.cores := by unfold post; split <;> rfl
@[simp] theorem post_clusters (s : State) (m : Msg) : (post s m).clusters = s.clusters := by unfold post; split <;> rfl
@[simp] theorem post_dies (s : State) (m : Msg) : (post s m).dies = s.dies := by unfold post; split <;> rfl
@[simp] theorem post_jobs (s : State) (m : Msg) : (post s m).jobs = s.jobs := by unfold post; split <;> rfl
@[simp] theorem post_objs (s : State) (m : Msg) : (post s m).objs = s.objs := by unfold post; split <;> rfl
@[simp] theorem post_gens (s : State) (m : Msg) : (post s m).gens = s.gens := by unfold post; split <;> rfl
@[simp] theorem post_lines (s : State) (m : Msg) : (post s m).lines = s.lines := by unfold post; split <;> rfl
@[simp] theorem post_mem (s : State) (m : Msg) : (post s m).mem = s.mem := by unfold post; split <;> rfl
@[simp] theorem post_psn (s : State) (m : Msg) : (post s m).psn = s.psn := by unfold post; split <;> rfl
@[simp] theorem post_stores (s : State) (m : Msg) : (post s m).stores = s.stores := by unfold post; split <;> rfl
@[simp] theorem post_remotes (s : State) (m : Msg) : (post s m).remotes = s.remotes := by unfold post; split <;> rfl
@[simp] theorem post_shoots (s : State) (m : Msg) : (post s m).shoots = s.shoots := by unfold post; split <;> rfl
@[simp] theorem post_nextId (s : State) (m : Msg) : (post s m).nextId = s.nextId := by unfold post; split <;> rfl
@[simp] theorem post_mgmt (s : State) (m : Msg) : (post s m).mgmt = s.mgmt := by unfold post; split <;> rfl
@[simp] theorem post_cxlUp (s : State) (m : Msg) : (post s m).cxlUp = s.cxlUp := by unfold post; split <;> rfl
@[simp] theorem post_hokuxUp (s : State) (m : Msg) : (post s m).hokuxUp = s.hokuxUp := by unfold post; split <;> rfl
@[simp] theorem post_lostParts (s : State) (m : Msg) : (post s m).lostParts = s.lostParts := by unfold post; split <;> rfl
@[simp] theorem post_hostSide (s : State) (m : Msg) : (post s m).hostSide = s.hostSide := by unfold post; split <;> rfl
@[simp] theorem post_notices (s : State) (m : Msg) : (post s m).notices = s.notices := by unfold post; split <;> rfl
@[simp] theorem post_sched (s : State) (m : Msg) : (post s m).sched = s.sched := by unfold post; split <;> rfl
@[simp] theorem post_tick (s : State) (m : Msg) : (post s m).tick = s.tick := by unfold post; split <;> rfl
@[simp] theorem post_cycle (s : State) (m : Msg) : (post s m).cycle = s.cycle := by unfold post; split <;> rfl
@[simp] theorem post_cur (s : State) (m : Msg) : (post s m).cur = s.cur := by unfold post; split <;> rfl

/-! wake -/

@[simp] theorem wake_cores (s : State) (p : Wait → Bool) : (wake s p).cores = s.cores := rfl
@[simp] theorem wake_clusters (s : State) (p : Wait → Bool) : (wake s p).clusters = s.clusters := rfl
@[simp] theorem wake_dies (s : State) (p : Wait → Bool) : (wake s p).dies = s.dies := rfl
@[simp] theorem wake_jobs (s : State) (p : Wait → Bool) : (wake s p).jobs = s.jobs := rfl
@[simp] theorem wake_objs (s : State) (p : Wait → Bool) : (wake s p).objs = s.objs := rfl
@[simp] theorem wake_gens (s : State) (p : Wait → Bool) : (wake s p).gens = s.gens := rfl
@[simp] theorem wake_lines (s : State) (p : Wait → Bool) : (wake s p).lines = s.lines := rfl
@[simp] theorem wake_mem (s : State) (p : Wait → Bool) : (wake s p).mem = s.mem := rfl
@[simp] theorem wake_psn (s : State) (p : Wait → Bool) : (wake s p).psn = s.psn := rfl
@[simp] theorem wake_stores (s : State) (p : Wait → Bool) : (wake s p).stores = s.stores := rfl
@[simp] theorem wake_remotes (s : State) (p : Wait → Bool) : (wake s p).remotes = s.remotes := rfl
@[simp] theorem wake_shoots (s : State) (p : Wait → Bool) : (wake s p).shoots = s.shoots := rfl
@[simp] theorem wake_nextId (s : State) (p : Wait → Bool) : (wake s p).nextId = s.nextId := rfl
@[simp] theorem wake_mgmt (s : State) (p : Wait → Bool) : (wake s p).mgmt = s.mgmt := rfl
@[simp] theorem wake_cxlUp (s : State) (p : Wait → Bool) : (wake s p).cxlUp = s.cxlUp := rfl
@[simp] theorem wake_hokuxUp (s : State) (p : Wait → Bool) : (wake s p).hokuxUp = s.hokuxUp := rfl
@[simp] theorem wake_lostParts (s : State) (p : Wait → Bool) : (wake s p).lostParts = s.lostParts := rfl
@[simp] theorem wake_hostSide (s : State) (p : Wait → Bool) : (wake s p).hostSide = s.hostSide := rfl
@[simp] theorem wake_notices (s : State) (p : Wait → Bool) : (wake s p).notices = s.notices := rfl
@[simp] theorem wake_sched (s : State) (p : Wait → Bool) : (wake s p).sched = s.sched := rfl
@[simp] theorem wake_agenda (s : State) (p : Wait → Bool) : (wake s p).agenda = s.agenda := rfl
@[simp] theorem wake_tick (s : State) (p : Wait → Bool) : (wake s p).tick = s.tick := rfl
@[simp] theorem wake_cycle (s : State) (p : Wait → Bool) : (wake s p).cycle = s.cycle := rfl
@[simp] theorem wake_cur (s : State) (p : Wait → Bool) : (wake s p).cur = s.cur := rfl

/-! ## What is read after an update -/

@[simp] theorem drillAt_putDrill (s : State) (k j : Nat) (d : Drill) : drillAt (putDrill s k d) j = if j = k then some d else drillAt s j := tabFind_tabPut s.drills k j d
theorem drillAt_onDrill (s : State) (k j : Nat) (f : Drill → Drill) : drillAt (onDrill s k f) j = if j = k then (drillAt s k).map f else drillAt s j := by
  unfold onDrill
  cases h : drillAt s k with
  | none => simp only [Option.map_none]; split <;> simp_all
  | some d => simp only [drillAt_putDrill, Option.map_some]
@[simp] theorem coreAt_putCore (s : State) (k j : Nat) (x : CoreSt) : coreAt (putCore s k x) j = if j = k then x else coreAt s j := tabGet_tabSet _ _ _ _ _
@[simp] theorem coreAt_onCore (s : State) (k j : Nat) (f : CoreSt → CoreSt) : coreAt (onCore s k f) j = if j = k then f (coreAt s k) else coreAt s j := coreAt_putCore _ _ _ _
@[simp] theorem clAt_putCl (s : State) (k j : Nat) (x : Cluster) : clAt (putCl s k x) j = if j = k then x else clAt s j := tabGet_tabSet _ _ _ _ _
@[simp] theorem clAt_onCl (s : State) (k j : Nat) (f : Cluster → Cluster) : clAt (onCl s k f) j = if j = k then f (clAt s k) else clAt s j := clAt_putCl _ _ _ _
@[simp] theorem dieAt_putDie (s : State) (k j : Nat) (x : Die) : dieAt (putDie s k x) j = if j = k then x else dieAt s j := tabGet_tabSet _ _ _ _ _
@[simp] theorem dieAt_onDie (s : State) (k j : Nat) (f : Die → Die) : dieAt (onDie s k f) j = if j = k then f (dieAt s k) else dieAt s j := dieAt_putDie _ _ _ _
@[simp] theorem jobAt_onJob (s : State) (k j : Nat) (f : Job → Job) : jobAt (onJob s k f) j = if j = k then f (jobAt s k) else jobAt s j := tabGet_tabPut _ _ _ _ _
theorem objAt_onObj (s : State) (k j : Nat) (f : Obj → Obj) : objAt (onObj s k f) j = if j = k then (objAt s k).map f else objAt s j := by
  unfold onObj
  cases h : objAt s k with
  | none => simp only [Option.map_none]; split <;> simp_all
  | some o => simp only [Option.map_some]; exact tabFind_tabPut s.objs k j (f o)
/-! A part reads the same in states that hold the same table. -/
theorem drillAt_congr {s t : State} (h : t.drills = s.drills) (k : Nat) : drillAt t k = drillAt s k := by simp [drillAt, h]
theorem coreAt_congr {s t : State} (h : t.cores = s.cores) (k : Nat) : coreAt t k = coreAt s k := by simp [coreAt, h]
theorem clAt_congr {s t : State} (h : t.clusters = s.clusters) (k : Nat) : clAt t k = clAt s k := by simp [clAt, h]
theorem dieAt_congr {s t : State} (h : t.dies = s.dies) (k : Nat) : dieAt t k = dieAt s k := by simp [dieAt, h]
theorem jobAt_congr {s t : State} (h : t.jobs = s.jobs) (k : Nat) : jobAt t k = jobAt s k := by simp [jobAt, h]
theorem objAt_congr {s t : State} (h : t.objs = s.objs) (k : Nat) : objAt t k = objAt s k := by simp [objAt, h]

@[simp] theorem drillAt_putCore (s : State) (k : Nat) (x : CoreSt) (j : Nat) : drillAt (putCore s k x) j = drillAt s j := drillAt_congr (by simp) j
@[simp] theorem drillAt_onCore (s : State) (k : Nat) (f : CoreSt → CoreSt) (j : Nat) : drillAt (onCore s k f) j = drillAt s j := drillAt_congr (by simp) j
@[simp] theorem drillAt_putCl (s : State) (k : Nat) (x : Cluster) (j : Nat) : drillAt (putCl s k x) j = drillAt s j := drillAt_congr (by simp) j
@[simp] theorem drillAt_onCl (s : State) (k : Nat) (f : Cluster → Cluster) (j : Nat) : drillAt (onCl s k f) j = drillAt s j := drillAt_congr (by simp) j
@[simp] theorem drillAt_putDie (s : State) (k : Nat) (x : Die) (j : Nat) : drillAt (putDie s k x) j = drillAt s j := drillAt_congr (by simp) j
@[simp] theorem drillAt_onDie (s : State) (k : Nat) (f : Die → Die) (j : Nat) : drillAt (onDie s k f) j = drillAt s j := drillAt_congr (by simp) j
@[simp] theorem drillAt_onJob (s : State) (k : Nat) (f : Job → Job) (j : Nat) : drillAt (onJob s k f) j = drillAt s j := drillAt_congr (by simp) j
@[simp] theorem drillAt_notify (s : State) (n : Notice) (j : Nat) : drillAt (notify s n) j = drillAt s j := drillAt_congr (by simp) j
@[simp] theorem drillAt_onObj (s : State) (k : Nat) (f : Obj → Obj) (j : Nat) : drillAt (onObj s k f) j = drillAt s j := drillAt_congr (by simp) j
@[simp] theorem drillAt_post (s : State) (m : Msg) (j : Nat) : drillAt (post s m) j = drillAt s j := drillAt_congr (by simp) j
@[simp] theorem coreAt_putDrill (s : State) (k : Nat) (d : Drill) (j : Nat) : coreAt (putDrill s k d) j = coreAt s j := coreAt_congr (by simp) j
@[simp] theorem coreAt_putCl (s : State) (k : Nat) (x : Cluster) (j : Nat) : coreAt (putCl s k x) j = coreAt s j := coreAt_congr (by simp) j
@[simp] theorem coreAt_onCl (s : State) (k : Nat) (f : Cluster → Cluster) (j : Nat) : coreAt (onCl s k f) j = coreAt s j := coreAt_congr (by simp) j
@[simp] theorem coreAt_putDie (s : State) (k : Nat) (x : Die) (j : Nat) : coreAt (putDie s k x) j = coreAt s j := coreAt_congr (by simp) j
@[simp] theorem coreAt_onDie (s : State) (k : Nat) (f : Die → Die) (j : Nat) : coreAt (onDie s k f) j = coreAt s j := coreAt_congr (by simp) j
@[simp] theorem coreAt_onJob (s : State) (k : Nat) (f : Job → Job) (j : Nat) : coreAt (onJob s k f) j = coreAt s j := coreAt_congr (by simp) j
@[simp] theorem coreAt_notify (s : State) (n : Notice) (j : Nat) : coreAt (notify s n) j = coreAt s j := coreAt_congr (by simp) j
@[simp] theorem coreAt_onObj (s : State) (k : Nat) (f : Obj → Obj) (j : Nat) : coreAt (onObj s k f) j = coreAt s j := coreAt_congr (by simp) j
@[simp] theorem coreAt_post (s : State) (m : Msg) (j : Nat) : coreAt (post s m) j = coreAt s j := coreAt_congr (by simp) j
@[simp] theorem coreAt_onDrill (s : State) (k : Nat) (f : Drill → Drill) (j : Nat) : coreAt (onDrill s k f) j = coreAt s j := coreAt_congr (by simp) j
@[simp] theorem clAt_putDrill (s : State) (k : Nat) (d : Drill) (j : Nat) : clAt (putDrill s k d) j = clAt s j := clAt_congr (by simp) j
@[simp] theorem clAt_putCore (s : State) (k : Nat) (x : CoreSt) (j : Nat) : clAt (putCore s k x) j = clAt s j := clAt_congr (by simp) j
@[simp] theorem clAt_onCore (s : State) (k : Nat) (f : CoreSt → CoreSt) (j : Nat) : clAt (onCore s k f) j = clAt s j := clAt_congr (by simp) j
@[simp] theorem clAt_putDie (s : State) (k : Nat) (x : Die) (j : Nat) : clAt (putDie s k x) j = clAt s j := clAt_congr (by simp) j
@[simp] theorem clAt_onDie (s : State) (k : Nat) (f : Die → Die) (j : Nat) : clAt (onDie s k f) j = clAt s j := clAt_congr (by simp) j
@[simp] theorem clAt_onJob (s : State) (k : Nat) (f : Job → Job) (j : Nat) : clAt (onJob s k f) j = clAt s j := clAt_congr (by simp) j
@[simp] theorem clAt_notify (s : State) (n : Notice) (j : Nat) : clAt (notify s n) j = clAt s j := clAt_congr (by simp) j
@[simp] theorem clAt_onObj (s : State) (k : Nat) (f : Obj → Obj) (j : Nat) : clAt (onObj s k f) j = clAt s j := clAt_congr (by simp) j
@[simp] theorem clAt_post (s : State) (m : Msg) (j : Nat) : clAt (post s m) j = clAt s j := clAt_congr (by simp) j
@[simp] theorem clAt_onDrill (s : State) (k : Nat) (f : Drill → Drill) (j : Nat) : clAt (onDrill s k f) j = clAt s j := clAt_congr (by simp) j
@[simp] theorem dieAt_putDrill (s : State) (k : Nat) (d : Drill) (j : Nat) : dieAt (putDrill s k d) j = dieAt s j := dieAt_congr (by simp) j
@[simp] theorem dieAt_putCore (s : State) (k : Nat) (x : CoreSt) (j : Nat) : dieAt (putCore s k x) j = dieAt s j := dieAt_congr (by simp) j
@[simp] theorem dieAt_onCore (s : State) (k : Nat) (f : CoreSt → CoreSt) (j : Nat) : dieAt (onCore s k f) j = dieAt s j := dieAt_congr (by simp) j
@[simp] theorem dieAt_putCl (s : State) (k : Nat) (x : Cluster) (j : Nat) : dieAt (putCl s k x) j = dieAt s j := dieAt_congr (by simp) j
@[simp] theorem dieAt_onCl (s : State) (k : Nat) (f : Cluster → Cluster) (j : Nat) : dieAt (onCl s k f) j = dieAt s j := dieAt_congr (by simp) j
@[simp] theorem dieAt_onJob (s : State) (k : Nat) (f : Job → Job) (j : Nat) : dieAt (onJob s k f) j = dieAt s j := dieAt_congr (by simp) j
@[simp] theorem dieAt_notify (s : State) (n : Notice) (j : Nat) : dieAt (notify s n) j = dieAt s j := dieAt_congr (by simp) j
@[simp] theorem dieAt_onObj (s : State) (k : Nat) (f : Obj → Obj) (j : Nat) : dieAt (onObj s k f) j = dieAt s j := dieAt_congr (by simp) j
@[simp] theorem dieAt_post (s : State) (m : Msg) (j : Nat) : dieAt (post s m) j = dieAt s j := dieAt_congr (by simp) j
@[simp] theorem dieAt_onDrill (s : State) (k : Nat) (f : Drill → Drill) (j : Nat) : dieAt (onDrill s k f) j = dieAt s j := dieAt_congr (by simp) j
@[simp] theorem jobAt_putDrill (s : State) (k : Nat) (d : Drill) (j : Nat) : jobAt (putDrill s k d) j = jobAt s j := jobAt_congr (by simp) j
@[simp] theorem jobAt_putCore (s : State) (k : Nat) (x : CoreSt) (j : Nat) : jobAt (putCore s k x) j = jobAt s j := jobAt_congr (by simp) j
@[simp] theorem jobAt_onCore (s : State) (k : Nat) (f : CoreSt → CoreSt) (j : Nat) : jobAt (onCore s k f) j = jobAt s j := jobAt_congr (by simp) j
@[simp] theorem jobAt_putCl (s : State) (k : Nat) (x : Cluster) (j : Nat) : jobAt (putCl s k x) j = jobAt s j := jobAt_congr (by simp) j
@[simp] theorem jobAt_onCl (s : State) (k : Nat) (f : Cluster → Cluster) (j : Nat) : jobAt (onCl s k f) j = jobAt s j := jobAt_congr (by simp) j
@[simp] theorem jobAt_putDie (s : State) (k : Nat) (x : Die) (j : Nat) : jobAt (putDie s k x) j = jobAt s j := jobAt_congr (by simp) j
@[simp] theorem jobAt_onDie (s : State) (k : Nat) (f : Die → Die) (j : Nat) : jobAt (onDie s k f) j = jobAt s j := jobAt_congr (by simp) j
@[simp] theorem jobAt_notify (s : State) (n : Notice) (j : Nat) : jobAt (notify s n) j = jobAt s j := jobAt_congr (by simp) j
@[simp] theorem jobAt_onObj (s : State) (k : Nat) (f : Obj → Obj) (j : Nat) : jobAt (onObj s k f) j = jobAt s j := jobAt_congr (by simp) j
@[simp] theorem jobAt_post (s : State) (m : Msg) (j : Nat) : jobAt (post s m) j = jobAt s j := jobAt_congr (by simp) j
@[simp] theorem jobAt_onDrill (s : State) (k : Nat) (f : Drill → Drill) (j : Nat) : jobAt (onDrill s k f) j = jobAt s j := jobAt_congr (by simp) j
@[simp] theorem objAt_putDrill (s : State) (k : Nat) (d : Drill) (j : Nat) : objAt (putDrill s k d) j = objAt s j := objAt_congr (by simp) j
@[simp] theorem objAt_putCore (s : State) (k : Nat) (x : CoreSt) (j : Nat) : objAt (putCore s k x) j = objAt s j := objAt_congr (by simp) j
@[simp] theorem objAt_onCore (s : State) (k : Nat) (f : CoreSt → CoreSt) (j : Nat) : objAt (onCore s k f) j = objAt s j := objAt_congr (by simp) j
@[simp] theorem objAt_putCl (s : State) (k : Nat) (x : Cluster) (j : Nat) : objAt (putCl s k x) j = objAt s j := objAt_congr (by simp) j
@[simp] theorem objAt_onCl (s : State) (k : Nat) (f : Cluster → Cluster) (j : Nat) : objAt (onCl s k f) j = objAt s j := objAt_congr (by simp) j
@[simp] theorem objAt_putDie (s : State) (k : Nat) (x : Die) (j : Nat) : objAt (putDie s k x) j = objAt s j := objAt_congr (by simp) j
@[simp] theorem objAt_onDie (s : State) (k : Nat) (f : Die → Die) (j : Nat) : objAt (onDie s k f) j = objAt s j := objAt_congr (by simp) j
@[simp] theorem objAt_onJob (s : State) (k : Nat) (f : Job → Job) (j : Nat) : objAt (onJob s k f) j = objAt s j := objAt_congr (by simp) j
@[simp] theorem objAt_notify (s : State) (n : Notice) (j : Nat) : objAt (notify s n) j = objAt s j := objAt_congr (by simp) j
@[simp] theorem objAt_post (s : State) (m : Msg) (j : Nat) : objAt (post s m) j = objAt s j := objAt_congr (by simp) j
@[simp] theorem objAt_onDrill (s : State) (k : Nat) (f : Drill → Drill) (j : Nat) : objAt (onDrill s k f) j = objAt s j := objAt_congr (by simp) j

end Sys2Proof.Machine
end

