-- ==== Sys2Proof/Laws/Stem.lean ====
section
/-! SUPPORT. The pipeline of stem words: when a word issues its body decides what it does, and what its completion leaves as it was. -/
namespace Sys2Proof.Machine

/-! ## Nothing else moves -/

theorem SameModule.refl (s : State) : SameModule s s := ⟨rfl, rfl, rfl, rfl, rfl, rfl, rfl, rfl, rfl, rfl, rfl, rfl, rfl, rfl, rfl, rfl, rfl, rfl, rfl, rfl, rfl, rfl⟩
theorem SameModule.trans {s t u : State} (a : SameModule s t) (b : SameModule t u) : SameModule s u :=
  ⟨b.cores.trans a.cores, b.clusters.trans a.clusters, b.dies.trans a.dies, b.jobs.trans a.jobs, b.gens.trans a.gens, b.lines.trans a.lines,
    b.mem.trans a.mem, b.psn.trans a.psn, b.stores.trans a.stores, b.remotes.trans a.remotes, b.shoots.trans a.shoots, b.nextId.trans a.nextId,
    b.mgmt.trans a.mgmt, b.cxlUp.trans a.cxlUp, b.hokuxUp.trans a.hokuxUp, b.lostParts.trans a.lostParts, b.hostSide.trans a.hostSide,
    b.notices.trans a.notices, b.sched.trans a.sched, b.tick.trans a.tick, b.cycle.trans a.cycle, b.cur.trans a.cur⟩
theorem SameModule.foldl {α : Type} (f : State → α → State) (hf : ∀ t x, SameModule t (f t x)) (l : List α) (s : State) : SameModule s (l.foldl f s) := by
  induction l generalizing s with
  | nil => exact SameModule.refl s
  | cons x r ih => exact (hf s x).trans (ih _)
theorem sameModule_putDrill (s : State) (k : Nat) (d : Drill) : SameModule s (putDrill s k d) := by constructor <;> rfl
theorem sameModule_onDrill (s : State) (k : Nat) (f : Drill → Drill) : SameModule s (onDrill s k f) := by constructor <;> simp
theorem sameModule_onObj (s : State) (k : Nat) (f : Obj → Obj) : SameModule s (onObj s k f) := by constructor <;> simp
theorem sameModule_post (s : State) (m : Msg) : SameModule s (post s m) := by constructor <;> simp

/-! ## Hoses (spec 02, R38; 11, R220) -/

/-- A fold keeps what each of its steps keeps. -/
theorem foldl_keeps {α β : Type} (g : State → β) (f : State → α → State) (hf : ∀ t x, g (f t x) = g t) (l : List α) (s : State) : g (l.foldl f s) = g s := by
  induction l generalizing s with
  | nil => rfl
  | cons x r ih => exact (ih _).trans (hf s x)
theorem hoseRetest_sameModule (s : State) (slot h : Nat) : SameModule s (hoseRetest s slot h) := by
  unfold hoseRetest
  refine SameModule.trans ?_ (SameModule.foldl _ (fun t k => ?_) _ _)
  · split
    · exact sameModule_post _ _
    · exact SameModule.refl _
  · split
    · exact SameModule.refl _
    · dsimp only; split <;> split <;> first | exact SameModule.refl _ | exact sameModule_post _ _ | exact (sameModule_post _ _).trans (sameModule_post _ _)
/-- A retest only sends messages. -/
theorem hoseRetest_keeps {β : Type} (g : State → β) (hg : ∀ t m, g (post t m) = g t) (s : State) (slot h : Nat) : g (hoseRetest s slot h) = g s := by
  unfold hoseRetest
  rw [foldl_keeps g]
  · split
    · exact hg _ _
    · rfl
  · intro t k
    split
    · rfl
    · dsimp only; split <;> split <;> simp [hg]
@[simp] theorem drillAt_hoseRetest (s : State) (slot h j : Nat) : drillAt (hoseRetest s slot h) j = drillAt s j := hoseRetest_keeps (fun t => drillAt t j) (by simp) s slot h
@[simp] theorem objAt_hoseRetest (s : State) (slot h j : Nat) : objAt (hoseRetest s slot h) j = objAt s j := hoseRetest_keeps (fun t => objAt t j) (by simp) s slot h

/-- Only the private queues of drill d change between d and e. -/
def HosesOnly (d e : Drill) : Prop := e = { d with hoses := e.hoses }
theorem HosesOnly.refl (d : Drill) : HosesOnly d d := rfl
theorem HosesOnly.trans {d e f : Drill} (a : HosesOnly d e) (b : HosesOnly e f) : HosesOnly d f := by unfold HosesOnly at *; rw [b, a]
theorem hosesOnly_set (d : Drill) (q : Tab (List Vec)) : HosesOnly d { d with hoses := q } := rfl

/-- What moving entries of the hoses of one drill leaves: the drill but for its private queues, every other drill, every object but the bed's queues,
and the module. -/
structure HoseFrame (s t : State) (slot : Nat) (d e : Drill) : Prop where
  here : drillAt t slot = some e
  drill : HosesOnly d e
  others : ∀ k, k ≠ slot → drillAt t k = drillAt s k
  bed : (∃ o, objAt s d.bed = some o) → ∃ o, objAt t d.bed = some o
  objs : ∀ k, (objAt t k).map (fun o => { o with hoses := [] }) = (objAt s k).map (fun o => { o with hoses := [] })
  rest : SameModule s t
theorem HoseFrame.refl {s : State} {slot : Nat} {d : Drill} (h : drillAt s slot = some d) : HoseFrame s s slot d d :=
  ⟨h, rfl, fun _ _ => rfl, id, fun _ => rfl, SameModule.refl s⟩
theorem HoseFrame.trans {s t u : State} {slot : Nat} {d e f : Drill} (a : HoseFrame s t slot d e) (b : HoseFrame t u slot e f) : HoseFrame s u slot d f := by
  have hb : e.bed = d.bed := by rw [a.drill]
  exact ⟨b.here, a.drill.trans b.drill, fun k h => (b.others k h).trans (a.others k h), fun h => hb ▸ b.bed (hb ▸ a.bed h),
    fun k => (b.objs k).trans (a.objs k), a.rest.trans b.rest⟩

theorem hosePut_frame {s : State} {slot : Nat} {d : Drill} (hd : drillAt s slot = some d) (h : Nat) (q : List Vec) :
    ∃ e, HoseFrame s (hosePut s slot h q) slot d e ∧ hoseQ (hosePut s slot h q) e = fun j => if j = h ∧ (bedHose h = true → (objAt s d.bed).isSome) then q else hoseQ s d j := by
  unfold hosePut
  simp only [hd]
  by_cases hb : bedHose h = true
  · simp only [hb, if_true]
    refine ⟨d, ⟨by simpa using hd, rfl, fun k _ => by simp, ?_, ?_, sameModule_onObj _ _ _⟩, ?_⟩
    · rintro ⟨o, ho⟩; exact ⟨_, by rw [objAt_onObj, if_pos rfl, ho]; rfl⟩
    · intro k; rw [objAt_onObj]; split
      · subst k; cases objAt s d.bed <;> rfl
      · rfl
    · funext j
      unfold hoseQ
      by_cases hj : bedHose j = true
      · simp only [hj, if_true, objAt_onObj]
        cases ho : objAt s d.bed with
        | none => simp
        | some o => simp only [Option.map_some, tabGet_tabSet, Option.isSome_some, implies_true, and_true]
      · have hjh : j ≠ h := fun e => hj (e ▸ hb)
        simp [hj, hjh]
  · simp only [hb]
    refine ⟨{ d with hoses := tabSet [] d.hoses h q }, ⟨by simp, rfl, fun k hk => by simp [hk], ?_, fun k => by simp, sameModule_putDrill _ _ _⟩, ?_⟩
    · simp
    · funext j
      unfold hoseQ
      by_cases hj : bedHose j = true
      · have hjh : j ≠ h := fun e => hb (e ▸ hj)
        simp [hj, hjh]
      · simp only [hj, tabGet_tabSet]; simp

theorem hoseRetest_frame {s : State} {slot : Nat} {d : Drill} (hd : drillAt s slot = some d) (h : Nat) : HoseFrame s (hoseRetest s slot h) slot d d :=
  ⟨by simpa using hd, rfl, fun k _ => by simp, by simp, fun k => by simp, hoseRetest_sameModule s slot h⟩
theorem hoseQ_hoseRetest (s : State) (slot h : Nat) (d : Drill) : hoseQ (hoseRetest s slot h) d = hoseQ s d := by funext j; simp [hoseQ]

/-- One pop: the hose loses its oldest entry. -/
theorem hosePop_frame {s : State} {slot : Nat} {d : Drill} (hd : drillAt s slot = some d) (ho : ∃ o, objAt s d.bed = some o) (h : Nat) :
    ∃ e, HoseFrame s (hosePop s slot h 1) slot d e ∧ hoseQ (hosePop s slot h 1) e = fun j => if j = h then (hoseQ s d h).drop 1 else hoseQ s d j := by
  obtain ⟨o, ho⟩ := ho
  obtain ⟨e, f, q⟩ := hosePut_frame hd h ((hoseQ s d h).drop 1)
  refine ⟨e, ?_, ?_⟩ <;> simp only [hosePop, hd, Nat.one_ne_zero, if_false]
  · exact f.trans (hoseRetest_frame f.here h)
  · rw [hoseQ_hoseRetest, q]; funext j; simp [ho]
/-- One push: the entry joins the hose at its tail. -/
theorem hosePush_frame {s : State} {slot : Nat} {d : Drill} (hd : drillAt s slot = some d) (ho : ∃ o, objAt s d.bed = some o) (h : Nat) (x : Vec) :
    ∃ e, HoseFrame s (hosePush s slot h x) slot d e ∧ hoseQ (hosePush s slot h x) e = fun j => if j = h then hoseQ s d h ++ [x] else hoseQ s d j := by
  obtain ⟨o, ho⟩ := ho
  obtain ⟨e, f, q⟩ := hosePut_frame hd h (hoseQ s d h ++ [x])
  refine ⟨e, ?_, ?_⟩ <;> simp only [hosePush, hd]
  · exact f.trans (hoseRetest_frame f.here h)
  · rw [hoseQ_hoseRetest, q]; funext j; simp [ho]

/-- Every pop: each hose loses one entry for each time it stands in the list. -/
theorem hosePops_frame (pops : List Nat) {s : State} {slot : Nat} {d : Drill} (hd : drillAt s slot = some d) (ho : ∃ o, objAt s d.bed = some o) :
    ∃ e, HoseFrame s (pops.foldl (fun t h => hosePop t slot h 1) s) slot d e ∧
      hoseQ (pops.foldl (fun t h => hosePop t slot h 1) s) e = fun j => (hoseQ s d j).drop (countOf pops j) := by
  induction pops generalizing s d with
  | nil => exact ⟨d, HoseFrame.refl hd, by funext j; simp [countOf]⟩
  | cons h r ih =>
    obtain ⟨e, f, q⟩ := hosePop_frame hd ho h
    have hb : e.bed = d.bed := by rw [f.drill]
    obtain ⟨e', f', q'⟩ := ih f.here (hb ▸ f.bed ho)
    refine ⟨e', f.trans f', ?_⟩
    simp only [List.foldl_cons]
    rw [q', q]
    funext j
    by_cases hj : j = h
    · subst j; simp [countOf, Nat.add_comm]
    · simp only [hj, if_false, countOf]; rw [List.filter_cons_of_neg (by simpa using fun h => hj h.symm)]
/-- Every push: each hose gains the entries pushed to it, in order. -/
theorem hosePushes_frame (pushes : List (Nat × Vec)) {s : State} {slot : Nat} {d : Drill} (hd : drillAt s slot = some d) (ho : ∃ o, objAt s d.bed = some o) :
    ∃ e, HoseFrame s (pushes.foldl (fun t p => hosePush t slot p.1 p.2) s) slot d e ∧
      hoseQ (pushes.foldl (fun t p => hosePush t slot p.1 p.2) s) e = fun j => hoseQ s d j ++ (pushes.filter (fun p => decide (p.1 = j))).map (·.2) := by
  induction pushes generalizing s d with
  | nil => exact ⟨d, HoseFrame.refl hd, by funext j; simp⟩
  | cons p r ih =>
    obtain ⟨e, f, q⟩ := hosePush_frame hd ho p.1 p.2
    have hb : e.bed = d.bed := by rw [f.drill]
    obtain ⟨e', f', q'⟩ := ih f.here (hb ▸ f.bed ho)
    refine ⟨e', f.trans f', ?_⟩
    simp only [List.foldl_cons]
    rw [q', q]
    funext j
    by_cases hj : j = p.1
    · subst j; simp
    · simp only [hj, if_false]; rw [List.filter_cons_of_neg (by simpa using fun h => hj h.symm)]
/-- Every pop, then every push (R38). -/
theorem hoseMoves_frame {s : State} {slot : Nat} {d : Drill} (hd : drillAt s slot = some d) (ho : ∃ o, objAt s d.bed = some o) (pops : List Nat) (pushes : List (Nat × Vec)) :
    ∃ e, HoseFrame s (hoseMoves s slot pops pushes) slot d e ∧
      hoseQ (hoseMoves s slot pops pushes) e = fun j => (hoseQ s d j).drop (countOf pops j) ++ (pushes.filter (fun p => decide (p.1 = j))).map (·.2) := by
  obtain ⟨e, f, q⟩ := hosePops_frame pops hd ho
  have hb : e.bed = d.bed := by rw [f.drill]
  obtain ⟨e', f', q'⟩ := hosePushes_frame pushes f.here (hb ▸ f.bed ho)
  exact ⟨e', f.trans f', by unfold hoseMoves; rw [q', q]⟩

/-! ## Registers and windows of a stem word -/

@[simp] theorem gGet_zero (d : Drill) : gGet d 0 = 0 := rfl
theorem gGet_gPut (d : Drill) (r j : Nat) (x : Word) : gGet (gPut d r x) j = if j = r ∧ r ≠ 0 then x else gGet d j := by
  unfold gPut gGet
  by_cases hr : r = 0
  · simp [hr]
  · by_cases hj : j = 0
    · subst j; simp [hr]; intro h; exact absurd h.symm hr
    · simp [hr, hj, tabGet_tabSet]
/-- Only general registers and windows differ. -/
def RegsOnly (d e : Drill) : Prop := e = { d with g := e.g, wins := e.wins, heldIssues := e.heldIssues }
theorem RegsOnly.refl (d : Drill) : RegsOnly d d := rfl
theorem RegsOnly.trans {d e f : Drill} (a : RegsOnly d e) (b : RegsOnly e f) : RegsOnly d f := by unfold RegsOnly at *; rw [b, a]
theorem regsOnly_gPut (d : Drill) (r : Nat) (x : Word) : RegsOnly d (gPut d r x) := by unfold gPut; split <;> rfl
theorem foldl_commit_stem (l : List PendWrite) (hl : ∀ p, p ∈ l → p.kind = 0) (d : Drill) : RegsOnly d (l.foldl commitOne d) := by
  induction l generalizing d with
  | nil => rfl
  | cons p r ih =>
    refine RegsOnly.trans ?_ (ih (fun q hq => hl q (List.mem_cons_of_mem _ hq)) _)
    simp only [commitOne, hl p (List.mem_cons_self ..), if_true]
    exact regsOnly_gPut _ _ _
theorem regsOnly_commitWhere (d : Drill) (p : PendWrite → Bool) (h : ∀ w, p w = true → w.kind = 0) : RegsOnly d (commitWhere d p) := by
  have := foldl_commit_stem (d.wins.filter p) (fun w hw => h w (List.mem_filter.mp hw).2) d
  unfold commitWhere RegsOnly at *
  dsimp only
  rw [this]
theorem regsOnly_passWord (d : Drill) (ctl : Bool) (l : List PendWrite) : RegsOnly d (passWord d false 0 ctl l) := by
  unfold passWord
  dsimp only
  have hc : RegsOnly d (if ctl = true then commitWhere d (winOf false 0) else commitWhere d (fun p => winOf false 0 p && decide (p.left ≤ 1))) := by
    split <;> refine regsOnly_commitWhere d _ (fun w hw => ?_)
    · simpa [winOf] using hw
    · simp only [winOf, Bool.and_eq_true] at hw; simpa using hw.1
  unfold RegsOnly at *
  generalize (if ctl = true then _ else _) = c at hc ⊢
  rw [hc]
theorem regsOnly_stemResult (d : Drill) (p : StemPlan) (x : Word) : RegsOnly d (stemResult d p x) := by
  unfold stemResult gWrite
  split
  · exact regsOnly_passWord _ _ _
  · split
    · exact regsOnly_passWord _ _ _
    · split
      · split
        · exact regsOnly_passWord _ _ _
        · exact (regsOnly_gPut _ _ _).trans (regsOnly_passWord _ _ _)
      · exact regsOnly_passWord _ _ _

/-! ## Completion -/

/-- The drill after a completed stem word, and everything else. -/
theorem stemDone_frame {s : State} {slot : Nat} {d : Drill} (hd : drillAt s slot = some d) (ho : ∃ o, objAt s d.bed = some o) (p : StemPlan) (x : Word) (next : Option Word) :
    ∃ d' e, HoseFrame s (hoseMoves s slot (stemHoses p.srcs) ((stemHoses p.dst.toList).map (fun h => (h, x.setWidth 1024)))) slot d d' ∧
      drillAt (stemDone s slot p x next) slot = some e ∧
      e = { stemResult d' p x with
        pc := (match next with | some t => t.setWidth 56 | none => d'.pc + 4), stemWait := (if d'.stemWait = .exited then .exited else .none),
        wake := false, wkind := 0, woke := none, walked := d'.walked.filter (fun w => w.1), asked := d'.asked.filter (fun w => w.1), granted := d'.granted.filter (fun w => w.1),
        got := d'.got.filter (fun g => g.leaf), claims := d'.claims.filter (fun c => c.1), lastStem := some s.cycle } := by
  obtain ⟨d', f, q⟩ := hoseMoves_frame hd ho (stemHoses p.srcs) ((stemHoses p.dst.toList).map (fun h => (h, x.setWidth 1024)))
  refine ⟨d', _, f, ?_, rfl⟩
  unfold stemDone
  dsimp only
  rw [drillAt_onDrill, if_pos rfl, f.here]
  rfl

/-! ## Registers and windows after a word -/

theorem gGet_congr {d e : Drill} (h : e.g = d.g) (r : Nat) : gGet e r = gGet d r := by unfold gGet; rw [h]
/-- A register after a list of pending writes has entered: the last of its own, else what it held. -/
theorem gGet_foldl_commit (l : List PendWrite) (hl : ∀ p, p ∈ l → p.kind = 0) (d : Drill) (r : Nat) (hr : r ≠ 0) :
    gGet (l.foldl commitOne d) r = match (l.filter (fun w => decide (w.reg = r))).getLast? with | some w => w.value.setWidth 64 | none => gGet d r := by
  induction l generalizing d with
  | nil => rfl
  | cons p q ih =>
    rw [List.foldl_cons, ih (fun x hx => hl x (List.mem_cons_of_mem _ hx))]
    have hp : commitOne d p = gPut d p.reg (p.value.setWidth 64) := by simp [commitOne, hl p (List.mem_cons_self ..)]
    by_cases h : p.reg = r
    · rw [List.filter_cons_of_pos (by simpa using h)]
      cases hq : (q.filter (fun w => decide (w.reg = r))).getLast? with
      | none =>
        have : q.filter (fun w => decide (w.reg = r)) = [] := by simpa using hq
        simp [this, hp, gGet_gPut, h, hr]
      | some w =>
        have : (p :: q.filter (fun w => decide (w.reg = r))).getLast? = some w := by
          cases hf : q.filter (fun w => decide (w.reg = r)) with
          | nil => simp [hf] at hq
          | cons x y => rw [List.getLast?_cons_cons, ← hf, hq]
        rw [this]
    · rw [List.filter_cons_of_neg (by simpa using h)]
      cases (q.filter (fun w => decide (w.reg = r))).getLast? with
      | none =>
        have h' : ¬ (r = p.reg ∧ p.reg ≠ 0) := fun e => h e.1.symm
        simp only [hp, gGet_gPut, h', if_false]
      | some w => rfl
theorem passWord_g (d : Drill) (ctl : Bool) (l : List PendWrite) : (passWord d false 0 ctl l).g =
    (if ctl = true then commitWhere d (winOf false 0) else commitWhere d (fun p => winOf false 0 p && decide (p.left ≤ 1))).g := rfl
theorem gGet_passWord (d : Drill) (ctl : Bool) (l : List PendWrite) (r : Nat) (hr : r ≠ 0) : gGet (passWord d false 0 ctl l) r =
    match (d.wins.filter (fun w => decide (w.kind = 0 ∧ w.reg = r ∧ (ctl = true ∨ w.left ≤ 1)))).getLast? with | some w => w.value.setWidth 64 | none => gGet d r := by
  have key (q : PendWrite → Bool) (hq : ∀ w, q w = true ↔ (w.kind = 0 ∧ (ctl = true ∨ w.left ≤ 1))) : gGet (commitWhere d q) r =
      match (d.wins.filter (fun w => decide (w.kind = 0 ∧ w.reg = r ∧ (ctl = true ∨ w.left ≤ 1)))).getLast? with | some w => w.value.setWidth 64 | none => gGet d r := by
    have h1 : gGet (commitWhere d q) r = gGet ((d.wins.filter q).foldl commitOne d) r := gGet_congr rfl r
    rw [h1, gGet_foldl_commit _ (fun p hp => ((hq p).mp (List.mem_filter.mp hp).2).1) d r hr, List.filter_filter]
    congr 3
    funext w
    have := hq w
    by_cases hw : q w = true
    · simp [hw, this.mp hw]
    · have h2 := fun e => hw (this.mpr e)
      simp only [Bool.not_eq_true] at hw
      rw [hw, Bool.and_false]; symm; rw [decide_eq_false_iff_not]; exact fun e => h2 ⟨e.1, e.2.2⟩
  rw [gGet_congr (passWord_g d ctl l)]
  split
  · exact key _ (fun w => by simp [winOf, *])
  · exact key _ (fun w => by simp [winOf, *])
theorem wins_passWord (d : Drill) (ctl : Bool) (l : List PendWrite) : (passWord d false 0 ctl l).wins =
    (d.wins.filter (fun w => !decide (w.kind = 0 ∧ (ctl = true ∨ w.left ≤ 1)))).map (fun w => if w.kind = 0 then { w with left := w.left - 1 } else w) ++ l := by
  unfold passWord
  dsimp only
  have hm (x : List PendWrite) : x.map (fun p => if winOf false 0 p = true then { p with left := p.left - 1 } else p) = x.map (fun w => if w.kind = 0 then { w with left := w.left - 1 } else w) := by
    simp [winOf]
  rw [hm]
  congr 2
  cases ctl
  · simp [commitWhere, winOf]
  · simp [commitWhere, winOf]
theorem gWrite_wins (d : Drill) (r : Nat) (x : Word) : (gWrite d r x).wins = d.wins := by unfold gWrite gPut; split <;> (try split) <;> rfl
theorem any_all_kind (l : List PendWrite) (r : Nat) : l.any (fun w => decide (w.kind = 0 ∧ w.reg = r)) = !(l.all (fun w => decide (w.kind ≠ 0 ∨ w.reg ≠ r))) := by
  induction l with
  | nil => rfl
  | cons a b ih => rw [List.any_cons, List.all_cons, ih, Bool.not_and]; congr 1; by_cases h : a.kind = 0 <;> by_cases h' : a.reg = r <;> simp [h, h']
/-- The registers after the result of a word. -/
theorem gGet_stemResult (d : Drill) (p : StemPlan) (res : Word) (r : Nat) (hr : r < 48) : gGet (stemResult d p res) r = gAfter d p res r := by
  unfold gAfter
  split
  · subst r; rfl
  rename_i h0
  unfold stemResult
  cases hd : p.dst with
  | none => rw [gGet_passWord _ _ _ _ h0]; cases (d.wins.filter (fun w => decide (w.kind = 0 ∧ w.reg = r ∧ (p.ctl = true ∨ w.left ≤ 1)))).getLast? <;> simp
  | some f =>
    dsimp only
    split
    · rename_i hf
      have : ¬ (f.toNat = r) := by omega
      rw [gGet_passWord _ _ _ _ h0]; cases (d.wins.filter (fun w => decide (w.kind = 0 ∧ w.reg = r ∧ (p.ctl = true ∨ w.left ≤ 1)))).getLast? <;> simp [this]
    · split
      · rename_i hla
        rw [gGet_passWord _ _ _ _ h0, gWrite_wins]
        cases (d.wins.filter (fun w => decide (w.kind = 0 ∧ w.reg = r ∧ (p.ctl = true ∨ w.left ≤ 1)))).getLast? with
        | some w => rfl
        | none =>
          dsimp only
          unfold gWrite
          rw [any_all_kind]
          by_cases hfr : f.toNat = r
          · subst hfr; cases hall : d.wins.all (fun w => decide (w.kind ≠ 0 ∨ w.reg ≠ f.toNat)) <;> simp [gGet_gPut, h0, hla]
          · have : ¬ (r = f.toNat) := fun e => hfr e.symm
            simp only [Option.map_some, Option.some.injEq, hfr, false_and, if_false]
            split
            · rfl
            · simp [gGet_gPut, this]
      · rename_i hla
        rw [gGet_passWord _ _ _ _ h0]; cases (d.wins.filter (fun w => decide (w.kind = 0 ∧ w.reg = r ∧ (p.ctl = true ∨ w.left ≤ 1)))).getLast? <;> simp [hla]
theorem wins_stemResult (d : Drill) (p : StemPlan) (res : Word) : (stemResult d p res).wins = winsAfter d p res := by
  unfold stemResult winsAfter
  cases hd : p.dst with
  | none => exact wins_passWord _ _ _
  | some f =>
    dsimp only
    split
    · rw [wins_passWord, if_neg (by omega)]
    · split
      · rename_i hla; rw [wins_passWord, gWrite_wins]; simp [hla]
      · rename_i hf hla
        rw [wins_passWord, any_all_kind]
        have h48 : f.toNat < 48 := by omega
        cases d.wins.all (fun w => decide (w.kind ≠ 0 ∨ w.reg ≠ f.toNat)) <;> simp [hla, h48]
theorem memByte_same {s t : State} (h : SameModule s t) (a : Nat) : memByte t a = memByte s a := by unfold memByte; rw [h.mem]
theorem benchByte_same {s t : State} (h : SameModule s t) (c a : Nat) : benchByte t c a = benchByte s c a := by unfold benchByte coreAt; rw [h.cores]
/-- The completion of a stem word, whole. -/
theorem stemDone_completes {s : State} {slot : Nat} {d : Drill} (hd : drillAt s slot = some d) (ho : ∃ o, objAt s d.bed = some o) (p : StemPlan) (res : Word) (next : Option Word) :
    StemCompletes p res next s (stemDone s slot p res next) slot d := by
  obtain ⟨d', f, q⟩ := hoseMoves_frame hd ho (stemHoses p.srcs) ((stemHoses p.dst.toList).map (fun h => (h, res.setWidth 1024)))
  have hd' := f.drill
  unfold HosesOnly at hd'
  have hr := regsOnly_stemResult d' p res
  unfold RegsOnly at hr
  have he : ∃ e, drillAt (stemDone s slot p res next) slot = some e ∧ e.g = (stemResult d' p res).g ∧ e.wins = (stemResult d' p res).wins ∧
      e.pc = (match next with | some t => t.setWidth 56 | none => d'.pc + 4) ∧ e.hoses = d'.hoses ∧ e.bed = d'.bed ∧
      e = { d' with
        g := e.g, wins := e.wins, heldIssues := e.heldIssues, pc := e.pc, stemWait := (if d'.stemWait = .exited then .exited else .none),
        wake := false, wkind := 0, woke := none, walked := d'.walked.filter (fun w => w.1), asked := d'.asked.filter (fun w => w.1), granted := d'.granted.filter (fun w => w.1),
        got := d'.got.filter (fun g => g.leaf), claims := d'.claims.filter (fun c => c.1), lastStem := e.lastStem } := by
    refine ⟨{ stemResult d' p res with
        pc := (match next with | some t => t.setWidth 56 | none => d'.pc + 4), stemWait := (if d'.stemWait = .exited then .exited else .none),
        wake := false, wkind := 0, woke := none, walked := d'.walked.filter (fun w => w.1), asked := d'.asked.filter (fun w => w.1), granted := d'.granted.filter (fun w => w.1),
        got := d'.got.filter (fun g => g.leaf), claims := d'.claims.filter (fun c => c.1), lastStem := some s.cycle }, ?_, rfl, rfl, rfl, ?_, ?_, ?_⟩
    · unfold stemDone
      dsimp only
      rw [drillAt_onDrill, if_pos rfl, f.here]
      rfl
    · dsimp only; rw [hr]
    · dsimp only; rw [hr]
    · dsimp only; rw [hr]
  obtain ⟨e, h1, h2, h3, h4, h5, h6, h7⟩ := he
  refine ⟨⟨e, h1, ⟨?_, ?_, ?_, ?_⟩, ?_⟩, ?_, ?_, ?_, ?_, ?_⟩
  · intro r h48
    rw [gGet_congr h2, gGet_stemResult _ _ _ _ h48, hd']; rfl
  · rw [h3, wins_stemResult, hd']; rfl
  · rw [h4]; have : d'.pc = d.pc := by rw [hd']
    cases next <;> simp [this]
  · rw [h7, hd']
  · intro h
    have hq : hoseQ (stemDone s slot p res next) e h =
        hoseQ (hoseMoves s slot (stemHoses p.srcs) ((stemHoses p.dst.toList).map (fun h => (h, res.setWidth 1024)))) d' h := by
      unfold hoseQ stemDone
      simp only [objAt_onDrill, h5, h6]
    rw [hq, q]
    cases hdst : p.dst with
    | none => simp [stemHoses]
    | some g =>
      by_cases hg : 48 ≤ g.toNat
      · by_cases hh : g.toNat - 48 = h
        · simp [stemHoses, hg, hh]
        · have : ¬ (h = g.toNat - 48) := fun e => hh e.symm
          simp [stemHoses, hg, hh, this]
      · simp [stemHoses, hg]
  · intro k hk
    unfold stemDone
    dsimp only
    rw [drillAt_onDrill, if_neg hk]
    exact f.others k hk
  · intro k
    unfold stemDone
    dsimp only
    rw [objAt_onDrill]
    exact f.objs k
  · exact f.rest.trans (sameModule_onDrill _ _ _)
  · exact memByte_same (f.rest.trans (sameModule_onDrill _ _ _))
  · exact benchByte_same (f.rest.trans (sameModule_onDrill _ _ _))

/-- A word that may issue does what its body says. -/
theorem stemWord_issues {p : StemPlan} {s : State} {d : Drill} (h : StemIssues p s d) (body : Drill → List Word → State → Body) :
    stemWord p s body = match body d (stemOps p s d) s with
      | .trap c v _ _ => .next (stemTrap s s.cur c v)
      | .trapIn t c v _ _ => .next (stemTrap t s.cur c v)
      | .wait w t => .next (streamPark t s.cur false w (stemHoses p.srcs))
      | .ok t res next => match next with
        | some a => if stemTargetOk s d a.toNat then .next (stemDone t s.cur p res next) else .next (stemTrap s s.cur cFetch a)
        | none => .next (stemDone t s.cur p res none) := by
  have hl : (p.priv && !d.super) = false := by
    cases hp : p.priv
    · rfl
    · simp [h.level hp]
  have hg : (if p.release = true then releaseGate s s.cur d false else none) = none := by
    split
    · exact h.gate ‹_›
    · rfl
  simp only [stemWord, h.bound, h.legal, hl, h.granted, hg, h.ready, stemOps, Bool.not_true, if_false, Bool.false_eq_true]
  all_goals
    cases body d (stemSrcs s d [] p.srcs) s with
    | ok t r n => cases n <;> rfl
    | _ => rfl
/-- A word whose body completes without a transfer. -/
theorem stemWord_ok {p : StemPlan} {s t : State} {d : Drill} {r : Word} (h : StemIssues p s d) {body : Drill → List Word → State → Body}
    (hb : body d (stemOps p s d) s = .ok t r none) : stemWord p s body = .next (stemDone t s.cur p r none) := by rw [stemWord_issues h, hb]
/-- A word whose body takes a transfer to a target in its section. -/
theorem stemWord_goes {p : StemPlan} {s t : State} {d : Drill} {r a : Word} (h : StemIssues p s d) {body : Drill → List Word → State → Body}
    (hb : body d (stemOps p s d) s = .ok t r (some a)) (ha : stemTargetOk s d a.toNat = true) : stemWord p s body = .next (stemDone t s.cur p r (some a)) := by
  rw [stemWord_issues h, hb]; simp only [ha, if_true]
/-- A word whose body finds a precise fault. -/
theorem stemWord_traps {p : StemPlan} {s : State} {d : Drill} {c : Nat} {v : Word} {m : LaneMask} {e : Tab Word} (h : StemIssues p s d) {body : Drill → List Word → State → Body}
    (hb : body d (stemOps p s d) s = .trap c v m e) : stemWord p s body = .next (stemTrap s s.cur c v) := by rw [stemWord_issues h, hb]
/-- An illegal word takes the illegal-instruction trap, whatever else it is (R52, R53). -/
theorem stemWord_illegal {p : StemPlan} {s : State} {d : Drill} (hd : drillAt s s.cur = some d) (hw : p.ins.wf = false) (body : Drill → List Word → State → Body) :
    stemWord p s body = .next (stemTrap s s.cur cIllegal (stemBits p.ins)) := by simp [stemWord, hd, hw]
/-- A word reserved to supervisor takes the privilege trap at user level (R30). -/
theorem stemWord_privileged {p : StemPlan} {s : State} {d : Drill} (hd : drillAt s s.cur = some d) (hw : p.ins.wf = true) (hp : p.priv = true) (hu : d.super = false)
    (body : Drill → List Word → State → Body) : stemWord p s body = .next (stemTrap s s.cur cPrivilege (stemBits p.ins)) := by simp [stemWord, hd, hw, hp, hu]
/-- A word whose body completes with no effect but its result. -/
theorem stemWord_completes {p : StemPlan} {s : State} {d : Drill} {r : Word} (h : StemIssues p s d) {body : Drill → List Word → State → Body}
    (hb : body d (stemOps p s d) s = .ok s r none) : ∃ t, stemWord p s body = .next t ∧ StemCompletes p r none s t s.cur d :=
  ⟨_, stemWord_ok h hb, stemDone_completes h.bound h.bed p r none⟩

end Sys2Proof.Machine
end

