-- ==== Sys2Proof/Laws/Leaf.lean ====
section
/-! SUPPORT. The pipeline of leaf words: when a word issues its body decides what it does, and what its completion leaves as it was. -/
namespace Sys2Proof.Machine

/-! ## Lanes of a vector -/

theorem packFields_lt (w : Nat) (f : Nat → Nat) (n : Nat) : packFields w f n < 2 ^ (w * n) := by
  induction n with
  | zero => simp [packFields]
  | succ m ih =>
    simp only [packFields]
    have h1 : f m % 2 ^ w < 2 ^ w := Nat.mod_lt _ (Nat.two_pow_pos _)
    have h2 : (f m % 2 ^ w) * 2 ^ (w * m) ≤ (2 ^ w - 1) * 2 ^ (w * m) := Nat.mul_le_mul_right _ (by omega)
    have h3 : 2 ^ (w * (m + 1)) = 2 ^ w * 2 ^ (w * m) := by rw [Nat.mul_succ, Nat.pow_add, Nat.mul_comm]
    have h4 : (2 ^ w - 1) * 2 ^ (w * m) + 2 ^ (w * m) = 2 ^ w * 2 ^ (w * m) := by
      rw [Nat.sub_mul, Nat.one_mul]; exact Nat.sub_add_cancel (Nat.le_mul_of_pos_left _ (Nat.two_pow_pos _))
    omega
theorem packFields_field (w : Nat) (f : Nat → Nat) (n i : Nat) (hi : i < n) : packFields w f n / 2 ^ (w * i) % 2 ^ w = f i % 2 ^ w := by
  induction n with
  | zero => omega
  | succ m ih =>
    simp only [packFields]
    by_cases h : i = m
    · subst i
      rw [Nat.add_mul_div_right _ _ (Nat.two_pow_pos _), Nat.div_eq_of_lt (packFields_lt w f m), Nat.zero_add, Nat.mod_mod]
    · have hlt : i < m := by omega
      have e : 2 ^ (w * m) = 2 ^ w * 2 ^ (w * (m - i - 1)) * 2 ^ (w * i) := by
        rw [← Nat.pow_add, ← Nat.pow_add]; congr 1
        have : m = 1 + (m - i - 1) + i := by omega
        rw [show w + w * (m - i - 1) + w * i = w * (1 + (m - i - 1) + i) by simp only [Nat.mul_add, Nat.mul_one], ← this]
      rw [e, ← Nat.mul_assoc, Nat.add_mul_div_right _ _ (Nat.two_pow_pos _), Nat.mul_comm (2 ^ w), ← Nat.mul_assoc, Nat.add_mul_mod_self_right]
      exact ih hlt
/-- Lane l of the vector made of a function's lanes. -/
theorem lane_vecOfLanes (f : Nat → Nat) (l : Nat) (h : l < 32) : lane (vecOfLanes f) l = f l % 2 ^ 32 := by
  unfold lane vecOfLanes bitsOf
  have hlt : packFields 32 f 32 < 2 ^ 1024 := packFields_lt 32 f 32
  rw [BitVec.toNat_ofNat, Nat.mod_eq_of_lt hlt, Nat.shiftRight_eq_div_pow]
  exact packFields_field 32 f 32 l h
theorem lane_lt (v : Vec) (l : Nat) : lane v l < 2 ^ 32 := by unfold lane bitsOf; exact Nat.mod_lt _ (Nat.two_pow_pos _)
/-- Byte i of the line made of a function's bytes. -/
theorem lineByte_vecOfBytes (f : Nat → Nat) (i : Nat) (h : i < 128) : lineByte (vecOfBytes f) i = f i % 2 ^ 8 := by
  unfold lineByte vecOfBytes bitsOf
  have hlt : packFields 8 f 128 < 2 ^ 1024 := packFields_lt 8 f 128
  rw [BitVec.toNat_ofNat, Nat.mod_eq_of_lt hlt, Nat.shiftRight_eq_div_pow]
  exact packFields_field 8 f 128 i h
theorem lineByte_lt (v : Vec) (i : Nat) : lineByte v i < 2 ^ 8 := by unfold lineByte bitsOf; exact Nat.mod_lt _ (Nat.two_pow_pos _)
theorem lineByte_mergeBytes (m : BitVec 128) (new old : Vec) (i : Nat) (h : i < 128) :
    lineByte (mergeBytes m new old) i = if bitOf m.toNat i then lineByte new i else lineByte old i := by
  unfold mergeBytes
  rw [lineByte_vecOfBytes _ _ h]
  apply Nat.mod_eq_of_lt
  split <;> exact lineByte_lt _ _

/-! ## Results of a quiet drill -/

/-- A commit with nothing to commit. -/
theorem commitWhere_none (d : Drill) (p : PendWrite → Bool) (h : ∀ w, w ∈ d.wins → p w = false) : commitWhere d p = d := by
  have h1 : d.wins.filter p = [] := List.filter_eq_nil_iff.mpr (fun w hw => by simp [h w hw])
  have h2 : d.wins.filter (fun w => !p w) = d.wins := List.filter_eq_self.mpr (fun w hw => by simp [h w hw])
  unfold commitWhere
  rw [h1, h2]
  rfl
theorem kind_of_quiet {d : Drill} (h : d.wins.all (fun w => decide (w.kind = 0)) = true) {w : PendWrite} (hw : w ∈ d.wins) : w.kind = 0 := by
  simpa using List.all_eq_true.mp h w hw
theorem filter_quiet {d : Drill} (h : d.wins.all (fun w => decide (w.kind = 0)) = true) (p : PendWrite → Bool) (hp : ∀ w, p w = true → w.kind ≠ 0) : d.wins.filter p = [] :=
  List.filter_eq_nil_iff.mpr (fun w hw hpw => hp w hpw (kind_of_quiet h hw))
theorem commit_quiet {d : Drill} (h : d.wins.all (fun w => decide (w.kind = 0)) = true) (p : PendWrite → Bool) (hp : ∀ w, p w = true → w.kind ≠ 0) : commitWhere d p = d :=
  commitWhere_none d p (fun w hw => by cases hh : p w; rfl; exact absurd (kind_of_quiet h hw) (hp w hh))
theorem mask_full (m : LaneMask) : m &&& 4294967295#32 = m := by have := BitVec.and_allOnes (x := m); simpa using this
/-- One result of a quiet drill. -/
theorem leafResult_quiet {d : Drill} (h : d.wins.all (fun w => decide (w.kind = 0)) = true) (split la : Nat) (o : List PendWrite) (x : LeafWrite) :
    leafResult split la (d, o) x =
      ((match x with
        | .msk k m => kPut d k m
        | .vec f m v => if 240 ≤ f ∨ la ≠ 0 then d else vPutBase d f m v
        | .sca f v => if 16 ≤ f ∨ f = 0 ∨ la ≠ 0 then d else onLeaf d (fun c => sPut c f v)), o ++ leafOpens split la [x]) := by
  cases x with
  | msk k m => simp [leafResult, leafOpens]
  | vec f m v =>
    have e1 : d.wins.filter (fun p => decide (p.kind = 1 ∧ p.reg = f ∧ p.owner = split)) = [] := filter_quiet h _ (by simp; omega)
    have e2 := commit_quiet h (fun p => decide (p.kind = 1 ∧ p.reg = f ∧ p.owner ≠ split)) (by simp; omega)
    by_cases hf : 240 ≤ f
    · have : ¬ f < 240 := by omega
      simp [leafResult, leafOpens, hf, this]
    · have : f < 240 := by omega
      by_cases hl : la = 0
      · simp only [leafResult, hf, hl, if_false, if_true, vWrite, e1, e2, leafOpens]; simp [mask_full]
      · simp only [leafResult, hf, hl, if_false, e1, e2, leafOpens]; simp [this, mask_full, hl]
  | sca f v =>
    have e1 : d.wins.any (fun p => decide (p.kind = 2 ∧ p.reg = f ∧ p.owner = split)) = false := by
      rw [List.any_eq_false]; intro w hw; have := kind_of_quiet h hw; simp; omega
    have e2 := commit_quiet h (fun p => decide (p.kind = 2 ∧ p.reg = f)) (by simp; omega)
    by_cases hf : 16 ≤ f ∨ f = 0
    · have : ¬ (f < 16 ∧ f ≠ 0) := by omega
      have h3 : 16 ≤ f ∨ f = 0 ∨ la ≠ 0 := by omega
      simp only [leafResult, hf, if_true, leafOpens, h3]; split <;> simp
      omega
    · have : f < 16 ∧ f ≠ 0 := by omega
      by_cases hl : la = 0
      · have h3 : ¬ (16 ≤ f ∨ f = 0 ∨ la ≠ 0) := by omega
        simp only [leafResult, hf, hl, if_false, if_true, sWrite, e1, e2, leafOpens]; simp; intro a; omega
      · have h3 : 16 ≤ f ∨ f = 0 ∨ la ≠ 0 := by omega
        simp only [leafResult, hf, hl, if_false, e1, e2, leafOpens, h3]; simp [this]

theorem vBase_vPutBase (d : Drill) (f r : Nat) (m : LaneMask) (x : Vec) (l : Nat) (hl : l < 32) :
    lane (vBase (vPutBase d f m x) r) l = if f = r ∧ inMask m l = true then lane x l else lane (vBase d r) l := by
  unfold vBase vPutBase
  simp only [tabGet_tabSet]
  by_cases h : r = f
  · subst r
    simp only [if_true, true_and]
    rw [lane_vecOfLanes _ _ hl]
    split
    · exact Nat.mod_eq_of_lt (lane_lt _ _)
    · exact Nat.mod_eq_of_lt (lane_lt _ _)
  · have h' : ¬ f = r := fun e => h e.symm
    simp [h, h']
theorem leafCtx_onLeaf (d : Drill) (f : LeafCtx → LeafCtx) : leafCtx (onLeaf d f) = f (leafCtx d) := by unfold leafCtx onLeaf; split <;> simp_all

/-! ## The next word -/

/-- What one pass of the rejoin masks keeps: everything but the split table, and every entry that does not wait. -/
structure RejoinKeeps (c a : LeafCtx) : Prop where
  rest : a = { c with splits := a.splits }
  entry : ∀ i, (splitAt c i).state ≠ 3 → splitAt a i = splitAt c i
theorem RejoinKeeps.refl (c : LeafCtx) : RejoinKeeps c c := ⟨rfl, fun _ _ => rfl⟩
theorem RejoinKeeps.trans {a b c : LeafCtx} (x : RejoinKeeps a b) (y : RejoinKeeps b c) : RejoinKeeps a c :=
  ⟨by have := y.rest; rw [x.rest] at this; exact this, fun i h => (y.entry i (by rw [x.entry i h]; exact h)).trans (x.entry i h)⟩
theorem splitAt_putSplit (c : LeafCtx) (i j : Nat) (e : SplitEntry) : splitAt (putSplit c i e) j = if j = i then e else splitAt c j := by
  unfold splitAt putSplit; simp only [tabGet_tabSet]
theorem rejoinKeeps_put {a : LeafCtx} {i : Nat} (h : (splitAt a i).state = 3) (e : SplitEntry) : RejoinKeeps a (putSplit a i e) :=
  ⟨rfl, fun j hj => by rw [splitAt_putSplit]; split; subst j; exact absurd h hj; rfl⟩
theorem rejoinStep_keeps (a : LeafCtx) (x : Nat × SplitEntry) : RejoinKeeps a (rejoinStep a x) := by
  unfold rejoinStep
  dsimp only
  split
  · rename_i h3
    split
    · exact rejoinKeeps_put h3 _
    · exact rejoinKeeps_put h3 _
  · exact RejoinKeeps.refl a
theorem rejoinPass_keeps (c : LeafCtx) : RejoinKeeps c (rejoinPass c) := by
  unfold rejoinPass
  generalize c.splits = l
  suffices h : ∀ a, RejoinKeeps c a → RejoinKeeps c (l.foldl rejoinStep a) from h c (RejoinKeeps.refl c)
  induction l with
  | nil => exact fun a h => h
  | cons x r ih => exact fun a ha => ih _ (ha.trans (rejoinStep_keeps a x))
theorem rejoinAll_keeps (n : Nat) (c : LeafCtx) : RejoinKeeps c (rejoinAll c n) := by
  induction n generalizing c with
  | zero => exact RejoinKeeps.refl c
  | succ k ih => exact (rejoinPass_keeps c).trans (ih _)
theorem settleJoin_keeps (c : LeafCtx) : RejoinKeeps c (settleJoin c) := by
  unfold settleJoin; split
  · exact rejoinAll_keeps 16 c
  · exact RejoinKeeps.refl c
/-- The masks do not depend on the scalars. -/
theorem awaited_scalars (c : LeafCtx) (x : Tab Word) (i : Nat) (p : VAddr) (d : BitVec 4) (o : LaneMask) : awaited { c with s := x } i p d o = awaited c i p d o := rfl
theorem rejoinStep_scalars (c : LeafCtx) (y : Nat × SplitEntry) (x : Tab Word) : rejoinStep { c with s := x } y = { rejoinStep c y with s := x } := by
  generalize hb : ({ c with s := x } : LeafCtx) = b
  have e1 : splitAt b y.1 = splitAt c y.1 := by rw [← hb]; rfl
  have e2 : ∀ p d o, awaited b y.1 p d o = awaited c y.1 p d o := by intro p d o; rw [← hb]; rfl
  have e3 : ∀ e, putSplit b y.1 e = { putSplit c y.1 e with s := x } := by intro e; rw [← hb]; rfl
  unfold rejoinStep
  simp only [e1, e2, e3]
  by_cases h3 : (splitAt c y.1).state = 3
  · by_cases h0 : awaited c y.1 (splitAt c y.1).pc (splitAt c y.1).depth (splitAt c y.1).rj = 0
    · simp only [h3, h0, if_true]
    · simp only [h3, h0, if_true, if_false]
  · simp only [h3, if_false, ← hb]
theorem rejoinPass_scalars (c : LeafCtx) (x : Tab Word) : rejoinPass { c with s := x } = { rejoinPass c with s := x } := by
  have h : ∀ (l : Tab SplitEntry) (c : LeafCtx), l.foldl rejoinStep { c with s := x } = { l.foldl rejoinStep c with s := x } := by
    intro l
    induction l with
    | nil => intro c; rfl
    | cons y r ih => intro c; rw [List.foldl_cons, List.foldl_cons, rejoinStep_scalars, ih]
  exact h c.splits c
theorem rejoinAll_scalars (n : Nat) (c : LeafCtx) (x : Tab Word) : rejoinAll { c with s := x } n = { rejoinAll c n with s := x } := by
  induction n generalizing c with
  | zero => rfl
  | succ k ih => unfold rejoinAll; rw [rejoinPass_scalars, ih]
theorem settleJoin_scalars (c : LeafCtx) (x : Tab Word) : settleJoin { c with s := x } = { settleJoin c with s := x } := by
  unfold settleJoin
  dsimp only
  split
  · exact rejoinAll_scalars 16 c x
  · rfl
theorem tabGet_sPut (c : LeafCtx) (f r : Nat) (x : Word) (hf : f ≠ 0) : tabGet 0 (sPut c f x).s r = if f = r then x else tabGet 0 c.s r := by
  unfold sPut; simp only [hf, if_false, tabGet_tabSet, eq_comm]

/-- What the results of a word leave of a quiet drill. -/
structure RegsAfter (la : Nat) (ws : List LeafWrite) (d e : Drill) : Prop where
  vectors : ∀ r l, r < 240 → l < 32 → lane (vBase e r) l = if la = 0 then laneAfter d ws r l else lane (vBase d r) l
  masks : ∀ r, r ≠ 0 → tabGet 0 e.k r = maskAfter d ws r
  scalars : ∀ r, r ≠ 0 → r < 16 → tabGet 0 (leafCtx e).s r = if la = 0 then scalarAfter d ws r else tabGet 0 (leafCtx d).s r
  ctx : leafCtx e = { leafCtx d with s := (leafCtx e).s }
  level : if d.super = true then e.user = d.user else e.sup = d.sup
  rest : e = { d with v := e.v, k := e.k, user := e.user, sup := e.sup }
theorem regsAfter_one {d : Drill} (h : d.wins.all (fun w => decide (w.kind = 0)) = true) (split la : Nat) (o : List PendWrite) (x : LeafWrite) :
    RegsAfter la [x] d (leafResult split la (d, o) x).1 := by
  rw [leafResult_quiet h]
  cases x with
  | msk k m =>
    dsimp only
    have hl : leafCtx (kPut d k m) = leafCtx d := by unfold kPut; split <;> rfl
    refine ⟨?_, ?_, ?_, ?_, ?_, ?_⟩
    · intro r l _ _; have : vBase (kPut d k m) r = vBase d r := by unfold kPut; split <;> rfl
      rw [this]; simp [laneAfter]
    · intro r hr
      simp only [maskAfter, List.foldl_cons, List.foldl_nil]
      unfold kPut
      by_cases hk : k = 0
      · subst k; have : ¬ (0 = r) := fun e => hr e.symm
        simp [this]
      · simp only [hk, if_false, tabGet_tabSet, eq_comm]
    · intro r _ _; rw [hl]; simp [scalarAfter]
    · rw [hl]
    · unfold kPut; split <;> split <;> rfl
    · unfold kPut; split <;> rfl
  | vec f m v =>
    dsimp only
    by_cases hc : 240 ≤ f ∨ la ≠ 0
    · simp only [hc, if_true]
      refine ⟨?_, ?_, ?_, rfl, by split <;> rfl, rfl⟩
      · intro r l hr _
        split
        · have : ¬ f = r := by omega
          simp [laneAfter, this]
        · rfl
      · intro r _; simp [maskAfter]
      · intro r _ _; simp [scalarAfter]
    · simp only [hc, if_false]
      have hla : la = 0 := by omega
      have hl : leafCtx (vPutBase d f m v) = leafCtx d := by
        obtain ⟨y, hy⟩ : ∃ y, vPutBase d f m v = { d with v := y } := ⟨_, rfl⟩
        rw [hy]; rfl
      obtain ⟨y, hy⟩ : ∃ y, vPutBase d f m v = { d with v := y } := ⟨_, rfl⟩
      refine ⟨?_, ?_, ?_, by rw [hl], by rw [hy]; split <;> rfl, by rw [hy]⟩
      · intro r l _ hl
        simp only [hla, if_true, laneAfter, List.foldl_cons, List.foldl_nil]
        exact vBase_vPutBase d f r m v l hl
      · intro r _; rw [hy]; rfl
      · intro r _ _; rw [hl]; split <;> rfl
  | sca f y =>
    dsimp only
    by_cases hc : 16 ≤ f ∨ f = 0 ∨ la ≠ 0
    · simp only [hc, if_true]
      refine ⟨?_, ?_, ?_, rfl, by split <;> rfl, rfl⟩
      · intro r l hr _; simp [laneAfter]
      · intro r _; simp [maskAfter]
      · intro r hr hr'
        split
        · have : ¬ f = r := by omega
          simp [scalarAfter, this]
        · rfl
    · simp only [hc, if_false]
      have hla : la = 0 := by omega
      have hf0 : f ≠ 0 := by omega
      refine ⟨?_, ?_, ?_, ?_, ?_, ?_⟩
      · intro r l _ _; have : vBase (onLeaf d (fun c => sPut c f y)) r = vBase d r := by unfold onLeaf; split <;> rfl
        rw [this]; simp [laneAfter]
      · intro r _; have : (onLeaf d (fun c => sPut c f y)).k = d.k := by unfold onLeaf; split <;> rfl
        rw [this]; simp [maskAfter]
      · intro r _ _
        rw [leafCtx_onLeaf, tabGet_sPut _ _ _ _ hf0]
        simp [hla, scalarAfter]
      · rw [leafCtx_onLeaf]; unfold sPut; simp [hf0]
      · unfold onLeaf; split <;> rfl
      · unfold onLeaf; split <;> rfl
theorem laneAfter_cons (d e : Drill) (x : LeafWrite) (ws : List LeafWrite) (r l : Nat) (h : lane (vBase e r) l = laneAfter d [x] r l) : laneAfter d (x :: ws) r l = laneAfter e ws r l := by
  unfold laneAfter at *; rw [h]; rfl
theorem maskAfter_cons (d e : Drill) (x : LeafWrite) (ws : List LeafWrite) (r : Nat) (h : tabGet 0 e.k r = maskAfter d [x] r) : maskAfter d (x :: ws) r = maskAfter e ws r := by
  unfold maskAfter at *; rw [h]; rfl
theorem scalarAfter_cons (d e : Drill) (x : LeafWrite) (ws : List LeafWrite) (r : Nat) (h : tabGet 0 (leafCtx e).s r = scalarAfter d [x] r) : scalarAfter d (x :: ws) r = scalarAfter e ws r := by
  unfold scalarAfter at *; rw [h]; rfl
theorem leafOpens_cons (split la : Nat) (x : LeafWrite) (ws : List LeafWrite) : leafOpens split la (x :: ws) = leafOpens split la [x] ++ leafOpens split la ws := by
  unfold leafOpens
  split
  · rfl
  · exact List.filterMap_append (l := [x]) (l' := ws)
theorem leafResults_quiet (ws : List LeafWrite) {d : Drill} (h : d.wins.all (fun w => decide (w.kind = 0)) = true) (split la : Nat) (o : List PendWrite) :
    RegsAfter la ws d (ws.foldl (leafResult split la) (d, o)).1 ∧ (ws.foldl (leafResult split la) (d, o)).2 = o ++ leafOpens split la ws := by
  induction ws generalizing d o with
  | nil => exact ⟨⟨fun r l _ _ => by simp [laneAfter], fun r _ => by simp [maskAfter], fun r _ _ => by simp [scalarAfter], rfl, by split <;> rfl, rfl⟩, by simp [leafOpens]⟩
  | cons x ws ih =>
    have a := regsAfter_one h split la o x
    have hsnd : (leafResult split la (d, o) x).2 = o ++ leafOpens split la [x] := by rw [leafResult_quiet h]
    generalize he : leafResult split la (d, o) x = r1 at a hsnd
    obtain ⟨e, o1⟩ := r1
    have a1 : RegsAfter la [x] d e := a
    have hsnd1 : o1 = o ++ leafOpens split la [x] := hsnd
    have hw : e.wins = d.wins := by rw [a1.rest]
    have hs : e.super = d.super := by rw [a1.rest]
    have hq : e.wins.all (fun w => decide (w.kind = 0)) = true := by rw [hw]; exact h
    rw [List.foldl_cons, he]
    obtain ⟨b, c⟩ := ih hq o1
    generalize ws.foldl (leafResult split la) (e, o1) = R at b c ⊢
    refine ⟨⟨?_, ?_, ?_, ?_, ?_, ?_⟩, ?_⟩
    · intro r l hr hl
      rw [b.vectors r l hr hl]
      have := a1.vectors r l hr hl
      split
      · rename_i h0; rw [if_pos h0] at this; exact (laneAfter_cons d e x ws r l this).symm
      · rename_i h0; rw [if_neg h0] at this; exact this
    · intro r hr; rw [b.masks r hr]; exact (maskAfter_cons d e x ws r (a1.masks r hr)).symm
    · intro r hr hr'
      rw [b.scalars r hr hr']
      have := a1.scalars r hr hr'
      split
      · rename_i h0; rw [if_pos h0] at this; exact (scalarAfter_cons d e x ws r this).symm
      · rename_i h0; rw [if_neg h0] at this; exact this
    · rw [b.ctx, a1.ctx]
    · have l1 := a1.level
      have l2 := b.level
      rw [hs] at l2
      split at l1 <;> rename_i hsup
      · rw [if_pos hsup] at l2 ⊢; exact l2.trans l1
      · rw [if_neg hsup] at l2 ⊢; exact l2.trans l1
    · have := b.rest
      rw [a1.rest] at this
      rw [this]
    · rw [c, hsnd1, List.append_assoc, ← leafOpens_cons]

/-! ## Completion -/

theorem map_same {α : Type} {l : List α} {f : α → α} (h : ∀ w, w ∈ l → f w = w) : l.map f = l := (List.map_congr_left h).trans (List.map_id l)
theorem passWord_quiet {d : Drill} (h : d.wins.all (fun w => decide (w.kind = 0)) = true) (split : Nat) (ctl : Bool) (o : List PendWrite) : passWord d true split ctl o = { d with wins := d.wins ++ o } := by
  have e1 : d.wins.filter (winOf true split) = [] := filter_quiet h _ (by simp [winOf]; omega)
  have e2 : commitWhere d (winOf true split) = d := commit_quiet h _ (by simp [winOf]; omega)
  have e3 : commitWhere d (fun p => winOf true split p && decide (p.left ≤ 1)) = d := commit_quiet h _ (by simp [winOf]; omega)
  have e4 : d.wins.map (fun p => if winOf true split p = true then { p with left := p.left - 1 } else p) = d.wins := by
    apply map_same
    intro w hw
    have := kind_of_quiet h hw
    simp [winOf, this]
  unfold passWord
  dsimp only
  have e5 : (if ctl = true then commitWhere d (winOf true split) else commitWhere d (fun p => winOf true split p && decide (p.left ≤ 1))) = d := by rw [e2, e3]; exact ite_self _
  rw [e5, e1, e4]
  simp
theorem heirOf_same (c c' : LeafCtx) (o : Nat) (h : (splitAt c' o).sm = (splitAt c o).sm) : heirOf c c' o = o := by
  unfold heirOf
  dsimp only
  rw [h]
  by_cases hm : (splitAt c o).sm &&& (splitAt c o).sm = 0
  · rw [if_neg (by simpa using hm)]
    have : (splitAt c o).sm = 0 := by simpa using hm
    rw [this]
    rw [List.find?_eq_none.mpr]
    intro x _; simp
  · rw [if_pos hm]
theorem routineOver_running (c : LeafCtx) (i : Nat) (h : (splitAt c i).state = 2) : routineOver c = false := by
  unfold routineOver
  rw [List.all_eq_false]
  unfold splitAt tabGet at h
  cases hf : tabFind c.splits i with
  | none => rw [hf] at h; simp at h
  | some e =>
    rw [hf] at h
    refine ⟨(i, e), tabFind_mem hf, ?_⟩
    simp at h
    simp [h]
/-- The completion of a leaf word of a quiet drill whose split goes on at the next word, whole. -/
theorem leafDone_completes {s : State} {slot : Nat} {d : Drill} (hd : drillAt s slot = some d) (ho : ∃ o, objAt s d.bed = some o) (hq : LeafQuiet d)
    (p : LeafPlan) (pops : List Nat) (ws : List LeafWrite) (flags : Nat) :
    LeafCompletes p pops ws flags s (leafDone s slot p pops ws flags nextWord) slot d := by
  obtain ⟨d', f, q⟩ := hoseMoves_frame hd ho pops (ws.filterMap leafPush)
  have hd' := f.drill
  unfold HosesOnly at hd'
  have hw : d'.wins = d.wins := by rw [hd']
  have hc : leafCtx d' = leafCtx d := by rw [hd']; rfl
  have hs : d'.super = d.super := by rw [hd']
  have hcl : d'.wins.all (fun w => decide (w.kind = 0)) = true := by rw [hw]; exact hq.closed
  have hrun : (splitAt (leafCtx d) (leafCtx d).run).state = 2 := hq.runs
  obtain ⟨ra, rb⟩ := leafResults_quiet ws hcl (leafCtx d').run p.w.la.toNat []
  simp only [List.nil_append] at rb
  -- the drill after results, windows and flags
  have hregs : leafRegs p ws flags d' = { (ws.foldl (leafResult (leafCtx d').run p.w.la.toNat) (d', [])).1 with
      wins := d'.wins ++ leafOpens (leafCtx d').run p.w.la.toNat ws, fmode := d'.fmode ||| BitVec.ofNat 32 (flags % 256 * 65536) } := by
    unfold leafRegs
    dsimp only
    rw [rb]
    generalize (ws.foldl (leafResult (leafCtx d').run p.w.la.toNat) (d', [])).1 = r at ra
    have hrw : r.wins = d'.wins := by rw [ra.rest]
    have hrf : r.fmode = d'.fmode := by rw [ra.rest]
    rw [passWord_quiet (by rw [hrw]; exact hcl)]
    unfold orFlags
    simp [hrw, hrf]
  generalize hr : (ws.foldl (leafResult (leafCtx d').run p.w.la.toNat) (d', [])).1 = r at ra hregs
  generalize hX : leafRegs p ws flags d' = x at hregs
  have hxc : leafCtx x = { leafCtx d with s := (leafCtx r).s } := by
    have h1 : leafCtx x = leafCtx r := by rw [hregs]; rfl
    rw [h1, ra.ctx, hc]
  -- its leaf context at the next word
  generalize hK : settleJoin (putSplit (leafCtx d) (leafCtx d).run { runSplit (leafCtx d) with pc := (runSplit (leafCtx d)).pc + 12 }) = k
  have hkeep : RejoinKeeps (putSplit (leafCtx d) (leafCtx d).run { runSplit (leafCtx d) with pc := (runSplit (leafCtx d)).pc + 12 }) k := hK ▸ settleJoin_keeps _
  have hnx : leafCtx (nextWord x) = { k with s := (leafCtx r).s } := by
    unfold nextWord goTo
    rw [leafCtx_onLeaf, hxc, ← hK, ← settleJoin_scalars]
    rfl
  have hke : splitAt k (leafCtx d).run = { runSplit (leafCtx d) with pc := (runSplit (leafCtx d)).pc + 12 } := by
    rw [hkeep.entry _ (by rw [splitAt_putSplit, if_pos rfl]; show (runSplit (leafCtx d)).state ≠ 3; unfold runSplit; rw [hrun]; decide), splitAt_putSplit, if_pos rfl]
  have hheir : (heirWins (leafCtx d') (nextWord x)).wins = x.wins := by
    have hnw : (nextWord x).wins = x.wins := by unfold nextWord goTo onLeaf; split <;> rfl
    unfold heirWins
    dsimp only
    rw [hnw]
    apply map_same
    intro w hwm
    split
    · rfl
    · rename_i hk
      have hown : w.owner = (leafCtx d).run := by
        rw [hregs] at hwm
        have hwm' : w ∈ d'.wins ++ leafOpens (leafCtx d').run p.w.la.toNat ws := hwm
        rcases List.mem_append.mp hwm' with h1 | h1
        · exact absurd (kind_of_quiet hcl h1) hk
        · unfold leafOpens at h1
          split at h1
          · simp at h1
          · obtain ⟨a, _, ha⟩ := List.mem_filterMap.mp h1
            cases a <;> dsimp only at ha <;> (try split at ha) <;> simp at ha <;> rw [← ha] <;> rw [hc]
      have hsm : (splitAt (leafCtx (nextWord x)) (leafCtx d).run).sm = (splitAt (leafCtx d') (leafCtx d).run).sm := by
        have : splitAt { k with s := (leafCtx r).s } (leafCtx d).run = splitAt k (leafCtx d).run := rfl
        rw [hnx, hc, this, hke]; rfl
      rw [hown, heirOf_same _ _ _ hsm, ← hown]
  -- the whole drill
  have hone : ∃ e, drillAt (leafDone s slot p pops ws flags nextWord) slot = some e ∧ e.v = r.v ∧ e.k = r.k ∧ e.wins = x.wins ∧ e.fmode = x.fmode ∧ leafCtx e = { k with s := (leafCtx r).s } ∧
      (if d.super = true then e.user = d.user else e.sup = d.sup) ∧ e.hoses = d'.hoses ∧ e.bed = d'.bed ∧
      e = { d' with
        v := e.v, k := e.k, fmode := e.fmode, user := e.user, sup := e.sup, wins := e.wins, heldIssues := e.heldIssues, leafWait := .none,
        walked := d'.walked.filter (fun w => !w.1), asked := d'.asked.filter (fun w => !w.1), granted := d'.granted.filter (fun w => !w.1),
        got := d'.got.filter (fun g => !g.leaf), claims := d'.claims.filter (fun c => !c.1), lastLeaf := e.lastLeaf } ∧
      leafDone s slot p pops ws flags nextWord = putDrill (hoseMoves s slot pops (ws.filterMap leafPush)) slot e := by
    have hdone : ∀ y, heirWins (leafCtx d') (nextWord x) = y → leafCtx y = { k with s := (leafCtx r).s } →
        leafDone s slot p pops ws flags nextWord = putDrill (hoseMoves s slot pops (ws.filterMap leafPush)) slot { y with
          leafWait := .none, walked := d'.walked.filter (fun w => !w.1), asked := d'.asked.filter (fun w => !w.1), granted := d'.granted.filter (fun w => !w.1),
          got := d'.got.filter (fun g => !g.leaf), claims := d'.claims.filter (fun c => !c.1), lastLeaf := some s.cycle } := by
      intro y hy hyc
      unfold leafDone
      dsimp only
      have h1 : onDrill (hoseMoves s slot pops (ws.filterMap leafPush)) slot (fun d =>
          { heirWins (leafCtx d) (nextWord (leafRegs p ws flags d)) with
            leafWait := .none, walked := d.walked.filter (fun w => !w.1), asked := d.asked.filter (fun w => !w.1), granted := d.granted.filter (fun w => !w.1),
            got := d.got.filter (fun g => !g.leaf), claims := d.claims.filter (fun c => !c.1), lastLeaf := some s.cycle }) =
          putDrill (hoseMoves s slot pops (ws.filterMap leafPush)) slot { y with
            leafWait := .none, walked := d'.walked.filter (fun w => !w.1), asked := d'.asked.filter (fun w => !w.1), granted := d'.granted.filter (fun w => !w.1),
            got := d'.got.filter (fun g => !g.leaf), claims := d'.claims.filter (fun c => !c.1), lastLeaf := some s.cycle } := by
        unfold onDrill; rw [f.here]; dsimp only; rw [hX, hy]
      rw [h1]
      unfold endRoutine
      rw [drillAt_putDrill, if_pos rfl]
      dsimp only
      rw [routineOver_running _ (leafCtx d).run]
      · rfl
      · have h2 : leafCtx { y with
            leafWait := .none, walked := d'.walked.filter (fun w => !w.1), asked := d'.asked.filter (fun w => !w.1), granted := d'.granted.filter (fun w => !w.1),
            got := d'.got.filter (fun g => !g.leaf), claims := d'.claims.filter (fun c => !c.1), lastLeaf := some s.cycle } = leafCtx y := rfl
        rw [h2, hyc]
        show (splitAt k (leafCtx d).run).state = 2
        rw [hke]; exact hrun
    have hn : nextWord x = { x with user := (nextWord x).user, sup := (nextWord x).sup } := by unfold nextWord goTo onLeaf; split <;> rfl
    have hnl : if d.super = true then (nextWord x).user = x.user else (nextWord x).sup = x.sup := by
      have hxs : x.super = d.super := by rw [hregs, ra.rest, ← hs]
      unfold nextWord goTo onLeaf; rw [hxs]; split <;> rfl
    generalize hY : heirWins (leafCtx d') (nextWord x) = y at hheir hdone
    have hyd : y = { nextWord x with wins := y.wins } := by rw [← hY]; rfl
    have hyc : leafCtx y = { k with s := (leafCtx r).s } := by rw [hyd]; exact hnx
    have hy2 : y = { x with user := y.user, sup := y.sup } := by
      have h1 : y.user = (nextWord x).user := by rw [hyd]
      have h2 : y.sup = (nextWord x).sup := by rw [hyd]
      rw [hheir, hn] at hyd
      rw [h1, h2]; exact hyd
    have hyl : if d.super = true then y.user = d.user else y.sup = d.sup := by
      have h1 : y.user = (nextWord x).user := by rw [hyd]
      have h2 : y.sup = (nextWord x).sup := by rw [hyd]
      have l1 := ra.level
      have l2 := hnl
      rw [hs] at l1
      have xu : x.user = r.user := by rw [hregs]
      have xs : x.sup = r.sup := by rw [hregs]
      split at l1 <;> rename_i hsup
      · rw [if_pos hsup] at l2 ⊢; rw [h1, l2, xu, l1, hd']
      · rw [if_neg hsup] at l2 ⊢; rw [h2, l2, xs, l1, hd']
    refine ⟨{ y with
          leafWait := .none, walked := d'.walked.filter (fun w => !w.1), asked := d'.asked.filter (fun w => !w.1), granted := d'.granted.filter (fun w => !w.1),
          got := d'.got.filter (fun g => !g.leaf), claims := d'.claims.filter (fun c => !c.1), lastLeaf := some s.cycle }, ?_, ?_, ?_, hheir, ?_, hyc, hyl, ?_, ?_, ?_, hdone y rfl hyc⟩
    · rw [hdone y rfl hyc, drillAt_putDrill, if_pos rfl]
    · dsimp only; rw [hy2, hregs]
    · dsimp only; rw [hy2, hregs]
    · dsimp only; rw [hy2]
    · dsimp only; rw [hy2, hregs, ra.rest]
    · dsimp only; rw [hy2, hregs, ra.rest]
    · dsimp only; rw [hy2, hregs, ra.rest]
  obtain ⟨e, e1, e2, e3, e4, e5, e6, e7, e8, e9, e10, e11⟩ := hone
  have hrs : SameModule s (leafDone s slot p pops ws flags nextWord) := by rw [e11]; exact f.rest.trans (sameModule_putDrill _ _ _)
  refine ⟨⟨e, e1, ⟨?_, ?_, ?_, ?_, ?_, ?_, e7, ?_⟩, ?_⟩, ?_, ?_, hrs, memByte_same hrs, benchByte_same hrs⟩
  · intro i l hi hl
    have h1 := ra.vectors i l hi hl
    have h2 : vBase e i = vBase r i := by unfold vBase; rw [e2]
    have h3 : vBase d' i = vBase d i := by rw [hd']; rfl
    have h4 : laneAfter d' ws i l = laneAfter d ws i l := by unfold laneAfter; rw [h3]
    rw [h2, h1, h3, h4]
    by_cases hla : p.w.la = 0
    · simp [hla]
    · have : p.w.la.toNat ≠ 0 := fun e => hla (BitVec.eq_of_toNat_eq (by simpa using e))
      rw [if_neg this, if_neg hla]
  · intro i hi
    have h4 : maskAfter d' ws i = maskAfter d ws i := by unfold maskAfter; rw [hd']
    rw [e3, ra.masks i hi, h4]
  · intro i hi hi'
    have h1 := ra.scalars i hi hi'
    have h2 : (leafCtx e).s = (leafCtx r).s := by rw [e6]
    have h4 : scalarAfter d' ws i = scalarAfter d ws i := by unfold scalarAfter; rw [hc]
    rw [h2, h1, hc, h4]
    by_cases hla : p.w.la = 0
    · simp [hla]
    · have : p.w.la.toNat ≠ 0 := fun e => hla (BitVec.eq_of_toNat_eq (by simpa using e))
      rw [if_neg this, if_neg hla]
  · rw [e4, hregs, hw, hc]
  · rw [e5, hregs]; have : d'.fmode = d.fmode := by rw [hd']
    rw [this]
  · rw [e6, ← hK]
  · rw [e10, hd']
  · intro h
    have hqq : hoseQ (leafDone s slot p pops ws flags nextWord) e h = hoseQ (hoseMoves s slot pops (ws.filterMap leafPush)) d' h := by
      unfold hoseQ; rw [e11]; simp only [objAt_putDrill, e8, e9]
    rw [hqq, q]
  · intro j hj; rw [e11, drillAt_putDrill, if_neg hj]; exact f.others j hj
  · intro j; rw [e11]; simpa using f.objs j

/-! ## Issue -/

/-- A leaf word that may issue does what its body says. -/
theorem leafWord_issues {p : LeafPlan} {h : Shape} {s : State} {d : Drill} (i : LeafIssues p h s d) (body : Drill → LaneMask → List Opd → State → LeafBody) :
    leafWord p s body = match body d (effMask d p.w.k.toNat) (leafOps p h s d) s with
      | .trap c v m tea => .next (leafTrap s s.cur c v m tea)
      | .trapIn t c v m tea => .next (leafTrap t s.cur c v m tea)
      | .wait w t => .next (streamPark t s.cur true w (leafPops p h))
      | .ok t ws fl mv => .next (leafDone t s.cur p (leafPops p h) ws fl mv)
      | .okTrap t ws mv c v m tea => .next (leafTrap (leafDone t s.cur p (leafPops p h) ws 0 mv) s.cur c v m tea) := by
  have hg : (if p.release = true then releaseGate s s.cur d true else none) = none := by
    split
    · exact i.gate ‹_›
    · rfl
  simp only [leafWord, i.bound, i.legal, i.late, i.shape, i.budget, i.granted, hg, i.ready, Bool.not_true, Bool.or_false, if_false, Bool.false_eq_true]
  rfl
/-- A word whose body completes. -/
theorem leafWord_ok {p : LeafPlan} {h : Shape} {s t : State} {d : Drill} {ws : List LeafWrite} {fl : Nat} {mv : Drill → Drill} (i : LeafIssues p h s d)
    {body : Drill → LaneMask → List Opd → State → LeafBody} (hb : body d (effMask d p.w.k.toNat) (leafOps p h s d) s = .ok t ws fl mv) :
    leafWord p s body = .next (leafDone t s.cur p (leafPops p h) ws fl mv) := by rw [leafWord_issues i, hb]
/-- A word whose body finds a precise fault. -/
theorem leafWord_traps {p : LeafPlan} {h : Shape} {s : State} {d : Drill} {c : Nat} {v : Word} {m : LaneMask} {e : Tab Word} (i : LeafIssues p h s d)
    {body : Drill → LaneMask → List Opd → State → LeafBody} (hb : body d (effMask d p.w.k.toNat) (leafOps p h s d) s = .trap c v m e) :
    leafWord p s body = .next (leafTrap s s.cur c v m e) := by rw [leafWord_issues i, hb]
/-- An illegal word takes the illegal-instruction trap, whatever else it is (R75). -/
theorem leafWord_illegal {p : LeafPlan} {s : State} {d : Drill} (hd : drillAt s s.cur = some d) (hw : wfLeaf p.op p.w = false) (body : Drill → LaneMask → List Opd → State → LeafBody) :
    leafWord p s body = .next (leafTrap s s.cur cIllegal (leafHigh p) 0 []) := by simp [leafWord, hd, hw]
/-- A word that completes in a quiet drill and goes on at the next word. -/
theorem leafWord_completes {p : LeafPlan} {h : Shape} {s : State} {d : Drill} {ws : List LeafWrite} {fl : Nat} (i : LeafIssues p h s d)
    {body : Drill → LaneMask → List Opd → State → LeafBody} (hb : body d (effMask d p.w.k.toNat) (leafOps p h s d) s = .ok s ws fl nextWord) :
    ∃ t, leafWord p s body = .next t ∧ (LeafQuiet d → LeafCompletes p (leafPops p h) ws fl s t s.cur d) :=
  ⟨_, leafWord_ok i hb, fun q => leafDone_completes i.bound i.bed q p _ ws fl⟩

end Sys2Proof.Machine
end

