-- ==== Sys2Proof/Laws/Memory.lean ====
section
/-! SUPPORT. Memory: its canonical form under every operation that writes it, the bytes a write leaves, and what a store of a line does. -/
set_option maxRecDepth 20000

namespace Sys2Proof.Machine

/-- A choice is one of its branches. -/
theorem ite_either (p : Prop) [Decidable p] {α : Type} (a b : α) : (if p then a else b) = a ∨ (if p then a else b) = b := by
  by_cases h : p <;> simp [h]
/-- Memory right after reset lists nothing. -/
theorem wf_reset : Memory.wf State.reset.mem = true := rfl
/-- Cells kept by address keep the canonical form. -/
theorem wf_filter (m : List Host.Cell) (p : Host.Cell → Bool) (h : Memory.wf m = true) : Memory.wf (m.filter p) = true := by
  simp only [Memory.wf, Bool.and_eq_true, List.all_eq_true] at h ⊢
  exact ⟨tabRises_filter m _ none h.1, fun c hc => h.2 c (List.mem_filter.mp hc).1⟩
/-- A masked line write keeps the canonical form. -/
theorem wf_memLinePut (s : State) (line : Nat) (m : BitVec 128) (x : Vec) (q : BitVec 4) (h : Memory.wf s.mem = true) :
    Memory.wf (memLinePut s line m x q).mem = true := by
  unfold memLinePut; dsimp only
  generalize s.mem = t at h
  induction below 128 generalizing t with
  | nil => exact h
  | cons i r ih =>
    rw [List.foldl_cons]
    refine ih _ ?_
    split
    · exact wf_tabSet t _ _ h
    · exact h
/-- Power coming up keeps the canonical form. -/
theorem wf_powerUp (s : State) (h : Memory.wf s.mem = true) : Memory.wf (powerUp s).mem = true := wf_filter s.mem _ h
/-- Placing an instruction keeps the canonical form. -/
theorem wf_withFetchWord (s : State) (nbits w : Nat) (h : Memory.wf s.mem = true) : Memory.wf (s.withFetchWord nbits w).mem = true := by
  unfold State.withFetchWord
  dsimp only
  refine wf_cellsWrite _ _ _ _ ?_
  rw [onCore_mem, putDrill_mem]
  split
  · split <;> exact h
  · exact h
/-- The numbers of a run. -/
theorem mem_upFrom (n a x : Nat) : x ∈ upFrom a n ↔ a ≤ x ∧ x < a + n := by
  induction n generalizing a with
  | zero => simp [upFrom]
  | succ k ih => rw [upFrom, List.mem_cons, ih]; omega
/-- The numbers below n. -/
theorem mem_below (n x : Nat) : x ∈ below n ↔ x < n := by unfold below; rw [mem_upFrom]; omega
/-- A byte of a memory after a list of byte writes at distinct addresses. -/
theorem foldl_put (l : List Nat) (f : Nat → Nat) (g : Nat → BitVec 8) (p : Nat → Bool) (hf : ∀ a b, f a = f b → a = b) (m : List Host.Cell) (a : Nat) :
    tabGet 0 (l.foldl (fun t i => if p i = true then tabSet 0 t (f i) (g i) else t) m) a = if ∃ i, i ∈ l ∧ p i = true ∧ f i = a then (match l.find? (fun i => p i && decide (f i = a)) with | some i => g i | none => 0) else tabGet 0 m a := by
  induction l generalizing m with
  | nil => simp
  | cons j r ih =>
    rw [List.foldl_cons, ih]
    by_cases h : ∃ i, i ∈ r ∧ p i = true ∧ f i = a
    · rw [if_pos h, if_pos (by obtain ⟨i, h1, h2⟩ := h; exact ⟨i, List.mem_cons_of_mem _ h1, h2⟩)]
      rw [List.find?_cons]
      by_cases hj : p j = true ∧ f j = a
      · simp only [hj.1, hj.2, decide_true, Bool.and_self]
        obtain ⟨i, h1, h2, h3⟩ := h
        cases hfnd : r.find? (fun i => p i && decide (f i = a)) with
        | none => rw [List.find?_eq_none] at hfnd; have := hfnd i h1; simp [h2, h3] at this
        | some q =>
          have := List.find?_some hfnd
          simp at this
          rw [hf q j (by rw [this.2, hj.2])]
      · have : (p j && decide (f j = a)) = false := by
          cases hp : p j <;> simp_all
        rw [this]
    · rw [if_neg h]
      by_cases hj : p j = true ∧ f j = a
      · rw [if_pos hj.1, if_pos (show ∃ i, i ∈ j :: r ∧ p i = true ∧ f i = a from ⟨j, List.mem_cons_self, hj⟩), List.find?_cons]
        simp only [hj.1, hj.2, decide_true, Bool.and_self, if_true, tabGet_tabSet]
      · have hno : ¬∃ i, i ∈ j :: r ∧ p i = true ∧ f i = a := by
          rintro ⟨i, h1, h2⟩
          rcases List.mem_cons.mp h1 with e | h1
          · rw [e] at h2; exact hj h2
          · exact h ⟨i, h1, h2⟩
        rw [if_neg hno]
        split
        · rename_i hp; rw [tabGet_tabSet, if_neg (by intro e; exact hj ⟨hp, e.symm⟩)]
        · rfl
/-- A byte of memory after a masked line write: the line's byte where the mask has it, else what it was. -/
theorem memLinePut_byte (s : State) (line : Nat) (m : BitVec 128) (x : Vec) (q : BitVec 4) (a : Nat) :
    memByte (memLinePut s line m x q) a = if a / 128 = line ∧ bitOf m.toNat (a % 128) = true then BitVec.ofNat 8 (lineByte x (a % 128)) else memByte s a := by
  unfold memByte memLinePut; dsimp only
  rw [foldl_put (below 128) (fun i => 128 * line + i) (fun i => BitVec.ofNat 8 (lineByte x i)) (fun i => bitOf m.toNat i) (by intro a b h; omega)]
  by_cases h : a / 128 = line ∧ bitOf m.toNat (a % 128) = true
  · rw [if_pos ⟨a % 128, (mem_below _ _).mpr (by omega), h.2, by omega⟩, if_pos h]
    cases hf : (below 128).find? (fun i => bitOf m.toNat i && decide (128 * line + i = a)) with
    | none => rw [List.find?_eq_none] at hf; have := hf (a % 128) ((mem_below _ _).mpr (by omega)); simp [h.2] at this; omega
    | some i =>
      have := List.find?_some hf
      simp at this
      rw [show a % 128 = i by omega]
  · rw [if_neg h, if_neg]
    rintro ⟨i, h1, h2, h3⟩
    rw [mem_below] at h1
    exact h ⟨by omega, by rw [show a % 128 = i by omega]; exact h2⟩
/-- A masked line written below a cluster leaves every byte outside the mask as it was. -/
theorem belowPut_byte (s : State) (line : Nat) (m : BitVec 128) (x : Vec) (q : BitVec 4) (a : Nat) (h : ¬(a / 128 = line ∧ bitOf m.toNat (a % 128) = true)) : memByte (belowPut s line m x q) a = memByte s a := by
  unfold belowPut; dsimp only
  split
  · rfl
  · exact (memLinePut_byte s line m x q a).trans (by rw [if_neg h])
/-- The bits of the mask of n bytes at o. -/
theorem byteMask_bit (o n b : Nat) (hb : b < 128) : bitOf (byteMask o n).toNat b = decide (o ≤ b ∧ b < o + n) := by
  unfold bitOf byteMask
  rw [BitVec.toNat_ofNat, Nat.testBit_mod_two_pow, ← Nat.shiftLeft_eq, Nat.testBit_shiftLeft, Nat.testBit_two_pow_sub_one]
  simp only [hb, decide_true, Bool.true_and, ← Bool.decide_and]
  apply decide_eq_decide.mpr; omega
/-- A byte of a field of a line. -/
theorem lineByte_span (v : Vec) (o n k : Nat) (hk : k < n) : bitsOf (bitsOf v.toNat (8 * o) (8 * n)) (8 * k) 8 = lineByte v (o + k) := by
  unfold lineByte bitsOf
  apply Nat.eq_of_testBit_eq
  intro i
  simp only [Nat.testBit_mod_two_pow, Nat.testBit_shiftRight]
  by_cases hi : i < 8
  · have : 8 * k + i < 8 * n := by omega
    simp only [hi, this, decide_true, Bool.true_and]
    congr 1; omega
  · simp [hi]
/-- A byte of a line with the pending stores of a cluster laid over it: the newest pending byte, else the line's. -/
theorem merge_fold (l : List (Nat × PendStore)) (cl line b : Nat) (hb : b < 128) (v : Vec) :
    lineByte (l.foldl (fun v p => if p.2.cl = cl ∧ p.2.line = line then mergeBytes p.2.bytes p.2.data v else v) v) b =
      match (l.filter (fun p => decide (p.2.cl = cl ∧ p.2.line = line) && bitOf p.2.bytes.toNat b)).getLast? with
      | some p => lineByte p.2.data b
      | none => lineByte v b := by
  induction l generalizing v with
  | nil => rfl
  | cons p r ih =>
    rw [List.foldl_cons, ih, List.filter_cons]
    by_cases h : p.2.cl = cl ∧ p.2.line = line
    · by_cases h2 : bitOf p.2.bytes.toNat b = true
      · rw [if_pos h, if_pos (by simp [h, h2])]
        rw [List.getLast?_cons]
        cases (r.filter (fun p => decide (p.2.cl = cl ∧ p.2.line = line) && bitOf p.2.bytes.toNat b)).getLast? with
        | none => simp only [Option.getD_none]; rw [lineByte_mergeBytes _ _ _ _ hb, if_pos h2]
        | some q => rfl
      · rw [if_pos h, if_neg (by simp [h2])]
        cases (r.filter (fun p => decide (p.2.cl = cl ∧ p.2.line = line) && bitOf p.2.bytes.toNat b)).getLast? with
        | none => simp only; rw [lineByte_mergeBytes _ _ _ _ hb, if_neg h2]
        | some q => rfl
    · rw [if_neg h, if_neg (by simp [h])]
/-- A byte of the line as a cluster sees it. -/
theorem lineView_byte (s : State) (cl line b : Nat) (hb : b < 128) : lineByte (lineView s cl line).1 b = clusterByte s cl (128 * line + b) := by
  unfold lineView clusterByte
  rw [show (128 * line + b) / 128 = line by omega, show (128 * line + b) % 128 = b by omega]
  cases copyAt s cl line with
  | some x => rfl
  | none => exact merge_fold _ _ _ _ hb _
/-- A byte of what an element of an access reads. -/
theorem elRead_byte (s : State) (cl pa n k idx : Nat) (act : Act) (hk : k < n) (ho : pa % 128 + n ≤ 128) :
    bitsOf (elRead s cl { idx, pa, n, act }).1 (8 * k) 8 = clusterByte s cl (pa + k) := by
  unfold elRead; dsimp only
  rw [lineByte_span _ _ _ _ hk, lineView_byte _ _ _ _ (by omega)]
  congr 1; omega
/-- A masked line written below a cluster leaves drills, objects, cores, jobs, clusters and stores as they were. -/
theorem belowPut_drills (s : State) (line : Nat) (m : BitVec 128) (x : Vec) (q : BitVec 4) :
    (belowPut s line m x q).drills = s.drills ∧ (belowPut s line m x q).objs = s.objs ∧ (belowPut s line m x q).cores = s.cores ∧ (belowPut s line m x q).jobs = s.jobs ∧
    (belowPut s line m x q).cur = s.cur ∧ (belowPut s line m x q).clusters = s.clusters ∧ (belowPut s line m x q).stores = s.stores ∧ (belowPut s line m x q).nextId = s.nextId := by
  unfold belowPut; dsimp only
  split <;> exact ⟨rfl, rfl, rfl, rfl, rfl, rfl, rfl, rfl⟩
@[simp] theorem copyPut_stores (s : State) (cl line : Nat) (y : LineCopy) : (copyPut s cl line y).stores = s.stores := onCl_stores _ _ _
@[simp] theorem copyPut_mem (s : State) (cl line : Nat) (y : LineCopy) : (copyPut s cl line y).mem = s.mem := onCl_mem _ _ _
@[simp] theorem copyPut_drills (s : State) (cl line : Nat) (y : LineCopy) : (copyPut s cl line y).drills = s.drills := onCl_drills _ _ _
@[simp] theorem copyPut_objs (s : State) (cl line : Nat) (y : LineCopy) : (copyPut s cl line y).objs = s.objs := onCl_objs _ _ _
@[simp] theorem copyPut_cores (s : State) (cl line : Nat) (y : LineCopy) : (copyPut s cl line y).cores = s.cores := onCl_cores _ _ _
@[simp] theorem copyPut_jobs (s : State) (cl line : Nat) (y : LineCopy) : (copyPut s cl line y).jobs = s.jobs := onCl_jobs _ _ _
@[simp] theorem copyPut_cur (s : State) (cl line : Nat) (y : LineCopy) : (copyPut s cl line y).cur = s.cur := onCl_cur _ _ _
/-- The copies of clusters after one is put. -/
theorem copyAt_copyPut {s : State} {cl line : Nat} (ht : (tabFind (clAt s cl).tiles (line / 16)).isSome = true) (y : LineCopy) (c l : Nat) :
    copyAt (copyPut s cl line y) c l = if c = cl ∧ l = line then some y else copyAt s c l := by
  obtain ⟨t, ht⟩ := Option.isSome_iff_exists.mp ht
  unfold copyAt copyPut
  rw [clAt_onCl]
  by_cases hc : c = cl
  · subst hc
    rw [if_pos rfl, ht]
    dsimp only
    rw [tabFind_tabPut]
    by_cases hl : l / 16 = line / 16
    · rw [if_pos hl]; dsimp only; rw [tabFind_tabPut, hl, ht]
      by_cases h2 : l = line
      · simp [h2]
      · simp [h2]
    · rw [if_neg hl, if_neg (by rintro ⟨-, rfl⟩; exact hl rfl)]
  · rw [if_neg hc, if_neg (by rintro ⟨h, -⟩; exact hc h)]
/-- A write-back entry leaves the copies of tiles as they were. -/
theorem wback_copy (s : State) (cl line : Nat) (m : BitVec 128) (v : Vec) (q : BitVec 4) (c l : Nat) : copyAt (wbackPut s cl line m v q) c l = copyAt s c l := by
  unfold copyAt wbackPut
  rw [clAt_onCl]
  by_cases hc : c = cl
  · subst hc; rw [if_pos rfl]
    cases h1 : tabFind (clAt s c).wback (line / 16) with
    | none => rfl
    | some t => cases h2 : tabFind t line with
      | none => simp only [h2]
      | some x => simp only [h2]
  · rw [if_neg hc]
/-- The copies of a cluster are part of the clusters. -/
theorem copyAt_congr {s v : State} (h : v.clusters = s.clusters) (c l : Nat) : copyAt v c l = copyAt s c l := by unfold copyAt clAt; rw [h]
/-- What a stored line leaves as it was. -/
structure StoreFrame (s v : State) : Prop where
  drills : v.drills = s.drills
  objs : v.objs = s.objs
  cores : v.cores = s.cores
  jobs : v.jobs = s.jobs
  cur : v.cur = s.cur
/-- A stored line leaves drills, objects, cores and jobs as they were. -/
theorem storeLine_frame (s : State) (slot line : Nat) (shr : Bool) (dt : Nat) (m : BitVec 128) (x : Vec) (q : BitVec 4) : StoreFrame s (storeLine s slot line shr false dt m x q) := by
  unfold storeLine
  simp only [Bool.not_false, Bool.true_or, Bool.and_true, Bool.and_false]
  cases shr
  · simp only [Bool.false_eq_true, if_false]
    cases h : tabFind (clAt s (clusterOf slot)).tiles (line / 16) with
    | some t =>
      simp only [Option.isSome_some, if_true]
      constructor <;> simp
    | none =>
      simp only [Option.isSome_none, Bool.false_eq_true, if_false]
      obtain ⟨h1, h2, h3, h4, h5, -⟩ := belowPut_drills (wbackPut s (clusterOf slot) line m x q) line m x q
      exact ⟨h1, h2, h3, h4, h5⟩
  · simp only [if_true]
    constructor <;> (repeat' split) <;> simp
/-- What a store of n bytes within a line does: the bytes stand where the store takes effect, and no other byte changes. -/
theorem storeLine_spec {s : State} {slot pa n x dt : Nat} {shr : Bool} {data : Vec} (hn : 0 < n) (hin : pa % 128 + n ≤ 128) (hx : ∀ k, k < n → lineByte data (pa % 128 + k) = bitsOf x (8 * k) 8) :
    StoredBytes s (storeLine s slot (pa / 128) shr false dt (byteMask (pa % 128) n) data 0) slot pa n x shr dt ∧
    (shr = true ∨ (tabFind (clAt s (clusterOf slot)).tiles (pa / 2048)).isSome = true → (storeLine s slot (pa / 128) shr false dt (byteMask (pa % 128) n) data 0).mem = s.mem) ∧
    ∀ b, (b < pa ∨ pa + n ≤ b) → memByte (storeLine s slot (pa / 128) shr false dt (byteMask (pa % 128) n) data 0) b = memByte s b := by
  have hm : ∀ b, b < 128 → (bitOf (byteMask (pa % 128) n).toNat b = true ↔ pa % 128 ≤ b ∧ b < pa % 128 + n) := by
    intro b hb; rw [byteMask_bit _ _ _ hb]; simp
  obtain ⟨M, hM⟩ : ∃ M, M = byteMask (pa % 128) n := ⟨_, rfl⟩
  rw [← hM] at hm ⊢
  have hbytes : ∀ old : Vec, (∀ k, k < n → lineByte (mergeBytes M data old) (pa % 128 + k) = bitsOf x (8 * k) 8) ∧
      (∀ b, b < 128 → b < pa % 128 ∨ pa % 128 + n ≤ b → lineByte (mergeBytes M data old) b = lineByte old b) := by
    intro old
    constructor
    · intro k hk
      rw [lineByte_mergeBytes _ _ _ _ (by omega), if_pos ((hm _ (by omega)).mpr ⟨by omega, by omega⟩), hx k hk]
    · intro b hb hc
      rw [lineByte_mergeBytes _ _ _ _ hb, if_neg]
      intro h; have := (hm b hb).mp h; omega
  have hl16 : pa / 128 / 16 = pa / 2048 := by omega
  cases ht : tabFind (clAt s (clusterOf slot)).tiles (pa / 2048) with
  | none =>
    have hnone : (tabFind (clAt s (clusterOf slot)).tiles (pa / 128 / 16)) = none := by rw [hl16]; exact ht
    cases shr
    · have he : storeLine s slot (pa / 128) false false dt M data 0 = belowPut (wbackPut s (clusterOf slot) (pa / 128) M data 0) (pa / 128) M data 0 := by
        unfold storeLine; simp [hnone]
      rw [he]
      obtain ⟨-, -, -, -, -, h6, h7, -⟩ := belowPut_drills (wbackPut s (clusterOf slot) (pa / 128) M data 0) (pa / 128) M data 0
      refine ⟨⟨fun h => ?_, fun h => absurd h (by simp), fun c l _ => ?_, fun id _ => ?_⟩, fun h => ?_, fun b hb => ?_⟩
      · rw [ht] at h; exact absurd h (by simp)
      · rw [copyAt_congr h6, wback_copy]
      · rw [h7]; unfold wbackPut; rw [onCl_stores]
      · simp at h
      · rw [belowPut_byte]
        · unfold memByte wbackPut; rw [onCl_mem]
        · rintro ⟨h1, h2⟩
          have := (hm (b % 128) (by omega)).mp h2; omega
    · have he : storeLine s slot (pa / 128) true false dt M data 0 = post { s with nextId := s.nextId + 1, stores := tabPut s.stores s.nextId { slot, cl := clusterOf slot, line := pa / 128, bytes := M, data, dt, engine := false, psn := 0 } } (.hubStoreStamp s.nextId) := by
        unfold storeLine; simp [hnone]
      rw [he]
      refine ⟨⟨fun h => ?_, fun _ => ?_, fun c l _ => ?_, fun id hid => ?_⟩, fun _ => ?_, fun b _ => ?_⟩
      · rw [ht] at h; exact absurd h (by simp)
      · exact ⟨_, by rw [post_stores]; exact tabFind_tabPut_self _ _ _, rfl, rfl, rfl, hM, rfl, rfl, hx⟩
      · rw [copyAt_congr (s := s) (by simp)]
      · rw [post_stores]; dsimp only; rw [tabFind_tabPut, if_neg (by simpa using hid)]
      · rw [post_mem]
      · unfold memByte; rw [post_mem]
  | some tile =>
    have hsome : (tabFind (clAt s (clusterOf slot)).tiles (pa / 128 / 16)).isSome = true := by rw [hl16, ht]; rfl
    have hget : ∀ {β : Type} (g : LineCopy → β), g { shared := shr } = g {} → g ((copyAt s (clusterOf slot) (pa / 128)).getD { shared := shr }) = g ((copyAt s (clusterOf slot) (pa / 128)).getD {}) := by
      intro β g hg; cases copyAt s (clusterOf slot) (pa / 128) with
      | none => exact hg
      | some y => rfl
    have hcp := copyAt_copyPut hsome (storeCopy shr M data 0 ((copyAt s (clusterOf slot) (pa / 128)).getD { shared := shr }))
    have h1 := hget LineCopy.data rfl
    have h2 := hget LineCopy.have' rfl
    have h3 := hget LineCopy.dirty rfl
    have h4 := hget LineCopy.pend rfl
    generalize hold : (copyAt s (clusterOf slot) (pa / 128)).getD { shared := shr } = old at hcp h1 h2 h3 h4
    have hy : (storeCopy shr M data 0 old).shared = shr ∧ (storeCopy shr M data 0 old).data = mergeBytes M data old.data ∧ (storeCopy shr M data 0 old).have' = old.have' ∧
        (storeCopy shr M data 0 old).dirty = old.dirty ||| (if shr = true then 0 else M) ∧ (storeCopy shr M data 0 old).pend = old.pend ||| (if shr = true then M else 0) := by
      unfold storeCopy; cases shr <;> simp
    obtain ⟨y1, y2, y3, y4, y5⟩ := hy
    have hhit : ∀ v, v.clusters = (copyPut s (clusterOf slot) (pa / 128) (storeCopy shr M data 0 old)).clusters →
        ∃ y, copyAt v (clusterOf slot) (pa / 128) = some y ∧ y.shared = shr ∧
        (∀ k, k < n → lineByte y.data (pa % 128 + k) = bitsOf x (8 * k) 8) ∧
        (∀ b, b < 128 → b < pa % 128 ∨ pa % 128 + n ≤ b → lineByte y.data b = lineByte ((copyAt s (clusterOf slot) (pa / 128)).getD {}).data b) ∧
        y.have' = ((copyAt s (clusterOf slot) (pa / 128)).getD {}).have' ∧
        y.dirty = ((copyAt s (clusterOf slot) (pa / 128)).getD {}).dirty ||| (if shr = true then 0 else byteMask (pa % 128) n) ∧
        y.pend = ((copyAt s (clusterOf slot) (pa / 128)).getD {}).pend ||| (if shr = true then byteMask (pa % 128) n else 0) := by
      intro v hv
      refine ⟨_, by rw [copyAt_congr hv, hcp, if_pos ⟨rfl, rfl⟩], y1, ?_, ?_, ?_, ?_, ?_⟩
      · rw [y2]; exact (hbytes _).1
      · rw [y2, ← h1]; exact (hbytes _).2
      · rw [y3, h2]
      · rw [y4, h3, hM]
      · rw [y5, h4, hM]
    cases shr
    · have he : storeLine s slot (pa / 128) false false dt M data 0 = copyPut s (clusterOf slot) (pa / 128) (storeCopy false M data 0 old) := by
        unfold storeLine; simp only [hsome, Bool.not_false, Bool.true_or, Bool.and_true, if_true, Bool.false_eq_true, if_false, hold]
      rw [he]
      refine ⟨⟨fun _ => hhit _ rfl, fun h => absurd h (by simp), fun c l hcl => ?_, fun id _ => ?_⟩, fun h => ?_, fun b hb => ?_⟩
      · rw [hcp, if_neg hcl]
      · rw [copyPut_stores]
      · rw [copyPut_mem]
      · unfold memByte; rw [copyPut_mem]
    · have he : ∃ s2, (s2 = copyPut s (clusterOf slot) (pa / 128) (storeCopy true M data 0 old) ∨ ∃ m, s2 = post (copyPut s (clusterOf slot) (pa / 128) (storeCopy true M data 0 old)) m) ∧
          storeLine s slot (pa / 128) true false dt M data 0 = post { s2 with nextId := s.nextId + 1, stores := tabPut s2.stores s.nextId { slot, cl := clusterOf slot, line := pa / 128, bytes := M, data, dt, engine := false, psn := 0 } } (.hubStoreStamp s.nextId) := by
        unfold storeLine; simp only [hsome, Bool.not_false, Bool.true_or, Bool.and_true, Bool.true_and, if_true, hold]
        exact ⟨_, (ite_either _ _ _).elim (fun h => .inr ⟨_, h⟩) .inl, rfl⟩
      obtain ⟨s2, h5, he⟩ := he
      rw [he]
      have h6 : s2.clusters = (copyPut s (clusterOf slot) (pa / 128) (storeCopy true M data 0 old)).clusters ∧ s2.stores = s.stores ∧ s2.mem = s.mem := by
        rcases h5 with rfl | ⟨m, rfl⟩ <;> simp
      obtain ⟨h6, h7, h8⟩ := h6
      refine ⟨⟨fun _ => hhit _ (by rw [post_clusters]; exact h6), fun _ => ?_, fun c l hcl => ?_, fun id hid => ?_⟩, fun h => ?_, fun b hb => ?_⟩
      · exact ⟨_, by rw [post_stores]; exact tabFind_tabPut_self _ _ _, rfl, rfl, rfl, hM, rfl, rfl, hx⟩
      · rw [copyAt_congr (s := copyPut s (clusterOf slot) (pa / 128) (storeCopy true M data 0 old)) (by rw [post_clusters]; exact h6), hcp, if_neg hcl]
      · rw [post_stores]; dsimp only; rw [tabFind_tabPut, if_neg (by simpa using hid), h7]
      · rw [post_mem]; exact h8
      · unfold memByte; rw [post_mem]; exact congrArg (fun m => tabGet 0 m b) h8

end Sys2Proof.Machine
end

