-- ==== Sys2Proof/Laws/Trap.lean ====
section
/-! SUPPORT. Traps: what the withdrawal of accesses, trap entry and a raised trap do, and what they leave as it was. -/
set_option maxRecDepth 20000

namespace Sys2Proof.Machine

/-- An entry of a mapped table. -/
theorem tabFind_map {α β : Type} (t : Tab α) (f : Nat → α → β) (k : Nat) : tabFind (t.map (fun e => (e.1, f e.1 e.2))) k = (tabFind t k).map (f k) := by
  induction t with
  | nil => rfl
  | cons e r ih =>
    simp only [List.map_cons, tabFind, ih]
    split
    · rename_i h; subst h; rfl
    · rfl
/-- A drill after wakes. -/
theorem drillAt_wake (s : State) (p : Wait → Bool) (k : Nat) : drillAt (wake s p) k = (drillAt s k).map (fun d => { d with
      stemWait := (if p d.stemWait then .none else d.stemWait), leafWait := (if p d.leafWait then .none else d.leafWait) }) := by
  unfold drillAt wake; exact tabFind_map s.drills (fun _ (d : Drill) => { d with stemWait := (if p d.stemWait then .none else d.stemWait), leafWait := (if p d.leafWait then .none else d.leafWait) }) k
/-- Only registers and lookahead windows differ. -/
def RegsMove (d e : Drill) : Prop := e = { d with g := e.g, v := e.v, user := e.user, sup := e.sup, wins := e.wins }
theorem regsMove_trans {d e f : Drill} (a : RegsMove d e) (b : RegsMove e f) : RegsMove d f := by unfold RegsMove at *; rw [b, a]
theorem regsMove_one (d : Drill) (p : PendWrite) : RegsMove d (commitOne d p) := by
  unfold commitOne gPut vPutBase onLeaf
  split
  · split <;> rfl
  · split
    · rfl
    · split <;> rfl
theorem regsMove_fold (l : List PendWrite) (d : Drill) : RegsMove d (l.foldl commitOne d) := by
  induction l generalizing d with
  | nil => rfl
  | cons x r ih => exact regsMove_trans (regsMove_one d x) (ih _)
/-- Committing the pending results moves registers only. -/
theorem regsMove_all (d : Drill) : RegsMove d (commitAll d) := by
  unfold commitAll commitWhere; dsimp only
  have := regsMove_fold (d.wins.filter (fun _ => true)) d
  unfold RegsMove at *; dsimp only; rw [this]
/-- What the withdrawal of a drill's accesses leaves as it was. -/
structure Withdrawn (s t : State) (slot : Nat) (d : Drill) : Prop where
  drill : ∃ e, drillAt t slot = some e ∧ e = { d with asked := [], granted := [], got := [], claims := [], stemWait := e.stemWait, leafWait := e.leafWait }
  others : ∀ k, k ≠ slot → (drillAt t k).map (fun x => { x with stemWait := .none, leafWait := .none }) = (drillAt s k).map (fun x => { x with stemWait := .none, leafWait := .none })
  objs : ∀ k, objAt t k = objAt s k
  bytes : ∀ a, memByte t a = memByte s a
  benches : ∀ c a, benchByte t c a = benchByte s c a
  jobs : t.jobs = s.jobs
  cur : t.cur = s.cur
theorem foldl_retest_keeps {β : Type} (g : State → β) (hg : ∀ t m, g (post t m) = g t) (slot : Nat) (l : List Nat) (s : State) : g (l.foldl (fun t h => hoseRetest t slot h) s) = g s :=
  foldl_keeps g (fun t h => hoseRetest t slot h) (fun t h => hoseRetest_keeps g hg t slot h) l s
/-- The withdrawal of a drill's accesses. -/
theorem withdraw_spec {s : State} {slot : Nat} {d : Drill} (hd : drillAt s slot = some d) : Withdrawn s (withdraw s slot) slot d := by
  unfold withdraw; rw [hd]; dsimp only
  generalize hs2 : onCl (onCore (putDrill { s with shoots := s.shoots.filter (fun x => decide (x.2.slot ≠ slot)) } slot { d with asked := [], granted := [], got := [], claims := [] }) (coreOf slot)
    (fun c => { c with queue := c.queue.filter (fun a => decide (a.slot ≠ slot)) })) (clusterOf slot) (fun c => { c with order := c.order.filter (fun a => decide (a.1 ≠ slot)) }) = s2
  have h2 : Withdrawn s s2 slot d := by
    rw [← hs2]
    refine ⟨⟨{ d with asked := [], granted := [], got := [], claims := [] }, ?_, rfl⟩, fun k hk => ?_, fun k => ?_, fun a => ?_, fun c a => ?_, rfl, rfl⟩
    · rw [drillAt_onCl, drillAt_onCore, drillAt_putDrill, if_pos rfl]
    · rw [drillAt_onCl, drillAt_onCore, drillAt_putDrill, if_neg hk]; rfl
    · rw [objAt_onCl, objAt_onCore, objAt_putDrill]; rfl
    · rfl
    · unfold benchByte; rw [coreAt_onCl, coreAt_onCore]; split
      · rename_i e; subst e; rfl
      · rfl
  have h3 : Withdrawn s (if d.asked.isEmpty = true then s2 else wake s2 onAccess) slot d := by
    split
    · exact h2
    · obtain ⟨⟨e, he, hr⟩, a1, a2, a3, a4, a5, a6⟩ := h2
      refine ⟨⟨_, by rw [drillAt_wake, he]; rfl, ?_⟩, fun k hk => ?_, fun k => ?_, fun a => ?_, fun c a => ?_, a5, a6⟩
      · dsimp only; rw [hr]
      · rw [drillAt_wake, Option.map_map]; rw [← a1 k hk]; rfl
      · exact (objAt_congr (wake_objs _ _) k).trans (a2 k)
      · exact a3 a
      · exact a4 c a
  generalize (if d.asked.isEmpty = true then s2 else wake s2 onAccess) = s3 at *
  obtain ⟨⟨e, he, hr⟩, a1, a2, a3, a4, a5, a6⟩ := h3
  refine ⟨⟨e, by rw [foldl_retest_keeps (fun t => drillAt t slot) (by simp)]; exact he, hr⟩, fun k hk => ?_, fun k => ?_, fun a => ?_, fun c a => ?_, ?_, ?_⟩
  · rw [foldl_retest_keeps (fun t => drillAt t k) (by simp)]; exact a1 k hk
  · rw [foldl_retest_keeps (fun t => objAt t k) (by simp)]; exact a2 k
  · unfold memByte; rw [foldl_retest_keeps (·.mem) (by simp)]; exact a3 a
  · unfold benchByte coreAt; rw [foldl_retest_keeps (·.cores) (by simp)]; exact a4 c a
  · rw [foldl_retest_keeps (·.jobs) (by simp)]; exact a5
  · rw [foldl_retest_keeps (·.cur) (by simp)]; exact a6
theorem wkindOf_lt (w : Wait) : wkindOf w < 8 := by cases w <;> simp [wkindOf]
/-- Trap entry (spec 23, R381). -/
theorem enterTrap_spec {s : State} {slot : Nat} {d : Drill} {ti : TrapInfo} {cause : Nat} (hd : drillAt s slot = some d) (hu : d.super = false) (hc : ti.cause = BitVec.ofNat 32 cause) :
    Trapped s (enterTrap s slot ti 0) slot d cause ti.tval ti.tmask ti.tea ti.epc := by
  have hw := withdraw_spec hd
  unfold enterTrap; rw [hd]; dsimp only
  have hm := regsMove_all d
  unfold RegsMove at hm
  have e1 : (commitAll d).super = false := by rw [hm]; exact hu
  have e2 : (commitAll d).stemWait = d.stemWait := by rw [hm]
  have e3 : (commitAll d).wake = d.wake := by rw [hm]
  have e4 : (commitAll d).wkind = d.wkind := by rw [hm]
  have e5 : (commitAll d).dt = d.dt := by rw [hm]
  have e6 : (commitAll d).pstamp = d.pstamp := by rw [hm]
  have e7 : (commitAll d).lstamp = d.lstamp := by rw [hm]
  have e8 : (commitAll d).job = d.job := by rw [hm]
  rw [e1, e2, e3, e4, e5, e6, e7, e8]
  generalize hst : ((if false = true then 1 else 0) + (if ((match d.stemWait with | .barw _ _ _ (some _) => true | _ => false) || d.wake) = true then 256 else 0) + (if d.wake = true then d.wkind.toNat else wkindOf d.stemWait) * 512) = stat
  have hk : (if d.wake = true then d.wkind.toNat else wkindOf d.stemWait) < 8 := by split; exact d.wkind.isLt; exact wkindOf_lt _
  have hall : stat < 4096 ∧ stat % 4 = 0 ∧ stat / 512 % 8 = (if d.wake = true then d.wkind.toNat else wkindOf d.stemWait) := by
    have key : ∀ (B : Bool) (K : Nat), K < 8 → ((if false = true then 1 else 0) + (if B = true then 256 else 0) + K * 512) < 4096 ∧ ((if false = true then 1 else 0) + (if B = true then 256 else 0) + K * 512) % 4 = 0 ∧
        ((if false = true then 1 else 0) + (if B = true then 256 else 0) + K * 512) / 512 % 8 = K := by
      intro B K h; cases B <;> simp only [Bool.false_eq_true, if_false, if_true] <;> omega
    rw [← hst]; exact key _ _ hk
  obtain ⟨hs1, hs2, hs3⟩ := hall
  have hx : (BitVec.ofNat 32 stat ||| 0 : BitVec 32).toNat = stat := by simp; omega
  have hj : jobAt (withdraw s slot) d.job = jobAt s d.job := jobAt_congr hw.jobs _
  refine ⟨⟨_, by rw [drillAt_putDrill, if_pos rfl], ?_, ?_, ?_, ?_⟩, fun k hk => ?_, fun k => ?_, fun a => ?_, fun c a => ?_⟩
  · dsimp only; rw [hc, hj]; simp only [e6, e7, e8]
  · dsimp only; rw [hx]; unfold bitsOf; simpa using hs2
  · dsimp only; rw [hx]; unfold bitsOf; rw [Nat.shiftRight_eq_div_pow]; exact hs3
  · dsimp only; rw [hx]; unfold bitsOf; rw [Nat.shiftRight_eq_div_pow]; omega
  · rw [drillAt_putDrill, if_neg hk]; exact hw.others k hk
  · rw [objAt_putDrill]; exact hw.objs k
  · exact hw.bytes a
  · unfold benchByte; rw [coreAt_putDrill]; exact hw.benches c a
/-- A trap at supervisor level (spec 23, R387). -/
theorem halted_spec {s : State} {slot : Nat} {d : Drill} {ti : TrapInfo} (hd : drillAt s slot = some d) (hu : d.super = true) :
    Halted s (raise s slot ti) slot d (.doubleFault slot ti.cause ti.tval) := by
  unfold raise; rw [hd]; dsimp only; rw [if_pos hu]
  refine ⟨?_, ?_, fun k hk => ?_, rfl, rfl, rfl⟩
  · rw [drillAt_notify, drillAt_putDrill, if_pos rfl]
  · unfold notify; simp
  · rw [drillAt_notify, drillAt_putDrill, if_neg hk]
/-- A trap with operations outstanding waits (spec 23, R381). -/
theorem raise_due {s : State} {slot : Nat} {d : Drill} {ti : TrapInfo} (hd : drillAt s slot = some d) (hu : d.super = false) (hc : trapClear s slot d = false) :
    (∃ e, drillAt (raise s slot ti) slot = some e ∧ e.super = false ∧ e.due = some ti ∧ e.tcause = d.tcause ∧ e.pc = d.pc ∧ e.g = d.g ∧ e.v = d.v ∧ e.k = d.k) ∧ ∀ a, memByte (raise s slot ti) a = memByte s a := by
  unfold raise; rw [hd]; dsimp only; rw [if_neg (by simp [hu]), if_neg (by simp [hc])]
  split
  · obtain ⟨⟨e, he, hr⟩, a1, a2, a3, a4, a5, a6⟩ := withdraw_spec hd
    refine ⟨⟨{ e with due := some ti }, by rw [drillAt_onDrill, if_pos rfl, he]; rfl, ?_⟩, fun a => by unfold memByte; rw [onDrill_mem]; exact a3 a⟩
    dsimp only; rw [hr]; exact ⟨hu, rfl, rfl, rfl, rfl, rfl, rfl⟩
  · exact ⟨⟨{ d with due := some ti }, by rw [drillAt_putDrill, if_pos rfl], hu, rfl, rfl, rfl, rfl, rfl, rfl⟩, fun a => rfl⟩
/-- A trap with nothing outstanding enters at once. -/
theorem raise_clear {s : State} {slot : Nat} {d : Drill} {ti : TrapInfo} (hd : drillAt s slot = some d) (hu : d.super = false) (hc : trapClear s slot d = true) : raise s slot ti = enterTrap s slot ti 0 := by
  unfold raise; rw [hd]; dsimp only; rw [if_neg (by simp [hu]), if_pos hc]

end Sys2Proof.Machine
end

