-- ==== Sys2Proof/Tests/Slice0.lean ====
section
/-!
SUPPORT. Tests. For every statement with hypotheses, `wit_<Name>` shows states and operands that meet them, clause by clause; `test_ill_formed_…`
are words that WellFormed refuses, `test_decode_…` words written out from the encoding tables of the spec, and the last section the spec's worked
cases. -/
set_option Elab.async false

namespace Sys2Proof.Tests
open Sys2Proof.Machine

/-! ## Small states -/

/-- A drill of job 1 at the head of its sections. -/
def dr : Drill :=
  { job := 1, bed := 5, live := 0xFFFFFFFF, budget := 31, pc := 0x10000, sbase := 0x10000, slim := 0x20000, lbase := 0x20000, llim := 0x30000,
    g := [(5, 7), (6, 9)], user := { splits := [(0, { state := 2, pc := 0x20000, em := 0xFFFFFFFF, sm := 0xFFFFFFFF })] } }
/-- Translations of job 1 on core 0: a private page at 0x40000 and a shared one at 0x50000, both HBM. -/
def tPrivate : Trans := { job := 1, page := 4, shift := 16, block := 4, word1 := 0x200000000004003C, frame := 0x40000 }
def tShared : Trans := { tPrivate with page := 5, block := 5, frame := 0x50000, word1 := 0x300000000005003C }
/-- Drill d in slot 0. -/
def home (d : Drill) : State :=
  { drills := [(0, d)], objs := [(5, { lvl := 0, job := 1, die := 0, up := 4 })], jobs := [(1, { rootOk := true, tvec := 0x18000, quota := 2 })],
    cores := [(0, { tcache := [tPrivate, tShared] })] }

/-- The conditions of StemIssues, as a computation. -/
def stemOk (p : StemPlan) (s : State) (d : Drill) : Bool :=
  decide (drillAt s s.cur = some d) && (objAt s d.bed).isSome && p.ins.wf && (!p.priv || d.super)
    && (hoseDenied d false (stemHoses p.srcs) (stemHoses p.dst.toList)).isNone && (!p.release || (releaseGate s s.cur d false).isNone)
    && hosesReady s s.cur false d (stemHoses p.srcs) (stemHoses p.dst.toList)
theorem stem_ok {p : StemPlan} {s : State} {d : Drill} (h : stemOk p s d = true) : StemIssues p s d := by
  simp only [stemOk, Bool.and_eq_true, decide_eq_true_eq, Option.isSome_iff_exists, Option.isNone_iff_eq_none, Bool.or_eq_true, Bool.not_eq_true'] at h
  obtain ⟨⟨⟨⟨⟨⟨h1, h2⟩, h3⟩, h4⟩, h5⟩, h6⟩, h7⟩ := h
  exact ⟨h1, h2, h3, fun k => h4.resolve_left (by simp [k]), h5, fun k => h6.resolve_left (by simp [k]), h7⟩
/-- The conditions of LeafIssues, as a computation. -/
def leafOk (p : LeafPlan) (h : Shape) (s : State) (d : Drill) : Bool :=
  decide (drillAt s s.cur = some d) && (objAt s d.bed).isSome && wfLeaf p.op p.w && !p.late s && decide (leafShape p.op p.w = some h) && !overBudget p.w h d.budget
    && (hoseDenied d true (srcHoses (leafSrcs p.op p.w h)) (leafPushes p.op p.w h)).isNone && (!p.release || (releaseGate s s.cur d true).isNone)
    && hosesReady s s.cur true d (srcHoses (leafSrcs p.op p.w h)) (leafPushes p.op p.w h)
theorem leaf_ok {p : LeafPlan} {h : Shape} {s : State} {d : Drill} (k : leafOk p h s d = true) : LeafIssues p h s d := by
  simp only [leafOk, Bool.and_eq_true, decide_eq_true_eq, Option.isSome_iff_exists, Option.isNone_iff_eq_none, Bool.or_eq_true, Bool.not_eq_true'] at k
  obtain ⟨⟨⟨⟨⟨⟨⟨⟨h1, h2⟩, h3⟩, h4⟩, h5⟩, h6⟩, h7⟩, h8⟩, h9⟩ := k
  exact ⟨h1, h2, h3, h4, h5, h6, h7, fun k => h8.resolve_left (by simp [k]), h9⟩

/-- Whether a result is one and not an error. -/
def isOk {α β : Type} (x : Except α β) : Bool := match x with | .ok _ => true | .error _ => false
theorem is_ok {α β : Type} {x : Except α β} (h : isOk x = true) : ∃ y, x = .ok y := by cases x with | ok y => exact ⟨y, rfl⟩ | error e => simp [isOk] at h
theorem is_error {α β γ : Type} {x : Except (α × β) γ} (h : isOk x = false) : ∃ c a, x = .error (c, a) := by cases x with | ok y => simp [isOk] at h | error e => exact ⟨e.1, e.2, rfl⟩

/-! ## Witnesses: the hypotheses of the statements, met by a state and operands -/

theorem wit_StemIntegerResults : ∃ gd srcs f, intRow (.add 4 5 6) = some (gd, srcs, f) ∧ StemIssues { ins := .add 4 5 6, srcs, dst := some gd } (home dr) dr :=
  ⟨_, _, _, rfl, stem_ok (by decide +kernel)⟩
theorem wit_StemCompletion : drillAt (home dr) 0 = some dr ∧ ∃ o, objAt (home dr) dr.bed = some o := ⟨rfl, _, rfl⟩
/-- A branch that falls through, one that is taken, and one whose target lies outside the section. -/
theorem wit_StemBranches : (∃ c, branchRow (.bne 5 5 1) = some (5, 5, 1, c) ∧ StemIssues { ins := .bne 5 5 1, srcs := [5, 5], ctl := true } (home dr) dr ∧ c 7 7 = false) ∧
    (∃ c, branchRow (.beq 5 5 1) = some (5, 5, 1, c) ∧ StemIssues { ins := .beq 5 5 1, srcs := [5, 5], ctl := true } (home dr) dr ∧ c 7 7 = true ∧ stemTargetOk (home dr) dr 0x10004 = true) ∧
    ∃ c, branchRow (.beq 5 5 0xFFF) = some (5, 5, 0xFFF, c) ∧ StemIssues { ins := .beq 5 5 0xFFF, srcs := [5, 5], ctl := true } (home dr) dr ∧ c 7 7 = true ∧
      stemTargetOk (home dr) dr 0xFFFC = false :=
  ⟨⟨_, rfl, stem_ok (by decide +kernel), by decide⟩, ⟨_, rfl, stem_ok (by decide +kernel), by decide, by decide⟩, _, rfl, stem_ok (by decide +kernel), by decide, by decide⟩
theorem wit_StemJumps : (∃ f, jumpRow (.call 1) = some ([], some 47, f) ∧ StemIssues { ins := .call 1, srcs := [], dst := some 47, ctl := true } (home dr) dr ∧
      stemTargetOk (home dr) dr (f (dr.pc.setWidth 64) 0).toNat = true) ∧
    ∃ f, jumpRow (.jmp 0xFFFFFF) = some ([], none, f) ∧ StemIssues { ins := .jmp 0xFFFFFF, srcs := [], dst := none, ctl := true } (home dr) dr ∧
      stemTargetOk (home dr) dr (f (dr.pc.setWidth 64) 0).toNat = false :=
  ⟨⟨_, rfl, stem_ok (by decide +kernel), by decide +kernel⟩, _, rfl, stem_ok (by decide +kernel), by decide +kernel⟩
/-- An unassigned index, a register of either level, and one above the level. -/
theorem wit_StemSystemReads : StemIssues { ins := .sysr 4 0, dst := some 4 } (home dr) dr ∧ (sysRead (home dr) 0 dr 0).isSome = true ∧
    StemIssues { ins := .sysr 4 0xFFF, dst := some 4 } (home dr) dr ∧ sysRead (home dr) 0 dr 0xFFF = none ∧
    StemIssues { ins := .sysr 4 0x100, dst := some 4 } (home dr) dr ∧ (sysRead (home dr) 0 dr 0x100).isSome = true ∧ dr.super = false :=
  ⟨stem_ok (by decide +kernel), by decide +kernel, stem_ok (by decide +kernel), by decide +kernel, stem_ok (by decide +kernel), by decide +kernel, rfl⟩
theorem wit_StemSystemWrites : StemIssues { ins := .sysw 5 0, srcs := [5] } (home dr) dr ∧ sysMayWrite false 0 = true ∧ (∃ y, sysAfter dr 0 7 = some y) ∧
    StemIssues { ins := .sysw 5 0x100, srcs := [5] } (home dr) dr ∧ sysMayWrite false 0x100 = false ∧ (sysRead (home dr) 0 dr 0x100).isSome = true ∧
    StemIssues { ins := .sysw 5 0xFFF, srcs := [5] } (home dr) dr ∧ sysRead (home dr) 0 dr 0xFFF = none :=
  ⟨stem_ok (by decide +kernel), by decide, ⟨_, rfl⟩, stem_ok (by decide +kernel), by decide, by decide +kernel, stem_ok (by decide +kernel), by decide +kernel⟩

/-- LWAIT with the leaf idle and with a routine queued, YIELD, EXIT, and HCNT and HTRY of a hose that is mapped and of one that is not. -/
theorem wit_StemStatusWords :
    (let d := { dr with user := {} }
     StemIssues { ins := .lwait } (home d) d ∧ lqstat (leafCtx d) = 0) ∧
    (StemIssues { ins := .lwait } (home dr) dr ∧ lqstat (leafCtx dr) ≠ 0) ∧ StemIssues { ins := .yield } (home dr) dr ∧
    (StemIssues { ins := .exit } (home dr) dr ∧ stemTargetOk (home dr) dr dr.pc.toNat = true) ∧
    (let d := { dr with hmap := 1 }
     StemIssues { ins := .hcnt 4 0, dst := some 4 } (home d) d ∧ StemIssues { ins := .htry 4 0, dst := some 4 } (home d) d ∧ hoseCode d 0 ≠ 0) ∧
    (StemIssues { ins := .hcnt 4 31, dst := some 4 } (home dr) dr ∧ StemIssues { ins := .htry 4 31, dst := some 4 } (home dr) dr ∧ hoseCode dr 31 = 0) :=
  ⟨⟨stem_ok (by decide +kernel), by decide⟩, ⟨stem_ok (by decide +kernel), by decide⟩, stem_ok (by decide +kernel), ⟨stem_ok (by decide +kernel), by decide +kernel⟩,
    ⟨stem_ok (by decide +kernel), stem_ok (by decide +kernel), by decide +kernel⟩, ⟨stem_ok (by decide +kernel), stem_ok (by decide +kernel), by decide +kernel⟩⟩
/-- A store of slot 0 on its way to the hub. -/
def onWay : PendStore := { slot := 0, cl := 0, line := 0xA00, bytes := 0xFF, data := 0, dt := 0 }
theorem wit_StemFences : (StemIssues { ins := .fence 3 0, release := true } (home dr) dr ∧ releaseWait (home dr) 0 3 = false) ∧
    (StemIssues { ins := .fence 5 2, release := true } { home dr with stores := [(0, onWay)] } dr ∧ releaseWait { home dr with stores := [(0, onWay)] } 0 5 = true) ∧
    StemIssues { ins := .fence 0 1, release := false } (home dr) dr :=
  ⟨⟨stem_ok (by decide +kernel), by decide +kernel⟩, ⟨stem_ok (by decide +kernel), by decide +kernel⟩, stem_ok (by decide +kernel)⟩
/-- An entry at the last place of the leaf section, one past it, and a full queue. -/
theorem wit_StemLeafLaunch : (StemIssues { ins := .lrun 0 0, srcs := [0] } (home dr) dr ∧ (leafCtx dr).queue.length < 4) ∧
    (StemIssues { ins := .lrun 0 5462, srcs := [0] } (home dr) dr ∧ ¬(0x20000 + 12 * ((gGet dr 0).toNat + 5462) < dr.llim.toNat)) ∧
    (let d := { dr with user := { queue := List.replicate 4 { entry := 0x20000, regs := [], fmode := 0, clo := [] } } }
     StemIssues { ins := .lrun 0 0, srcs := [0] } (home d) d ∧ 4 ≤ (leafCtx d).queue.length) :=
  ⟨⟨stem_ok (by decide +kernel), by decide⟩, ⟨stem_ok (by decide +kernel), by decide⟩, ⟨stem_ok (by decide +kernel), by decide⟩⟩

/-! Bench words: g5 is the own core's bench address of its offset 8 · k. -/

/-- A drill whose g5 names offset o of its own bench. -/
def onBench (o : Nat) : Drill := { dr with g := [(5, BitVec.ofNat 64 (0x1800000 + o)), (6, 9)] }
theorem bench_ready {s : State} {d : Drill} {ea n al core off : Nat} (h1 : benchPlace s s.cur ea = some (core, off)) (h2 : benchIn s s.cur ea n = true) (h3 : ea % al = 0)
    (h4 : (match benchFills s s.cur d.super core off n with | .ok u => decide (u = s) | .error _ => false) = true) : BenchReady s d ea n al core off s := by
  refine ⟨h1, h2, h3, ?_⟩
  revert h4
  cases benchFills s s.cur d.super core off n <;> simp
/-- Loads and stores at the last bytes of the bench, with and without poison; an address past it; a misaligned one; a bench without a map. -/
theorem wit_StemBenchWords :
    (let d := onBench 0x2FFF8
     StemIssues { ins := .ldbI64 4 5 3 0, srcs := [5], dst := some 4, la := 3 } (home d) d ∧ BenchReady (home d) d 0x182FFF8 8 8 0 0x2FFF8 (home d) ∧ benchPoison (home d) 0 0x2FFF8 8 = none ∧
     StemIssues { ins := .stbI64 6 5 0, srcs := [5, 6] } (home d) d) ∧
    (let d := onBench 0
     let s := { home d with cores := [(0, { benchPsn := [0] })] }
     StemIssues { ins := .ldbN32 4 5 0 0, srcs := [5], dst := some 4, la := 0 } s d ∧ BenchReady s d 0x1800000 4 4 0 0 s ∧ benchPoison s 0 0 4 = some 0) ∧
    (let d := onBench 0x30000
     StemIssues { ins := .stbI32 6 5 0, srcs := [5, 6] } (home d) d ∧ benchPlace (home d) 0 0x1830000 = none) ∧
    (let d := onBench 4
     StemIssues { ins := .bart 4 5 6, srcs := [5, 6], dst := some 4 } (home d) d ∧ (benchPlace (home d) 0 0x1800004).isSome = true ∧ benchIn (home d) 0 0x1800004 8 = true ∧ 0x1800004 % 8 ≠ 0) ∧
    (∀ t, benchMapOf (home dr) 0 (t * 2048) = none) :=
  ⟨⟨stem_ok (by decide +kernel), bench_ready (by decide +kernel) (by decide +kernel) (by decide) (by decide +kernel), by decide +kernel, stem_ok (by decide +kernel)⟩,
    ⟨stem_ok (by decide +kernel), bench_ready (by decide +kernel) (by decide +kernel) (by decide) (by decide +kernel), by decide +kernel⟩,
    ⟨stem_ok (by decide +kernel), by decide +kernel⟩, ⟨stem_ok (by decide +kernel), by decide +kernel, by decide +kernel, by decide⟩, fun _ => rfl⟩
/-- A barrier word at offset 16 of the bench that holds x. -/
def barHome (d : Drill) (x : Nat) : State := { home d with cores := [(0, { bench := cellsWrite [] 16 8 x })] }
/-- The four barrier words; an arrival that ends the phase while a drill is parked on the word, one that does not; a wait that returns, and one that parks. -/
theorem wit_BarrierWords :
    (let d := onBench 16
     let s := barHome d 0x0000100000000000
     BenchReady s d 0x1800010 8 8 0 16 s ∧ benchPoison s 0 16 8 = none ∧ StemIssues { ins := .bari 4 5 6, srcs := [5, 6], dst := some 4, release := true } s d ∧
     StemIssues { ins := .bara 4 5 6, srcs := [5, 6], dst := some 4, release := true } s d ∧ (arrival (barOf (benchRead s 0 16 8)) 1).ph ≠ (barOf (benchRead s 0 16 8)).ph ∧
     StemIssues { ins := .bart 4 5 6, srcs := [5, 6], dst := some 4 } s d ∧ StemIssues { ins := .barw 4 5 0, srcs := [5, 0], dst := some 4 } s d ∧ d.wake = false ∧
     (barOf (benchRead s 0 16 8)).ph = false ∧ (barOf (benchRead s 0 16 8)).err = false ∧ (barOf (benchRead s 0 16 8)).exp ≠ 0) ∧
    (let d := onBench 16
     let s := barHome d 0
     BenchReady s d 0x1800010 8 8 0 16 s ∧ benchPoison s 0 16 8 = none ∧ (arrival (barOf (benchRead s 0 16 8)) 1).ph = (barOf (benchRead s 0 16 8)).ph ∧
     StemIssues { ins := .barw 4 5 6, srcs := [5, 6], dst := some 4 } s d ∧ (barOf (benchRead s 0 16 8)).exp = 0 ∧ (barOf (benchRead s 0 16 8)).tt = 0) :=
  ⟨⟨bench_ready (by decide +kernel) (by decide +kernel) (by decide) (by decide +kernel), by decide +kernel, stem_ok (by decide +kernel), stem_ok (by decide +kernel), by decide +kernel,
      stem_ok (by decide +kernel), stem_ok (by decide +kernel), rfl, by decide +kernel, by decide +kernel, by decide +kernel⟩,
    ⟨bench_ready (by decide +kernel) (by decide +kernel) (by decide) (by decide +kernel), by decide +kernel, by decide +kernel, stem_ok (by decide +kernel), by decide +kernel, by decide +kernel⟩⟩

/-! ## Memory words: g5 is an address; the access of the stem to its tile is admitted. -/

/-- A drill whose g5 is an address, its stem access to that tile admitted. -/
def atMem (a : Nat) : Drill := { dr with g := [(5, BitVec.ofNat 64 a), (6, 9)], granted := [(false, a / 2048)] }
/-- Its page's copy of a line: a shared copy under a lease up to DT 10, or a private one. -/
def withCopy (d : Drill) (line : Nat) (c : LineCopy) : State := { home d with clusters := [(0, { tiles := [(line / 16, { pos := 0, lines := [(line, c)] })] })] }
/-- The conditions of Reaches, as a computation. -/
def reachOk (s : State) (d : Drill) (k : Kind) (leaf : Bool) (ea n pa : Nat) (shr : Bool) : Bool :=
  decide (ea < 2 ^ 56) && decide (ea % n = 0) && (match translate s s.cur d k leaf ea with
    | .hit p tr => decide (p = pa) && (match placeOf s s.cur pa tr (decide (k = .store)) with | .at u q b => decide (u = s) && decide (q = pa) && decide (b = shr) | _ => false)
    | _ => false) && decide (pa % n = 0) && !inHubWindow pa && decide (tierOf pa ≠ some 3) && !d.got.any (fun g => decide (g.leaf = leaf)) && decide ((leaf, pa / 2048) ∈ d.granted)
    && (match (clAt s (clusterOf s.cur)).order.find? (fun o => decide (o.2.2 = pa / 2048)) with | some o => decide (o = (s.cur, leaf, pa / 2048)) | none => true)
theorem reach_ok {s : State} {d : Drill} {k : Kind} {leaf : Bool} {ea n pa : Nat} {shr : Bool} (h : reachOk s d k leaf ea n pa shr = true) : Reaches s d k leaf ea n pa shr := by
  simp only [reachOk, Bool.and_eq_true, decide_eq_true_eq, Bool.not_eq_true'] at h
  obtain ⟨⟨⟨⟨⟨⟨⟨⟨h1, h2⟩, h3⟩, h4⟩, h5⟩, h6⟩, h7⟩, h8⟩, h9⟩ := h
  refine ⟨h1, h2, ?_, h4, ⟨h5, h6⟩, h7, h8, ?_⟩
  · revert h3
    cases translate s s.cur d k leaf ea with
    | hit p tr =>
      intro h3
      simp only [Bool.and_eq_true, decide_eq_true_eq] at h3
      obtain ⟨rfl, h3⟩ := h3
      refine ⟨tr, rfl, ?_⟩
      revert h3
      cases placeOf s s.cur p tr (decide (k = .store)) <;> simp +contextual
    | _ => simp
  · intro o ho
    rw [ho] at h9
    simpa using h9

/-- A load of a private page with no tile, and with its sector poisoned; an acquire of a shared line under a lease that ends at DT + 1. -/
theorem wit_StemLoads :
    (let d := atMem 0x40000
     ∃ sg aq, loadRow (.ldI8 4 5 2 0 0) = some (4, 5, 2, 0, 1, sg, aq) ∧ StemIssues { ins := .ldI8 4 5 2 0 0, srcs := [5], dst := some 4, la := 2 } (home d) d ∧
      Reaches (home d) d .load false 0x40000 1 0x40000 false ∧ Readable (home d) 0 0x40000 1 false 0 ∧ clusterPoison (home d) 0 0x40000 = false) ∧
    (let d := atMem 0x40000
     let s := withCopy d 0x800 { have' := BitVec.allOnes 128, psn := 1 }
     Reaches s d .load false 0x40000 1 0x40000 false ∧ Readable s 0 0x40000 1 false 0 ∧ clusterPoison s 0 0x40000 = true) ∧
    (let d := { atMem 0x507F8 with dt := 9 }
     let s := withCopy d 0xA0F { have' := BitVec.allOnes 128, shared := true, rts := 10 }
     ∃ sg aq, loadRow (.ldaI64 4 5 0 3 0) = some (4, 5, 0, 0, 8, sg, aq) ∧ aq = true ∧ StemIssues { ins := .ldaI64 4 5 0 3 0, srcs := [5], dst := some 4, la := 0 } s d ∧
      Reaches s d .load false 0x507F8 8 0x507F8 true ∧ Readable s 0 0x507F8 8 true (d.dt + 1) ∧ clusterPoison s 0 0x507F8 = false) :=
  ⟨⟨_, _, rfl, stem_ok (by decide +kernel), reach_ok (by decide +kernel), .inl rfl, by decide +kernel⟩,
    ⟨reach_ok (by decide +kernel), .inr ⟨_, rfl, by decide +kernel⟩, by decide +kernel⟩,
    ⟨_, _, rfl, rfl, stem_ok (by decide +kernel), reach_ok (by decide +kernel), .inr ⟨_, rfl, by decide +kernel⟩, by decide +kernel⟩⟩
/-- LDC on a line whose lease has run out, with places for an entry left, and with none. -/
theorem wit_StemStaleLoads :
    let d := { atMem 0x50008 with dt := 5 }
    let s := withCopy d 0xA00 { have' := BitVec.allOnes 128, shared := true, wts := 3, rts := 4 }
    let u := { s with cores := [(0, { tcache := [tShared], cloche := (below 32).map (fun i => (i, { state := 2 })) })], clusters := [(0, { clAt s 0 with order := [(0, false, 0xA0)] })] }
    (StemIssues { ins := .ldcI64 4 5 1 0, srcs := [5], dst := some 4, la := 1 } s d ∧ Reaches s d .load false 0x50008 8 0x50008 true ∧
      (∃ y, copyAt s 0 0xA00 = some y ∧ y.have' ≠ 0 ∧ y.rts < d.dt ∧ maskIn (byteMask 8 8) y.pend = false) ∧ tierOf 0x50000 ≠ some 2 ∧
      (clEntries s 0).length < 32 ∧ clusterPoison s 0 0x50008 = false) ∧
    (StemIssues { ins := .ldcI64 4 5 1 0, srcs := [5], dst := some 4, la := 1 } u d ∧ Reaches u d .load false 0x50008 8 0x50008 true ∧ copyAt u 0 0xA00 = copyAt s 0 0xA00 ∧
      32 ≤ (clEntries u 0).length ∧ (0, false, 0x50008 / 2048) ∈ (clAt u 0).order ∧ (clEntries u 0).any (fun e => decide (e.2.state = 1)) = false) :=
  ⟨⟨stem_ok (by decide +kernel), reach_ok (by decide +kernel), ⟨_, rfl, by decide +kernel, by decide, by decide +kernel⟩, by decide +kernel, by decide +kernel, by decide +kernel⟩,
    stem_ok (by decide +kernel), reach_ok (by decide +kernel), rfl, by decide +kernel, by decide +kernel, by decide +kernel⟩
/-- A store to a private page, a release to a shared one, and a release that waits for the stamp of an earlier store. -/
theorem wit_StemStores :
    (let d := atMem 0x40000
     storeRow (.stI16 6 5 0 0) = some (6, 5, 0, 2, none) ∧ StemIssues { ins := .stI16 6 5 0 0, srcs := [5, 6], release := false } (home d) d ∧ Reaches (home d) d .store false 0x40000 2 0x40000 false) ∧
    (let d := atMem 0x50000
     storeRow (.stlI64 6 5 3 0) = some (6, 5, 0, 8, some 3) ∧ StemIssues { ins := .stlI64 6 5 3 0, srcs := [5, 6], release := true } (home d) d ∧ Reaches (home d) d .store false 0x50000 8 0x50000 true ∧
      releaseWait (home d) 0 3 = false) ∧
    (let d := atMem 0x50000
     let s := { home d with stores := [(0, onWay)] }
     StemIssues { ins := .stlI64 6 5 3 0, srcs := [5, 6], release := true } s d ∧ Reaches s d .store false 0x50000 8 0x50000 true ∧ begun d false = false ∧ releaseWait s 0 3 = true) :=
  ⟨⟨rfl, stem_ok (by decide +kernel), reach_ok (by decide +kernel)⟩, ⟨rfl, stem_ok (by decide +kernel), reach_ok (by decide +kernel), by decide +kernel⟩,
    stem_ok (by decide +kernel), reach_ok (by decide +kernel), by decide +kernel, by decide +kernel⟩
/-- An atomic in its cluster; one of die scope on a shared page that goes out; and its answer. -/
theorem wit_StemAtomics :
    (let d := atMem 0x40000
     ∃ f, amoRow (.amoAdd 4 5 6 1 1) = some (4, 5, 6, 1, 1, f) ∧ StemIssues { ins := .amoAdd 4 5 6 1 1, srcs := [5, 6], dst := some 4 } (home d) d ∧ Reaches (home d) d .store false 0x40000 8 0x40000 false ∧
      (jobAt (home d) d.job).replay = .free ∧ Readable (home d) 0 0x40000 8 false 0 ∧ clusterPoison (home d) 0 0x40000 = false) ∧
    (let d := atMem 0x50000
     ∃ f, amoRow (.cas 4 5 6 3 0) = some (4, 5, 6, 3, 0, f) ∧ StemIssues { ins := .cas 4 5 6 3 0, srcs := [5, 6, 4], dst := some 4 } (home d) d ∧ Reaches (home d) d .store false 0x50000 4 0x50000 true ∧
      remoteOf (home d) 0 false 0 = none ∧ lineStoresOut (home d) 0 0xA00 = false) ∧
    (let d := atMem 0x50000
     let r : Remote := { slot := 0, leaf := false, kind := 0, pa := 0x50000, size := 4, answer := some (7, false) }
     let s := { home d with remotes := [(3, r)] }
     StemIssues { ins := .cas 4 5 6 3 0, srcs := [5, 6, 4], dst := some 4 } s d ∧ Reaches s d .store false 0x50000 4 0x50000 true ∧ remoteOf s 0 false 0 = some (3, r) ∧ r.answer = some (7, false)) :=
  ⟨⟨_, rfl, stem_ok (by decide +kernel), reach_ok (by decide +kernel), rfl, .inl rfl, by decide +kernel⟩, ⟨_, rfl, stem_ok (by decide +kernel), reach_ok (by decide +kernel), rfl, rfl⟩,
    stem_ok (by decide +kernel), reach_ok (by decide +kernel), rfl, rfl⟩
/-- An address of 2^56, a misaligned one, one that its translation refuses, and one with no translation at hand. -/
theorem wit_StemAddressFaults :
    (let d := atMem (2 ^ 56)
     StemIssues { ins := .ldI64 4 5 0 0 0, srcs := [5], dst := some 4 } (home d) d ∧ 2 ^ 56 ≤ stemEa (BitVec.ofNat 64 (2 ^ 56)) 0 8) ∧
    (let d := atMem 0x40004
     StemIssues { ins := .stI64 6 5 0 0, srcs := [5, 6] } (home d) d ∧ stemEa 0x40004 0 8 = 0x40004 ∧ 0x40004 % 8 ≠ 0) ∧
    (let d := { atMem 0x60000 with walked := [(false, 0x60, cTranslation)] }
     StemIssues { ins := .amoAdd 4 5 6 1 1, srcs := [5, 6], dst := some 4 } (home d) d ∧ translate (home d) 0 d .store false 0x60000 = .fault cTranslation) ∧
    (let d := atMem 0x60000
     StemIssues { ins := .ldI64 4 5 0 0 0, srcs := [5], dst := some 4 } (home d) d ∧ translate (home d) 0 d .load false 0x60000 = .miss) :=
  ⟨⟨stem_ok (by decide +kernel), by decide +kernel⟩, ⟨stem_ok (by decide +kernel), by decide +kernel, by decide⟩, ⟨stem_ok (by decide +kernel), rfl⟩, stem_ok (by decide +kernel), rfl⟩

/-! ## Cloche, Tendril, engines -/

/-- A core that holds these cloche entries. -/
def withCloche (d : Drill) (l : Tab ClEntry) : State := { home d with cores := [(0, { tcache := [tPrivate, tShared], cloche := l })] }
/-- CHK with an unresolved entry, with a struck one and a target inside or outside the section, and with none; CLDROP of a line, of all, and of an address that fails. -/
theorem wit_StemClocheWords :
    (let s := withCloche dr [(1, { line := 0xA00 })]
     StemIssues { ins := .chk 1, ctl := true } s dr ∧ (clEntries s 0).any (fun e => decide (e.2.state = 1)) = true) ∧
    (let s := withCloche dr [(1, { line := 0xA00, state := 2 })]
     StemIssues { ins := .chk 1, ctl := true } s dr ∧ (clEntries s 0).any (fun e => decide (e.2.state = 1)) = false ∧ (clEntries s 0).any (fun e => decide (e.2.state = 2)) = true ∧
      stemTargetOk s dr 0x10004 = true ∧ StemIssues { ins := .chk 0xFFFFFF, ctl := true } s dr ∧ stemTargetOk s dr 0xFFFC = false) ∧
    (StemIssues { ins := .chk 1, ctl := true } (home dr) dr ∧ clEntries (home dr) 0 = []) ∧
    (let d := atMem 0x50008
     StemIssues { ins := .cldrop 5, srcs := [5] } (home d) d ∧ ∃ pa tr, translateNow (home d) 0 d.job d.super .load 0x50008 = (.hit pa tr, home d)) ∧
    (let d := { dr with g := [(5, 0x100000000000000)] }
     StemIssues { ins := .cldrop 5, srcs := [5] } (home d) d ∧ 2 ^ 56 ≤ (0x100000000000000 : Word).toNat) ∧
    (let d := atMem 0x80000000000000
     StemIssues { ins := .cldrop 5, srcs := [5] } (home d) d ∧ ∃ c, translateNow (home d) 0 d.job d.super .load 0x80000000000000 = (.fault c, home d)) :=
  ⟨⟨stem_ok (by decide +kernel), by decide +kernel⟩, ⟨stem_ok (by decide +kernel), by decide +kernel, by decide +kernel, by decide +kernel, stem_ok (by decide +kernel), by decide +kernel⟩,
    ⟨stem_ok (by decide +kernel), by decide +kernel⟩, ⟨stem_ok (by decide +kernel), _, _, rfl⟩, ⟨stem_ok (by decide +kernel), by decide⟩, stem_ok (by decide +kernel), _, rfl⟩
/-- CLSAVE of one entry; CLREST of an empty block, of one that breaks its form, and with entries still held. -/
theorem wit_StemClocheSaves :
    let d := { onBench 0 with super := true }
    let s := withCloche d [(1, { line := 0xA00, wts := 7 })]
    let u := { home d with cores := [(0, { bench := [(0, 0x40)] })] }
    (BenchReady s d 0x1800000 528 16 0 0 s ∧ StemIssues { ins := .clsave 5, srcs := [5], priv := true } s d ∧ (clEntries s 0).length ≤ 32 ∧
      (∀ e ∈ clEntries s 0, e.2.ctx < 16 ∧ e.2.line < 2 ^ 45 ∧ e.2.wts < 2 ^ 48)) ∧
    (BenchReady (home d) d 0x1800000 528 16 0 0 (home d) ∧ StemIssues { ins := .clrest 5, srcs := [5], priv := true } (home d) d ∧ benchPoison (home d) 0 0 528 = none ∧
      benchRead (home d) 0 0 528 = 0 ∧ clEntries (home d) 0 = [] ∧ (coreAt (home d) 0).cloche.length ≤ 128) ∧
    (BenchReady u d 0x1800000 528 16 0 0 u ∧ StemIssues { ins := .clrest 5, srcs := [5], priv := true } u d ∧ bitsOf (benchRead u 0 0 528) 6 2 ≠ 0) ∧
    (StemIssues { ins := .clrest 5, srcs := [5], priv := true } s d ∧ benchRead s 0 0 528 = 0 ∧ clEntries s 0 ≠ []) :=
  ⟨⟨bench_ready (by decide +kernel) (by decide +kernel) (by decide) (by decide +kernel), stem_ok (by decide +kernel), by decide +kernel, by decide +kernel⟩,
    ⟨bench_ready (by decide +kernel) (by decide +kernel) (by decide) (by decide +kernel), stem_ok (by decide +kernel), by decide +kernel, by decide +kernel, by decide +kernel, by decide +kernel⟩,
    ⟨bench_ready (by decide +kernel) (by decide +kernel) (by decide) (by decide +kernel), stem_ok (by decide +kernel), by decide +kernel⟩,
    stem_ok (by decide +kernel), by decide +kernel, by decide +kernel⟩
/-- A Tendril word before its access, with its answer, in a hub window, and at an address that fails. -/
theorem wit_StemTendrilWords :
    (let d := { atMem 0x50000 with granted := [] }
     (∃ off, tendrilRow (.tdist 4 5 0 0) = some (some 4, 5, 0, 0, 1, off)) ∧ StemIssues { ins := .tdist 4 5 0 0, srcs := [5], dst := some 4 } (home d) d ∧
      (∃ tr, translate (home d) 0 d .load false 0x50000 = .hit 0x50000 tr) ∧ neverCached 0x50000 = false ∧ d.got = [] ∧ (false, 0xA0) ∉ d.asked) ∧
    (let g : Got := { leaf := false, tile := 0xA0, vals := [(0, (3, none))] }
     let d := { atMem 0x50000 with got := [g] }
     (∃ off, tendrilRow (.tstake 4 5 0) = some (some 4, 5, 0, 0, 2, off)) ∧ StemIssues { ins := .tstake 4 5 0, srcs := [5], dst := some 4 } (home d) d ∧
      d.got.find? (fun g => decide (g.leaf = false ∧ g.tile = 0x50000 / 2048)) = some g ∧ tabFind g.vals 0 = some (3, none)) ∧
    (let d := atMem 0x70000
     let t := { tShared with page := 7, block := 7, frame := hubBase, word1 := 0x100000000000003C }
     let s := { home d with cores := [(0, { tcache := [t] })] }
     StemIssues { ins := .ttouch 5 0, srcs := [5], dst := none } s d ∧ translate s 0 d .load false 0x70000 = .hit hubBase t ∧ neverCached hubBase = true) ∧
    (let d := atMem (2 ^ 56)
     StemIssues { ins := .tunstake 4 5 0, srcs := [5], dst := some 4 } (home d) d ∧ 2 ^ 56 ≤ stemEa (BitVec.ofNat 64 (2 ^ 56)) 0 8) ∧
    (let d := { atMem 0x60000 with walked := [(false, 0x60, cTranslation)] }
     StemIssues { ins := .tdist 4 5 0 0, srcs := [5], dst := some 4 } (home d) d ∧ ∃ c, translate (home d) 0 d .load false 0x60000 = .fault c) :=
  ⟨⟨⟨_, rfl⟩, stem_ok (by decide +kernel), ⟨_, rfl⟩, by decide +kernel, rfl, by decide⟩, ⟨⟨_, rfl⟩, stem_ok (by decide +kernel), rfl, rfl⟩,
    ⟨stem_ok (by decide +kernel), by decide +kernel, by decide +kernel⟩, ⟨stem_ok (by decide +kernel), by decide +kernel⟩, stem_ok (by decide +kernel), _, rfl⟩
/-- A supervisor whose g5 asks for n units of bench share. -/
def asks (n : Nat) : Drill := { dr with super := true, g := [(5, BitVec.ofNat 64 n)] }
/-- A share out of range, the present one, one more (free, mapped, or in use by a copy), and one less. -/
theorem wit_StemBenchShare : (StemIssues { ins := .bresize 4 5, srcs := [5], dst := some 4, priv := true } (home (asks 8)) (asks 8) ∧ 7 < 8) ∧
    (StemIssues { ins := .bresize 4 5, srcs := [5], dst := some 4, priv := true } (home (asks 5)) (asks 5) ∧ (coreAt (home (asks 5)) 0).lend = 5 ∧ (clAt (home (asks 5)) 0).wback = []) ∧
    (StemIssues { ins := .bresize 4 5, srcs := [5], dst := some 4, priv := true } (home (asks 6)) (asks 6) ∧ (coreAt (home (asks 6)) 0).lend < 6 ∧ (coreAt (home (asks 6)) 0).bmap = [] ∧
      offsetsInUse (home (asks 6)) 0 0x20000 0x30000 = false) ∧
    (let s := { home (asks 7) with cores := [(0, { bmap := [(0, { off := 0x2F800, len := 2048, va := 0, job := 1 })] })] }
     StemIssues { ins := .bresize 4 5, srcs := [5], dst := some 4, priv := true } s (asks 7) ∧ (coreAt s 0).bmap.any (fun b => decide (b.2.off < 0x30000 ∧ 0x10000 < b.2.off + b.2.len)) = true) ∧
    (let c : CopyCmd := { slot := 0, cls := 0, op := 3, dst := 0x800000000182F000, len := 64 }
     let s := { home (asks 6) with clusters := [(0, { engines := [(0, [c])] })] }
     StemIssues { ins := .bresize 4 5, srcs := [5], dst := some 4, priv := true } s (asks 6) ∧ offsetsInUse s 0 0x20000 0x30000 = true) ∧
    (StemIssues { ins := .bresize 4 5, srcs := [5], dst := some 4, priv := true } (home (asks 1)) (asks 1) ∧ 1 < (coreAt (home (asks 1)) 0).lend) :=
  ⟨⟨stem_ok (by decide +kernel), by decide⟩, ⟨stem_ok (by decide +kernel), rfl, rfl⟩, ⟨stem_ok (by decide +kernel), by decide, rfl, by decide +kernel⟩, ⟨stem_ok (by decide +kernel), by decide⟩,
    ⟨stem_ok (by decide +kernel), by decide +kernel⟩, stem_ok (by decide +kernel), by decide⟩
/-- A shootdown at cluster scope, at die scope with a store on its way, and with nothing on its way. -/
theorem wit_StemShootdowns :
    let d := { dr with super := true }
    (StemIssues { ins := .shoot 5 6 2, srcs := [5, 6], priv := true } (home d) d ∧ (home d).shoots.find? (fun x => decide (x.2.slot = 0)) = none ∧ releaseWait (home d) 0 2 = false) ∧
    (StemIssues { ins := .shoot 5 0 3, srcs := [5, 0], priv := true } { home d with stores := [(0, onWay)] } d ∧ releaseWait { home d with stores := [(0, onWay)] } 0 3 = true) ∧
    (StemIssues { ins := .shoot 5 0 5, srcs := [5, 0], priv := true } (home d) d ∧ releaseWait (home d) 0 5 = false ∧ ∀ q, q ∈ (home d).stores → False) :=
  ⟨⟨stem_ok (by decide +kernel), rfl, by decide +kernel⟩, ⟨stem_ok (by decide +kernel), by decide +kernel⟩, stem_ok (by decide +kernel), by decide +kernel, by simp [home]⟩
/-- A copy between bench and virtual memory whose ranges pass, and one whose bench range fails. -/
theorem wit_StemCopies :
    (let d := { dr with g := [(5, 0x8000000001800000), (6, 0x40000), (7, 64)] }
     ∃ c l, copyRow (home d) d (.xlin 7 5 6) = some ([5, 6, 7], c, l) ∧ StemIssues { ins := .xlin 7 5 6, srcs := [5, 6, 7] } (home d) d ∧ ∃ u ts, rangesOk (home d) 0 d l = .ok (u, ts)) ∧
    (let d := { dr with g := [(5, 0x8000000001830000), (6, 64)] }
     ∃ c l, copyRow (home d) d (.xzero 6 5) = some ([5, 6], c, l) ∧ StemIssues { ins := .xzero 6 5, srcs := [5, 6] } (home d) d ∧ ∃ e va, rangesOk (home d) 0 d l = .error (e, va)) ∧
    (field (0x000000000004A000 : Word) 63 60 = 0 ∧ field (0x8000000001800000 : Word) 63 60 = 8 ∧ field (0x8000000001800000 : Word) 59 25 = 0 ∧ field (0xC000000000000003 : Word) 63 60 = 12 ∧
      field (0xC000000000000003 : Word) 59 2 = 0 ∧ field (0x9000000000000000 : Word) 63 60 ∉ [0, 8, 12] ∧ field (0x8000000002000000 : Word) 59 25 ≠ 0 ∧ field (0xC000000000000004 : Word) 59 2 ≠ 0) :=
  ⟨⟨_, _, rfl, stem_ok (by decide +kernel), _, _, rfl⟩, ⟨_, _, rfl, stem_ok (by decide +kernel), _, _, rfl⟩, by decide⟩

/-- Memory that holds the words x from 0x40000 on. -/
def record (x : List Nat) : List Host.Cell := cellsWrite [] 0x40000 (8 * x.length) (packFields 64 (fun i => x.getD i 0) x.length)
/-- A drill whose XSTR goes to place x under the descriptor at 0x40000 in g7. -/
def strided (x : Word) : Drill := { dr with g := [(5, x), (6, 0x44000), (7, 0x40000)] }
theorem wit_StemStridedCopies :
    (let d := { dr with g := [(5, 0x8000000001800000), (6, 0x44000), (7, 0x40008)] }
     StemIssues { ins := .xstr 7 5 6, srcs := [5, 6, 7] } (home d) d ∧ (∃ x, spaceOf 0x8000000001800000 = some x ∧ isPort x = false) ∧ 0x40008 % 32 ≠ 0) ∧
    (let d := strided 0x8000000001800000
     let s := { home d with mem := record [0x8000000080, 0x200000080, 0, 0] }
     StemIssues { ins := .xstr 7 5 6, srcs := [5, 6, 7] } s d ∧ ∃ u ts pa tr w bad, rangeOf s 0 d.job d.super .load 0x40000 32 = .ok (u, ts) ∧ viaTrans ts d.job 0x40000 = some (pa, tr) ∧ tierOf pa ≠ some 3 ∧ u.cur = 0 ∧
      sourceRun u { slot := 0, cls := 0, op := 1, job := d.job, dt := d.dt, trans := ts } (.virt 0x40000) 0x40000 32 = .ok (w, bad) ∧ bad 0 = false ∧
      bitsOf w 96 16 = 2 ∧ bitsOf w 64 24 = 128 ∧ bitsOf w 130 1 = 0 ∧ bitsOf w 112 16 = 0) ∧
    (let d := strided 0x48000
     let s := { home d with mem := record [0x8000000080, 0x200000080, 4, 0], psn := [] }
     StemIssues { ins := .xstr 7 5 6, srcs := [5, 6, 7] } s d ∧ ∃ u ts w bad, rangeOf s 0 d.job d.super .load 0x40000 32 = .ok (u, ts) ∧
      sourceRun u { slot := 0, cls := 0, op := 1, job := d.job, dt := d.dt, trans := ts } (.virt 0x40000) 0x40000 32 = .ok (w, bad) ∧ bad 0 = false ∧ bitOf w 130 = true) ∧
    (let d := strided 0x48000
     let s := { home d with psn := [0x2000] }
     ∃ u ts w bad, rangeOf s 0 d.job d.super .load 0x40000 32 = .ok (u, ts) ∧
      sourceRun u { slot := 0, cls := 0, op := 1, job := d.job, dt := d.dt, trans := ts } (.virt 0x40000) 0x40000 32 = .ok (w, bad) ∧ bad 0 = true) :=
  ⟨⟨stem_ok (by decide +kernel), ⟨_, rfl, rfl⟩, by decide⟩,
    ⟨stem_ok (by decide +kernel), _, _, _, _, _, _, rfl, rfl, by decide +kernel, rfl, rfl, by decide +kernel, by decide +kernel, by decide +kernel, by decide +kernel, by decide +kernel⟩,
    ⟨stem_ok (by decide +kernel), _, _, _, _, rfl, rfl, by decide +kernel, by decide +kernel⟩, _, _, _, _, rfl, rfl, by decide +kernel⟩
/-- A counter at its limit and one above it; XYIELD to a good target and to a bad one. -/
theorem wit_StemCounterWaits :
    (let d := { dr with oc := [(0, 3)], g := [(5, 0x10000)] }
     StemIssues { ins := .xwait 0 3 } (home d) d ∧ ocGet d 0 ≤ 3 ∧ StemIssues { ins := .xwait 0 2 } (home d) d ∧ 2 < ocGet d 0 ∧
      StemIssues { ins := .xyield 5 0 3, srcs := [5], ctl := true } (home d) d ∧ stemTargetOk (home d) d 0x10000 = true ∧ StemIssues { ins := .xyield 5 0 2, srcs := [5], ctl := true } (home d) d) ∧
    (let d := { dr with g := [(5, 0x20000)] }
     StemIssues { ins := .xyield 5 0 0, srcs := [5], ctl := true } (home d) d ∧ stemTargetOk (home d) d 0x20000 = false) :=
  ⟨⟨stem_ok (by decide +kernel), by decide, stem_ok (by decide +kernel), by decide, stem_ok (by decide +kernel), by decide +kernel, stem_ok (by decide +kernel)⟩,
    stem_ok (by decide +kernel), by decide +kernel⟩

/-! ## Work objects -/

/-- A whole lineage of objects: job 0, root phase 1, graph 2, launch 4, bed 5. -/
def lineage : Tab Obj :=
  [(0, { lvl := 4, job := 1, die := 0 }), (1, { lvl := 3, job := 1, die := 0, root := true }), (2, { lvl := 2, job := 1, die := 0, up := 1, count := 1, liveDrills := 1 }),
    (4, { lvl := 1, job := 1, die := 0, up := 2, phase := 1, count := 1, released := true }), (5, { lvl := 0, job := 1, die := 0, up := 4, count := 1 })]
/-- Drill d with its lineage, and the words x in memory from 0x40000 on. -/
def kin (d : Drill) (x : List Nat) : State :=
  { home d with objs := lineage, jobs := [(1, { rootOk := true, tvec := 0x18000, quota := 2, obj := 0, rootPhase := 1 })], mem := record x }
/-- A launch record of one bed of one drill with one lane. -/
def rec0 : List Nat := [0x10000, 0x10000, 0x20000, 0x1000000010000, 0x4100000001, 0x201, 0, 0]
/-- What LAUNCH reads at an address: 0 a good record with no list, below the number of launch entries, 1 an invalid record, 2 a fault. -/
def launchReads (s : State) (d : Drill) (va : Nat) : Nat :=
  match readRecord s 0 d.job d.super va (ancestor s 1 d.bed) ((ancestor s 3 d.bed).getD entryLimit) with
  | .ok u _ _ l => if openLaunches u 0 < 4096 ∧ l = [] then 0 else 3
  | .invalid => 1
  | .fault _ _ => 2
/-- A record that is launched, one that is invalid, one that cannot be read, one that is misaligned, and a release that waits. -/
theorem wit_StemLaunches :
    (let d := { dr with g := [(5, 0x40000)] }
     StemIssues { ins := .launch 4 5, srcs := [5], dst := some 4, release := true } (kin d rec0) d ∧ releaseWait (kin d rec0) 0 4 = false ∧ launchReads (kin d rec0) d 0x40000 = 0 ∧
      StemIssues { ins := .launch 4 5, srcs := [5], dst := some 4, release := true } (kin d []) d ∧ launchReads (kin d []) d 0x40000 = 1) ∧
    (let d := { dr with g := [(5, 0x80000000000000)] }
     StemIssues { ins := .launch 4 5, srcs := [5], dst := some 4, release := true } (kin d []) d ∧ launchReads (kin d []) d 0x80000000000000 = 2) ∧
    (let d := { dr with g := [(5, 0x40020)] }
     StemIssues { ins := .launch 4 5, srcs := [5], dst := some 4, release := true } (kin d []) d ∧ 0x40020 % 64 ≠ 0) ∧
    (let d := { dr with g := [(5, 0x40000)] }
     let s := { kin d rec0 with stores := [(0, onWay)] }
     StemIssues { ins := .launch 4 5, srcs := [5], dst := some 4, release := true } s d ∧ releaseWait s 0 4 = true) :=
  ⟨⟨stem_ok (by decide +kernel), by decide +kernel, by decide +kernel, stem_ok (by decide +kernel), by decide +kernel⟩, ⟨stem_ok (by decide +kernel), by decide +kernel⟩,
    ⟨stem_ok (by decide +kernel), by decide⟩, stem_ok (by decide +kernel), by decide +kernel⟩
/-- An own object, a stale handle, a bad one, a complete object, and a job at user level. -/
theorem wit_StemCancelsAndCounters :
    (StemIssues { ins := .cancel 0 2, srcs := [0] } (kin dr []) dr ∧ StemIssues { ins := .cntrd 4 0 1, srcs := [0], dst := some 4 } (kin dr []) dr ∧ resolveFor (kin dr []) dr 1 0 = .obj 4 ∧
      (∃ o, objAt (kin dr []) 4 = some o ∧ o.complete = false ∧ o.lvl ≠ 3)) ∧
    (let d := { dr with g := [(5, 0x2000010000000009)] }
     StemIssues { ins := .cancel 5 1, srcs := [5] } (kin d []) d ∧ resolveFor (kin d []) d 1 0x2000010000000009 = .stale ∧ StemIssues { ins := .cntrd 4 5 1, srcs := [5], dst := some 4 } (kin d []) d) ∧
    (let d := { dr with g := [(5, 0x6000010000000009)] }
     StemIssues { ins := .phwait 5, srcs := [5] } (kin d []) d ∧ resolveFor (kin d []) d 3 0x6000010000000009 = .stale ∧ 0x6000010000000009 / 2 ^ 61 = 3) ∧
    (let d := { dr with g := [(5, 0xFFFFFFFFFFFFFFFF)] }
     StemIssues { ins := .cntrd 4 5 0, srcs := [5], dst := some 4 } (kin d []) d ∧ resolveFor (kin d []) d 0 0xFFFFFFFFFFFFFFFF = .bad ∧ StemIssues { ins := .phwait 5, srcs := [5] } (kin d []) d ∧
      0xFFFFFFFFFFFFFFFF / 2 ^ 61 ≠ 3) ∧
    (let d := { dr with g := [(5, 0x6000010000000007)] }
     let s (err : Bool) (c : Bool) := { kin d [] with objs := lineage ++ [(7, { lvl := 3, job := 1, die := 0, complete := c, err, stamp := 9 })] }
     ∀ err c, StemIssues { ins := .phwait 5, srcs := [5] } (s err c) d ∧ resolveFor (s err c) d 3 0x6000010000000007 = .obj 7 ∧
      StemIssues { ins := .cntrd 4 5 3, srcs := [5], dst := some 4 } (s err c) d ∧ (objAt (s err c) 7).map (·.complete) = some c) ∧
    (drillAt (kin dr []) 0 = some dr ∧ (Instr.cancel 0 4).wf = true ∧ dr.super = false) :=
  ⟨⟨stem_ok (by decide +kernel), stem_ok (by decide +kernel), rfl, _, rfl, rfl, by decide⟩, ⟨stem_ok (by decide +kernel), rfl, stem_ok (by decide +kernel)⟩,
    ⟨stem_ok (by decide +kernel), rfl, by decide⟩, ⟨stem_ok (by decide +kernel), rfl, stem_ok (by decide +kernel), by decide⟩,
    fun err c => by cases err <;> cases c <;> exact ⟨stem_ok (by decide +kernel), rfl, stem_ok (by decide +kernel), rfl⟩, rfl, rfl, rfl⟩
/-- The destinations of the header at an address, and how many of the phase lines are taken then. -/
def phaseReads (s : State) (d : Drill) (va : Nat) : Option (List (Nat × Nat × Nat × Bool) × Nat) :=
  (readHeader s 0 d.job d.super va).map (fun r => (r.2, ((below 16).filter (fun k => (tabFind r.1.lines k).isSome)).length))
/-- A phase header with one destination, one that is misaligned, and no free line. -/
theorem wit_StemPhases :
    (let d := { dr with g := [(5, 0x40000)] }
     let s := kin d [1, 0x40040, 0, 0, 0, 0, 0, 0, 0x50000]
     StemIssues { ins := .phopen 4 5, srcs := [5], dst := some 4 } s d ∧ phaseReads s d 0x40000 = some ([(5, 0, 0, false)], 0)) ∧
    (let d := { dr with g := [(5, 0x40008)] }
     StemIssues { ins := .phopen 4 5, srcs := [5], dst := some 4 } (kin d []) d ∧ phaseReads (kin d []) d 0x40008 = none) ∧
    (let d := { dr with g := [(5, 0x40000)] }
     let s := { kin d [1, 0x40040, 0, 0, 0, 0, 0, 0, 0x50000] with lines := (below 16).map (fun k => (k, 1)) }
     StemIssues { ins := .phopen 4 5, srcs := [5], dst := some 4 } s d ∧ phaseReads s d 0x40000 = some ([(5, 0, 0, false)], 16)) :=
  ⟨⟨stem_ok (by decide +kernel), by decide +kernel⟩, ⟨stem_ok (by decide +kernel), by decide +kernel⟩, stem_ok (by decide +kernel), by decide +kernel⟩
/-- TRAYPUT with room, with its quota used up, and behind a store; TRAYTAKE of an empty tray, and of one with an entry. -/
theorem wit_StemTrayWords :
    let e : TrayEnt := { job := 1, key := 3, val := 4, dt := 5 }
    let full := { kin dr [] with dies := [(0, { tray := [e, e] })] }
    let late := { kin dr [] with stores := [(0, onWay)] }
    (StemIssues { ins := .trayput 5 6, srcs := [5, 6], release := true } (kin dr []) dr ∧ releaseWait (kin dr []) 0 3 = false ∧ (ranked [] 1).length < (jobAt (kin dr []) 1).quota) ∧
    (StemIssues { ins := .trayput 5 6, srcs := [5, 6], release := true } full dr ∧ releaseWait full 0 3 = false ∧ (jobAt full 1).quota ≤ (ranked [e, e] 1).length) ∧
    (StemIssues { ins := .trayput 5 6, srcs := [5, 6], release := true } late dr ∧ releaseWait late 0 3 = true) ∧
    (StemIssues { ins := .traytake 4, dst := some 4 } (kin dr []) dr ∧ (jobAt (kin dr []) 1).replay = .free ∧ ranked [] 1 = []) ∧
    (StemIssues { ins := .traytake 4, dst := some 4 } full dr ∧ (jobAt full 1).replay = .free ∧ ranked [e, e] 1 ≠ []) :=
  ⟨⟨stem_ok (by decide +kernel), by decide +kernel, by decide +kernel⟩, ⟨stem_ok (by decide +kernel), by decide +kernel, by decide +kernel⟩, ⟨stem_ok (by decide +kernel), by decide +kernel⟩,
    ⟨stem_ok (by decide +kernel), rfl, rfl⟩, stem_ok (by decide +kernel), rfl, by decide +kernel⟩

/-! ## Traps and checks -/

/-- User level with nothing under way and with a store under way; supervisor level. -/
theorem wit_TrapEntry : (drillAt (home dr) 0 = some dr ∧ dr.super = false ∧ trapClear (home dr) 0 dr = true ∧ StemIssues { ins := .trap 7 } (home dr) dr) ∧
    (let s := { home dr with stores := [(0, onWay)] }
     drillAt s 0 = some dr ∧ trapClear s 0 dr = false ∧ StemIssues { ins := .trap 7 } s dr) ∧
    (let d := { dr with super := true }
     drillAt (home d) 0 = some d ∧ d.super = true ∧ StemIssues { ins := .trap 7 } (home d) d) :=
  ⟨⟨rfl, rfl, by decide +kernel, stem_ok (by decide +kernel)⟩, ⟨rfl, by decide +kernel, stem_ok (by decide +kernel)⟩, rfl, rfl, stem_ok (by decide +kernel)⟩
/-- User level; UNB set; the supervisor's leaf at work; a held context that fails; one that passes. -/
theorem wit_StemReturns : dr.super = false ∧
    (let d := { dr with super := true, tstat := 0x8000 }
     drillAt (home d) 0 = some d ∧ bitOf d.tstat.toNat 15 = true) ∧
    (let d := { dr with super := true, sup := dr.user }
     bitOf d.tstat.toNat 15 = false ∧ lqstat d.sup ≠ 0) ∧
    (let d := { dr with super := true, user := { splits := [(0, { state := 5, sm := 0xFFFFFFFF })] } }
     lqstat d.sup = 0 ∧ heldOk (d.live &&& ~~~d.tkill) (ctxDrop d.user d.tkill) = false) ∧
    (let d := { dr with super := true }
     lqstat d.sup = 0 ∧ heldOk (d.live &&& ~~~d.tkill) (ctxDrop d.user d.tkill) = true) := by
  refine ⟨rfl, ⟨rfl, rfl⟩, ⟨rfl, by decide⟩, ⟨rfl, by decide +kernel⟩, rfl, by decide +kernel⟩
/-- An illegal word, a privileged one at user level, a hose that is not granted, a release with an unresolved entry and with a struck one, and a hose that is empty. -/
theorem wit_WordChecks :
    (Instr.fence 7 0).wf = false ∧ ((Instr.bresize 4 5).wf = true ∧ dr.super = false) ∧ hoseDenied dr false (stemHoses [48]) [] = some 0 ∧
    (let s := withCloche dr [(1, { line := 0xA00 })]
     (priorEntries s 0 dr false).any (fun e => decide (e.2.state = 1)) = true) ∧
    (let s := withCloche dr [(1, { line := 0xA00, state := 2 })]
     (priorEntries s 0 dr false).any (fun e => decide (e.2.state = 1)) = false ∧ ∃ e, (priorEntries s 0 dr false).find? (fun e => decide (e.2.state = 2)) = some e) ∧
    (let d := { dr with hmap := 2 }
     hoseDenied d false (stemHoses [48]) [] = none ∧ hosesReady (home d) 0 false d (stemHoses [48]) [] = false) ∧
    wfLeaf 0x001 ⟨4, 4, 5, 0, 0, 0, 0, 9, 2, 0⟩ = false ∧
    (∃ h, leafShape 0x001 ⟨200, 4, 5, 0, 0, 0, 0, 5, 2, 0⟩ = some h ∧ overBudget ⟨200, 4, 5, 0, 0, 0, 0, 5, 2, 0⟩ h 1 = true ∧ wfLeaf 0x001 ⟨200, 4, 5, 0, 0, 0, 0, 5, 2, 0⟩ = true) ∧
    (∃ h, leafShape 0x001 ⟨240, 4, 5, 0, 0, 0, 0, 5, 2, 0⟩ = some h ∧ (hoseDenied dr true (srcHoses (leafSrcs 0x001 ⟨240, 4, 5, 0, 0, 0, 0, 5, 2, 0⟩ h)) (leafPushes 0x001 ⟨240, 4, 5, 0, 0, 0, 0, 5, 2, 0⟩ h)).isSome = true) := by
  refine ⟨by decide, ⟨by decide, rfl⟩, by decide +kernel, by decide +kernel, ⟨by decide +kernel, _, rfl⟩, ⟨by decide +kernel, by decide +kernel⟩, by decide +kernel, ⟨_, rfl, by decide +kernel, by decide +kernel⟩, _, rfl, ?_⟩
  decide +kernel

/-! ## Leaf words -/

/-- Whether a leaf plan may issue. -/
def leafFit (p : LeafPlan) (s : State) (d : Drill) : Bool := match leafShape p.op p.w with | some h => leafOk p h s d | none => false
theorem leaf_fit {p : LeafPlan} {s : State} {d : Drill} (k : leafFit p s d = true) : ∃ h, LeafIssues p h s d := by
  unfold leafFit at k
  cases e : leafShape p.op p.w with
  | none => simp [e] at k
  | some h => rw [e] at k; exact ⟨h, leaf_ok k⟩
/-- A drill whose leaf may push hose h17 and whose routine saturates. -/
def drSat : Drill := { dr with hmap := 0x400000000, user := { dr.user with fmode := 0x20, s := [(2, 0x40000), (3, 0x1800000), (4, 0x1800040)] }, k := [(1, 0x80000001)] }
theorem wit_LeafExactIntegers : ∀ i ∈ [Instr.vadd ⟨4, 4, 5, 0, 0, 0, 0, 5, 2, 0⟩, .vmad ⟨4, 4, 5, 6, 1, 0, 0, 1, 0, 0⟩], (exactRow i).isSome = true ∧
    ∃ op w h, i.leaf? = some (op, w) ∧ LeafIssues { op, w } h (home drSat) drSat ∧ bitOf (leafCtx drSat).fmode.toNat 5 = true := by
  intro i hi
  simp only [List.mem_cons, List.not_mem_nil, or_false] at hi
  rcases hi with rfl | rfl
  · exact ⟨rfl, _, _, _, rfl, (leaf_fit (by decide +kernel)).choose_spec, rfl⟩
  · exact ⟨rfl, _, _, _, rfl, (leaf_fit (by decide +kernel)).choose_spec, rfl⟩
theorem wit_LeafBitIntegers : (bitsRow (.vsha ⟨4, 4, 5, 0, 1, 0, 0, 8, 2, 0⟩)).isSome = true ∧ (bitsRow (.vpopc ⟨4, 4, 0, 0, 0, 0, 0, 2, 0, 0⟩)).isSome = true ∧
    (∃ h, LeafIssues { op := 0x00C, w := ⟨4, 4, 5, 0, 1, 0, 0, 8, 2, 0⟩ } h (home dr) dr) ∧ ∃ h, LeafIssues { op := 0x012, w := ⟨4, 4, 0, 0, 0, 0, 0, 2, 0, 0⟩ } h (home dr) dr :=
  ⟨rfl, rfl, leaf_fit (by decide +kernel), leaf_fit (by decide +kernel)⟩
/-- A move into a hose, and a shuffle. -/
theorem wit_LeafElementMoves : (moveRow (.vmov ⟨241, 3, 0, 0, 0, 0, 0, 15, 0, 0⟩)).isSome = true ∧ (moveRow (.vshuf ⟨4, 6, 8, 0, 1, 0, 0, 16, 0, 0⟩)).isSome = true ∧
    (∃ h, LeafIssues { op := 0x100, w := ⟨241, 3, 0, 0, 0, 0, 0, 15, 0, 0⟩ } h (home drSat) drSat) ∧ ∃ h, LeafIssues { op := 0x180, w := ⟨4, 6, 8, 0, 1, 0, 0, 16, 0, 0⟩ } h (home dr) dr :=
  ⟨rfl, rfl, leaf_fit (by decide +kernel), leaf_fit (by decide +kernel)⟩
/-- One word for each opcode that the statements on masks, scalars, floats and conversions name. -/
def leafWords : List (Nat × LeafWord) :=
  [(0x140, ⟨11, 12, 13, 0, 0, 0, 0, 0, 0, 0⟩), (0x0C0, ⟨5, 9, 8, 0, 0, 0, 0, 0, 0, 0⟩), (0x145, ⟨5, 12, 0, 0, 0, 0, 0, 0, 0, 0⟩), (0x147, ⟨11, 0, 0, 0, 0, 0, 0, 0, 0, 0⟩),
    (0x102, ⟨30, 0, 0, 0, 5, 0, 0, 0, 0, 0⟩), (0x104, ⟨12, 45, 0, 0, 0, 0, 0, 5, 0, 31⟩), (0x184, ⟨14, 47, 0, 0, 6, 0, 0, 15, 8, 0⟩), (0x185, ⟨14, 47, 0, 0, 6, 0, 0, 6, 0, 0⟩),
    (0x146, ⟨0, 12, 0, 0, 0, 0, 0, 0, 0, 0⟩)] ++
  [(0x040, ⟨21, 37, 54, 0, 9, 1, 0, 9, 0, 0⟩), (0x044, ⟨22, 38, 56, 70, 9, 4, 0, 12, 0, 0⟩), (0x050, ⟨24, 40, 0, 0, 12, 0, 0, 12, 0, 0⟩)] ++
  [(0x080, ⟨13, 41, 58, 0, 2, 0, 0, 11, 28, 0⟩), (0x088, ⟨25, 42, 0, 0, 3, 2, 0, 11, 0, 13⟩), (0x101, ⟨29, 0, 0, 0, 5, 0, 0, 5, 0, 0x89ABCDEF⟩), (0x089, ⟨96, 112, 43, 44, 4, 3, 0, 14, 0, 1⟩),
    (0x08A, ⟨96, 112, 0, 44, 4, 3, 0, 14, 0, 2⟩), (0x08B, ⟨96, 8, 43, 0, 4, 3, 0, 14, 0, 0⟩), (0x186, ⟨33, 48, 0, 0, 7, 5, 6, 11, 8, 0⟩), (0x187, ⟨15, 48, 0, 0, 7, 5, 6, 6, 20, 0⟩)]
theorem leafWords_fit : ∀ x ∈ leafWords, leafFit { op := x.1, w := x.2 } (home dr) dr = true := by decide +kernel
theorem wit_LeafMasksAndScalars : (∀ x ∈ leafWords, ∃ h, LeafIssues { op := x.1, w := x.2 } h (home dr) dr) ∧ (maskRow (.kand ⟨11, 12, 13, 0, 0, 0, 0, 0, 0, 0⟩)).isSome = true ∧
    (scalarRow (.sadd ⟨5, 9, 8, 0, 0, 0, 0, 0, 0, 0⟩)).isSome = true ∧ LeafQuiet dr :=
  ⟨fun x hx => leaf_fit (leafWords_fit x hx), rfl, rfl, rfl, rfl⟩
theorem wit_LeafFloats : (∃ h, LeafIssues { op := 0x044, w := ⟨22, 38, 56, 70, 9, 4, 0, 12, 0, 0⟩ } h (home dr) dr) ∧ (floatRow (.vfms ⟨22, 38, 56, 70, 9, 4, 0, 12, 0, 0⟩)).isSome = true ∧
    (∃ h, LeafIssues { op := 0x050, w := ⟨24, 40, 0, 0, 12, 0, 0, 12, 0, 0⟩ } h (home dr) dr) ∧ 0x7F7FFFFF < 2 ^ (fmtOf 11).bits ∧ isNaN (unpack (fmtOf 11) 0x7F7FFFFF) = false :=
  ⟨leaf_fit (by decide +kernel), rfl, leaf_fit (by decide +kernel), by decide +kernel, by decide +kernel⟩
theorem wit_LeafConversions : ∀ op ∈ [0x080, 0x088, 0x101, 0x089, 0x08A, 0x08B, 0x186, 0x187], ∃ w h, LeafIssues { op, w } h (home dr) dr := by
  intro op h
  have k : ∀ op ∈ [0x080, 0x088, 0x101, 0x089, 0x08A, 0x08B, 0x186, 0x187], ∃ x ∈ leafWords, x.1 = op := by decide +kernel
  obtain ⟨x, hx, rfl⟩ := k op h
  exact ⟨x.2, leaf_fit (leafWords_fit x hx)⟩
/-- A drill whose split has n calls open, at address a of its section, with k1 the lanes 0 and 31 and k2 no lane. -/
def inLeaf (n : Nat) (a : Nat) : Drill :=
  { dr with k := [(1, 0x80000001)], user := { s := [(2, 5)], splits := [(0, { state := 2, depth := BitVec.ofNat 4 n, pc := BitVec.ofNat 56 a, em := 0xFFFFFFFF, sm := 0xFFFFFFFF, rs := (below n).map (fun i => (i, 0x20018)) })] } }
def ctlFit (op : Nat) (w : LeafWord) (d : Drill) : Bool := leafFit { op, w, ctl := true } (home d) d
/-- LBR with no lane, every lane and some lanes taken; a good and a bad target; a full split table; SBR taken or not; calls and returns within their depths and at
their ends; and the words without an operand. -/
theorem wit_LeafControl : LeafQuiet (inLeaf 1 0x20018) ∧
    (∀ k ∈ [0, 1, 2], ∀ x ∈ [2, 0x2000], ctlFit 0x280 ⟨0, 0, 0, 0, k, 0, 0, 0, 0, BitVec.ofNat 32 x⟩ (inLeaf 1 0x20018) = true) ∧
    (effMask (inLeaf 1 0x20018) 0 = 0xFFFFFFFF ∧ effMask (inLeaf 1 0x20018) 1 = 0x80000001 ∧ effMask (inLeaf 1 0x20018) 2 = 0) ∧
    (leafTargetOk (home dr) (inLeaf 1 0x20018) 0x20030 = true ∧ leafTargetOk (home dr) (inLeaf 1 0x20018) 0x38018 = false) ∧ (splitAt (leafCtx (inLeaf 1 0x20018)) 1).state = 0 ∧
    (let d := { inLeaf 1 0x20018 with user := { splits := (below 16).map (fun i => (i, { state := 2, pc := 0x20018, em := BitVec.ofNat 32 (3 * 4 ^ i), sm := BitVec.ofNat 32 (3 * 4 ^ i) })) } }
     ctlFit 0x280 ⟨0, 0, 0, 0, 1, 0, 0, 0, 0, 2⟩ d = true ∧ LeafQuiet d ∧ (∀ y, y < 16 → (splitAt (leafCtx d) y).state ≠ 0) ∧ effMask d 1 ≠ 0 ∧ effMask d 1 ≠ (runSplit (leafCtx d)).em) ∧
    (∀ c ∈ ([0, 4] : List (BitVec 6)), ctlFit 0x281 ⟨0, 2, 2, 0, 0, 0, 0, 0, c, 2⟩ (inLeaf 1 0x20018) = true) ∧ (sbrHolds 0 5 5 = true ∧ sbrHolds 1 5 5 = false) ∧
    (∀ op ∈ [0x282, 0x283], ∀ n ∈ [0, 1, 8], ∀ x ∈ [2, 0x2000], ctlFit op ⟨0, 0, 0, 0, 0, 0, 0, 0, 0, BitVec.ofNat 32 x⟩ (inLeaf n 0x20018) = true) ∧
    (∀ op ∈ [0x284, 0x286, 0x287, 0x288], ∀ n ∈ [0, 1, 8], ctlFit op ⟨0, 0, 0, 0, 0, 0, 0, 0, 0, 0⟩ (inLeaf n 0x20018) = true) ∧ (runSplit (leafCtx (inLeaf 8 0x20018))).depth = 8 ∧
    leafFit { op := 0x285, w := ⟨0, 0, 0, 0, 0, 0, 0, 0, 0, 0⟩ } (home (inLeaf 1 0x20018)) (inLeaf 1 0x20018) = true := by
  refine ⟨⟨rfl, rfl⟩, by decide +kernel, by decide +kernel, by decide +kernel, rfl, ⟨by decide +kernel, ⟨rfl, rfl⟩, by decide +kernel, by decide +kernel, by decide +kernel⟩, by decide +kernel,
    by decide +kernel, by decide +kernel, by decide +kernel, rfl, by decide +kernel⟩

/-! ## Leaf words that reach memory: s2 is a private address, s3 a bench address, s5 a shared one; v7 holds lane offsets 0 and 8 for lanes 0 and 31. -/

/-- The shape of a word. -/
def sh (p : LeafPlan) : Shape := (leafShape p.op p.w).getD {}
/-- The drill; `sr` adds scalars. -/
def laneDr (sr : Tab Word) : Drill :=
  { dr with v := [(7, BitVec.ofNat 1024 (8 * 2 ^ 992))], k := [(1, 0x80000001), (2, 0x80000000)], user := { dr.user with s := [(2, 0x40000), (3, 0x1800000)] ++ sr } }
def laneEa (p : LeafPlan) (s : State) (d : Drill) (l : Nat) : Nat := (laneAddr p.w (leafOps p (sh p) s d) l).toNat
/-- The conditions of LeafIssues and LanesAt, as a computation. -/
def lanesOk (p : LeafPlan) (k : Kind) (s : State) (d : Drill) (ps : List LanePlace) (shr : Bool) : Bool :=
  leafOk p (sh p) s d
    && (match laneCheck s d k (laneEa p s d) (lanesOf (effMask d p.w.k.toNat)) (typeBits p.w.ty.toNat / 8) with | .ok q => decide (q = ps) | _ => false)
    && ps.all (fun q => !inHubWindow q.pa && decide (tierOf q.pa ≠ some 3) && decide (q.pa % (typeBits p.w.ty.toNat / 8) = 0)
      && (match placeOf s s.cur q.pa q.t (decide (k = .store)) with | .at u a b => decide (u = s) && decide (a = q.pa) && decide (b = shr) | _ => false))
theorem lanes_ok {p : LeafPlan} {k : Kind} {s : State} {d : Drill} {ps : List LanePlace} {shr : Bool} (h : lanesOk p k s d ps shr = true) (r : ∀ l, remoteOf s s.cur true l = none) :
    LeafIssues p (sh p) s d ∧ LanesAt s d k (fun l => (laneAddr p.w (leafOps p (sh p) s d) l).toNat) (typeBits p.w.ty.toNat / 8) (effMask d p.w.k.toNat) ps (fun _ => shr) := by
  simp only [lanesOk, Bool.and_eq_true, List.all_eq_true, decide_eq_true_eq, Bool.not_eq_true'] at h
  obtain ⟨⟨h1, h2⟩, h3⟩ := h
  refine ⟨leaf_ok h1, ?_, fun q hq => (h3 q hq).1.1, fun q hq => ?_, fun q hq => (h3 q hq).1.2, r⟩
  · revert h2
    unfold laneEa
    cases laneCheck s d k _ _ _ with
    | ok q => simp
    | stop b => simp
  · have g := (h3 q hq).2
    revert g
    cases placeOf s s.cur q.pa q.t (decide (k = .store)) <;> simp +contextual
/-- The conditions of OneTile, as a computation. -/
def tileOk (s : State) (d : Drill) (ps : List LanePlace) (tile : Nat) : Bool :=
  !ps.isEmpty && ps.all (fun q => decide (q.pa / 2048 = tile)) && !d.got.any (fun g => decide (g.leaf = true)) && decide ((true, tile) ∈ d.granted)
    && (match (clAt s (clusterOf s.cur)).order.find? (fun o => decide (o.2.2 = tile)) with | some o => decide (o = (s.cur, true, tile)) | none => true)
theorem tile_ok {s : State} {d : Drill} {ps : List LanePlace} {tile : Nat} (h : tileOk s d ps tile = true) : OneTile s d ps tile := by
  simp only [tileOk, Bool.and_eq_true, List.all_eq_true, decide_eq_true_eq, Bool.not_eq_true'] at h
  obtain ⟨⟨⟨⟨h1, h2⟩, h3⟩, h4⟩, h5⟩ := h
  refine ⟨by simpa using h1, h2, h3, h4, fun o ho => ?_⟩
  rw [ho] at h5
  simpa using h5
/-- What a leaf word has performed on a tile. -/
def leafGot (tile : Nat) (psn : Option Nat) : Got := { leaf := true, tile, vals := [(0, (5, none)), (31, (6, psn))] }
def atPriv : List LanePlace := [{ l := 0, pa := 0x40000, t := tPrivate }, { l := 31, pa := 0x40008, t := tPrivate }]
def atShr : List LanePlace := [{ l := 0, pa := 0x507F0, t := tShared }, { l := 31, pa := 0x507F8, t := tShared }]
/-- A drill whose leaf may access a tile. -/
def admitted (tile : Nat) (sr : Tab Word) : Drill := { laneDr sr with granted := [(true, tile)] }
/-- A load of a private page with no tile; an acquire at a lease's end on a shared page; a load whose tile has been read, without poison and with. -/
theorem wit_LeafLoads :
    (let d := admitted 0x80 []
     let p : LeafPlan := { op := 0x200, w := ⟨8, 2, 7, 0, 1, 0, 3, 7, 0, 0⟩ }
     laneLoadRow (.vld p.w) = some (p.op, p.w, false) ∧ (LeafIssues p (sh p) (home d) d ∧ LanesAt (home d) d .load (fun l => (laneAddr p.w (leafOps p (sh p) (home d) d) l).toNat) 8 (effMask d 1) atPriv fun _ => false) ∧
      OneTile (home d) d atPriv 0x80 ∧ ∀ q ∈ atPriv, Readable (home d) 0 q.pa 8 false 0 ∧ clusterPoison (home d) 0 q.pa = false) ∧
    (let d := { admitted 0xA0 [(5, 0x50000)] with dt := 9 }
     let s := withCopy d 0xA0F { have' := BitVec.allOnes 128, shared := true, rts := 10 }
     let p : LeafPlan := { op := 0x206, w := ⟨8, 5, 7, 0, 1, 0, 0, 16, 12, 0x7F0⟩ }
     laneLoadRow (.vlda p.w) = some (p.op, p.w, true) ∧ (LeafIssues p (sh p) s d ∧ LanesAt s d .load (fun l => (laneAddr p.w (leafOps p (sh p) s d) l).toNat) 8 (effMask d 1) atShr fun _ => true) ∧
      OneTile s d atShr 0xA0 ∧ (tabFind (clAt s 0).tiles 0xA0).isSome = true ∧ ∀ q ∈ atShr, Readable s 0 q.pa 8 true 10 ∧ clusterPoison s 0 q.pa = false) ∧
    (∀ psn ∈ [none, some 0],
     let d := { laneDr [(5, 0x50000)] with got := [leafGot 0xA0 psn] }
     let p : LeafPlan := { op := 0x208, w := ⟨8, 5, 7, 0, 1, 0, 0, 7, 0, 0x7F0⟩ }
     laneLoadRow (.vldc p.w) = some (p.op, p.w, false) ∧ (LeafIssues p (sh p) (home d) d ∧ LanesAt (home d) d .load (fun l => (laneAddr p.w (leafOps p (sh p) (home d) d) l).toNat) 8 (effMask d 1) atShr fun _ => true) ∧
      LanesGot d atShr ∧ (gotOf d true 31).2 = psn ∧ (gotOf d true 0).2 = none ∧ ∀ q ∈ atShr, (gotOf d true q.l).1 < 2 ^ 64) := by
  refine ⟨⟨rfl, lanes_ok (by decide +kernel) (fun _ => rfl), tile_ok (by decide +kernel), fun q hq => ?_⟩, ⟨rfl, lanes_ok (by decide +kernel) (fun _ => rfl), tile_ok (by decide +kernel), by decide +kernel, fun q hq => ?_⟩, fun psn hp => ?_⟩
  · simp only [atPriv, List.mem_cons, List.not_mem_nil, or_false] at hq
    rcases hq with rfl | rfl <;> exact ⟨.inl rfl, by decide +kernel⟩
  · simp only [atShr, List.mem_cons, List.not_mem_nil, or_false] at hq
    rcases hq with rfl | rfl <;> exact ⟨.inr ⟨_, rfl, by decide +kernel⟩, by decide +kernel⟩
  · simp only [List.mem_cons, List.not_mem_nil, or_false] at hp
    rcases hp with rfl | rfl <;>
      exact ⟨rfl, lanes_ok (by decide +kernel) (fun _ => rfl), fun q hq => ⟨_, List.mem_singleton.2 rfl, rfl, ((by decide +kernel : ∀ q ∈ atShr, (0xA0 : Nat) = q.pa / 2048) q hq)⟩, rfl, rfl, by decide +kernel⟩
def oneShr : List LanePlace := [{ l := 31, pa := 0x50008, t := tShared }]
/-- Stores to a tile that is there, private; a release that waits and one that has stored; an atomic in its cluster, and one already answered. -/
theorem wit_LeafStores :
    (let d := admitted 0x80 []
     let s := withCopy d 0x800 {}
     let p : LeafPlan := { op := 0x201, w := ⟨9, 2, 7, 0, 1, 0, 0, 5, 0, 0⟩ }
     laneStoreRow (.vst p.w) = some (p.op, p.w, none) ∧ (LeafIssues p (sh p) s d ∧ LanesAt s d .store (fun l => (laneAddr p.w (leafOps p (sh p) s d) l).toNat) 4 (effMask d 1) atPriv fun _ => false) ∧
      OneTile s d atPriv 0x80 ∧ (tabFind (clAt s 0).tiles 0x80).isSome = true) ∧
    (let d := laneDr [(5, 0x50000)]
     let s := { home d with stores := [(0, onWay)] }
     let p : LeafPlan := { op := 0x207, w := ⟨8, 5, 7, 0, 1, 0, 0, 7, 12, 0x7F0⟩, release := true }
     laneStoreRow (.vstl p.w) = some (p.op, p.w, some 3) ∧ (LeafIssues p (sh p) s d ∧ LanesAt s d .store (fun l => (laneAddr p.w (leafOps p (sh p) s d) l).toNat) 8 (effMask d 1) atShr fun _ => true) ∧
      begun d true = false ∧ releaseWait s 0 3 = true) ∧
    (let d := { laneDr [(5, 0x50000)] with got := [leafGot 0xA0 none] }
     let p : LeafPlan := { op := 0x207, w := ⟨8, 5, 7, 0, 1, 0, 0, 7, 12, 0x7F0⟩, release := true }
     (LeafIssues p (sh p) (home d) d ∧ LanesAt (home d) d .store (fun l => (laneAddr p.w (leafOps p (sh p) (home d) d) l).toNat) 8 (effMask d 1) atShr fun _ => true) ∧ begun d true = true ∧ LanesGot d atShr) ∧
    (let d := admitted 0xA0 [(5, 0x50000)]
     let s := withCopy d 0xA00 { have' := BitVec.allOnes 128, shared := true, rts := 10 }
     let p : LeafPlan := { op := 0x20A, w := ⟨8, 5, 7, 10, 2, 0, 0, 7, 8, 0⟩ }
     (laneAmoRow (.vcas p.w)).isSome = true ∧ (LeafIssues p (sh p) s d ∧ LanesAt s d .store (fun l => (laneAddr p.w (leafOps p (sh p) s d) l).toNat) 8 (effMask d 2) oneShr fun _ => true) ∧
      (jobAt s d.job).replay = .free ∧ OneTile s d oneShr 0xA0 ∧ Readable s 0 0x50008 8 true 0 ∧ (tabFind (clAt s 0).tiles 0xA0).isSome = true ∧ clusterPoison s 0 0x50008 = false) ∧
    (let d := { laneDr [(5, 0x50000)] with got := [leafGot 0xA0 none] }
     let p : LeafPlan := { op := 0x209, w := ⟨8, 5, 7, 10, 2, 0, 0, 7, 0, 0⟩ }
     (laneAmoRow (.vamo p.w)).isSome = true ∧ (LeafIssues p (sh p) (home d) d ∧ LanesAt (home d) d .store (fun l => (laneAddr p.w (leafOps p (sh p) (home d) d) l).toNat) 8 (effMask d 2) oneShr fun _ => true) ∧
      (jobAt (home d) d.job).replay = .free ∧ LanesGot d oneShr ∧ ∀ q ∈ oneShr, (gotOf d true q.l).2 = none) :=
  ⟨⟨rfl, lanes_ok (by decide +kernel) (fun _ => rfl), tile_ok (by decide +kernel), by decide +kernel⟩,
    ⟨rfl, lanes_ok (by decide +kernel) (fun _ => rfl), by decide +kernel, by decide +kernel⟩,
    ⟨lanes_ok (by decide +kernel) (fun _ => rfl), by decide +kernel, fun q hq => ⟨_, List.mem_singleton.2 rfl, rfl, ((by decide +kernel : ∀ q ∈ atShr, (0xA0 : Nat) = q.pa / 2048) q hq)⟩⟩,
    ⟨rfl, lanes_ok (by decide +kernel) (fun _ => rfl), rfl, tile_ok (by decide +kernel), .inr ⟨_, rfl, by decide +kernel⟩, by decide +kernel, by decide +kernel⟩,
    rfl, lanes_ok (by decide +kernel) (fun _ => rfl), rfl, fun q hq => ⟨_, List.mem_singleton.2 rfl, rfl, ((by decide +kernel : ∀ q ∈ oneShr, (0xA0 : Nat) = q.pa / 2048) q hq)⟩, by decide +kernel⟩
/-- A lane at 2^56, a misaligned one, one whose page is not at hand, and one that its translation refuses. -/
theorem wit_LeafAddressFaults :
    (let p : LeafPlan := { op := 0x200, w := ⟨9, 5, 7, 0, 1, 0, 0, 5, 0, 0⟩ }
     laneWordRow (.vld p.w) = some (0x200, p.w, .load, false) ∧
     (let d := laneDr [(5, 0x00FFFFFFFFFFFFF8)]
      LeafIssues p (sh p) (home d) d ∧ (lanesOf (effMask d 1)).filter (fun l => decide (2 ^ 56 ≤ laneEa p (home d) d l)) = [31]) ∧
     (let d := laneDr [(5, 0x40002)]
      LeafIssues p (sh p) (home d) d ∧ (∀ l ∈ lanesOf (effMask d 1), laneEa p (home d) d l < 2 ^ 56 ∧ laneEa p (home d) d l % 4 ≠ 0)) ∧
     (let d := laneDr [(5, 0x60000)]
      LeafIssues p (sh p) (home d) d ∧ (∀ l ∈ lanesOf (effMask d 1), laneEa p (home d) d l < 2 ^ 56 ∧ laneEa p (home d) d l % 4 = 0 ∧ translate (home d) 0 d .load true (laneEa p (home d) d l) = .miss)) ∧
     (let d := { laneDr [(5, 0x60000)] with walked := [(true, 0x60, cTranslation)] }
      LeafIssues p (sh p) (home d) d ∧ (∀ l ∈ lanesOf (effMask d 1), laneEa p (home d) d l < 2 ^ 56 ∧ laneEa p (home d) d l % 4 = 0 ∧ translate (home d) 0 d .load true (laneEa p (home d) d l) = .fault cTranslation))) :=
  ⟨rfl, ⟨leaf_ok (by decide +kernel), by decide +kernel⟩, ⟨leaf_ok (by decide +kernel), by decide +kernel⟩, ⟨leaf_ok (by decide +kernel), by decide +kernel⟩, leaf_ok (by decide +kernel), by decide +kernel⟩
/-- The conditions of BenchLanes when nothing is to be filled, as a computation. -/
def benchLanesOk (p : LeafPlan) (s : State) (d : Drill) (n : Nat) (pl : Nat → Nat × Nat) : Bool :=
  leafOk p (sh p) s d && (lanesOf (effMask d p.w.k.toNat)).all (fun l => decide (benchPlace s s.cur (laneEa p s d l) = some (pl l)) && decide (laneEa p s d l % n = 0)
    && (match benchFills s s.cur d.super (pl l).1 (pl l).2 n with | .ok u => decide (u = s) | .error _ => false))
theorem bench_lanes {p : LeafPlan} {s : State} {d : Drill} {n : Nat} {pl : Nat → Nat × Nat} (h : benchLanesOk p s d n pl = true) :
    LeafIssues p (sh p) s d ∧ BenchLanes s s d (fun l => (laneAddr p.w (leafOps p (sh p) s d) l).toNat) n (lanesOf (effMask d p.w.k.toNat)) pl := by
  simp only [benchLanesOk, Bool.and_eq_true, List.all_eq_true, decide_eq_true_eq] at h
  obtain ⟨h1, h2⟩ := h
  have k : ∀ l, l ∈ lanesOf (effMask d p.w.k.toNat) → benchFills s s.cur d.super (pl l).1 (pl l).2 n = .ok s := fun l hl => by
    have g := (h2 l hl).2
    revert g
    cases benchFills s s.cur d.super (pl l).1 (pl l).2 n <;> simp
  refine ⟨leaf_ok h1, fun l hl => ⟨(h2 l hl).1.1, (h2 l hl).1.1⟩, fun l hl => (h2 l hl).1.2, fun l hl => ⟨s, k l hl⟩, rfl, ?_⟩
  generalize lanesOf (effMask d p.w.k.toNat) = ls at k ⊢
  induction ls with
  | nil => rfl
  | cons a r ih => rw [List.foldl_cons, k a List.mem_cons_self]; exact ih fun l hl => k l (List.mem_cons_of_mem _ hl)
/-- A bench with a map entry-free tile 0 and, maybe, a poisoned sector. -/
def bench (d : Drill) (psn : List Nat) (tag : Nat) : State := { home d with cores := [(0, { benchPsn := psn, tags := tabSet 0 [] 0 tag })] }
/-- Lanes past the bench, misaligned lanes, and lanes in the bench without poison and with. -/
theorem wit_LeafBench :
    (let d := laneDr [(5, 0x182FFF8)]
     let p : LeafPlan := { op := 0x202, w := ⟨8, 5, 7, 0, 1, 0, 0, 7, 0, 0⟩ }
     LeafIssues p (sh p) (home d) d ∧ (lanesOf (effMask d 1)).filter (fun l => decide (benchPlace (home d) 0 (laneEa p (home d) d l) = none)) = [31]) ∧
    (let d := laneDr [(5, 0x1800004)]
     let p : LeafPlan := { op := 0x203, w := ⟨8, 5, 7, 0, 1, 0, 0, 7, 0, 0⟩ }
     LeafIssues p (sh p) (home d) d ∧ ∀ l ∈ lanesOf (effMask d 1), (benchPlace (home d) 0 (laneEa p (home d) d l)).isSome = true ∧ laneEa p (home d) d l % 8 ≠ 0) ∧
    (∀ psn ∈ [[], [0]],
     let d := laneDr []
     let p : LeafPlan := { op := 0x202, w := ⟨9, 3, 7, 0, 1, 0, 0, 5, 0, 0⟩ }
     (LeafIssues p (sh p) (bench d psn 0) d ∧ BenchLanes (bench d psn 0) (bench d psn 0) d (fun l => (laneAddr p.w (leafOps p (sh p) (bench d psn 0) d) l).toNat) 4 (lanesOf (effMask d 1)) fun l => (0, if l = 0 then 0 else 8)) ∧
      benchPoison (bench d psn 0) 0 8 4 = psn.head?) ∧
    (let d := laneDr []
     let p : LeafPlan := { op := 0x203, w := ⟨9, 3, 7, 0, 1, 0, 0, 5, 0, 0⟩ }
     LeafIssues p (sh p) (home d) d ∧ BenchLanes (home d) (home d) d (fun l => (laneAddr p.w (leafOps p (sh p) (home d) d) l).toNat) 4 (lanesOf (effMask d 1)) fun l => (0, if l = 0 then 0 else 8)) := by
  refine ⟨⟨leaf_ok (by decide +kernel), by decide +kernel⟩, ⟨leaf_ok (by decide +kernel), by decide +kernel⟩, fun psn hp => ?_, bench_lanes (by decide +kernel)⟩
  simp only [List.mem_cons, List.not_mem_nil, or_false] at hp
  rcases hp with rfl | rfl <;> exact ⟨bench_lanes (by decide +kernel), by decide +kernel⟩
theorem panel_ready {s : State} {d : Drill} {ea n core off : Nat} (h : BenchReady s d ea n n core off s) : PanelReady s s d ea n core off := ⟨h, h.place, rfl⟩
/-- A panel past the bench, a misaligned one, a load with another tag, loads with the tag without poison and with, and a store. -/
theorem wit_LeafPanels :
    (let d := laneDr [(5, 0x1830000), (6, 0x1800200), (1, 0x1800400)]
     let w (a : BitVec 8) : LeafWord := ⟨20, a, 0, 0, 0, 0, 0, 11, 2, 0x25000000⟩
     let p (a : BitVec 8) : LeafPlan := { op := 0x204, w := w a }
     (LeafIssues (p 5) (sh (p 5)) (home d) d ∧ benchIn (home d) 0 0x1830000 1024 = false) ∧
     (LeafIssues (p 6) (sh (p 6)) (home d) d ∧ benchIn (home d) 0 0x1800200 1024 = true ∧ 0x1800200 % 1024 ≠ 0) ∧
     ∀ psn ∈ [[], [32]], ∀ tag ∈ [0, 1], LeafIssues (p 1) (sh (p 1)) (bench d psn tag) d ∧ PanelReady (bench d psn tag) (bench d psn tag) d 0x1800400 1024 0 0x400 ∧
       benchPoison (bench d psn tag) 0 0x400 1024 = psn.head? ∧ tabGet 0 (coreAt (bench d psn tag) 0).tags 0 = tag) ∧
    (let d := laneDr []
     let p : LeafPlan := { op := 0x205, w := ⟨20, 3, 0, 0, 0, 0, 0, 1, 2, 0x04000000⟩ }
     LeafIssues p (sh p) (home d) d ∧ PanelReady (home d) (home d) d 0x1800000 4096 0 0) := by
  refine ⟨⟨⟨leaf_ok (by decide +kernel), by decide +kernel⟩, ⟨leaf_ok (by decide +kernel), by decide +kernel⟩, fun psn hp tag ht => ?_⟩, leaf_ok (by decide +kernel),
    panel_ready (bench_ready (by decide +kernel) (by decide +kernel) (by decide) (by decide +kernel))⟩
  simp only [List.mem_cons, List.not_mem_nil, or_false] at hp ht
  rcases hp with rfl | rfl <;> rcases ht with rfl | rfl <;>
    exact ⟨leaf_ok (by decide +kernel), panel_ready (bench_ready (by decide +kernel) (by decide +kernel) (by decide) (by decide +kernel)), by decide +kernel, by decide +kernel⟩
/-- A gather of 128-byte rows: destination, table and number of rows in s4, s8 and s9; the rows of lanes 0 and 31 are 0 and 8. -/
def gather (dst c c1 : Word) : Drill := { laneDr [(4, dst), (8, c), (9, c1)] with dt := 3 }
def gatherPlan : LeafPlan := { op := 0x20B, w := ⟨0, 4, 7, 8, 1, 0, 0, 0, 0, 0x70000⟩ }
def full (d : Drill) : State := { home d with clusters := [(0, { engines := [(0, List.replicate 32 { slot := 0, cls := 1, op := 4 })] })] }
/-- A row past the bench, a misaligned destination, a misaligned table, an index at the count, a table without a translation; a full engine and one that is not. -/
theorem wit_LeafGathers :
    (let d := gather 0x182F080 0x40000 9
     LeafIssues gatherPlan (sh gatherPlan) (home d) d ∧ benchIn (home d) 0 0x182F080 128 = true ∧ benchIn (home d) 0 (0x182F080 + 31 * 128) 128 = false) ∧
    (let d := gather 0x1800040 0x40000 9
     LeafIssues gatherPlan (sh gatherPlan) (home d) d ∧ benchIn (home d) 0 0x1800040 128 = true ∧ benchIn (home d) 0 (0x1800040 + 31 * 128) 128 = true ∧ 0x1800040 % 128 ≠ 0) ∧
    (let d := gather 0x1800000 0x40040 9
     LeafIssues gatherPlan (sh gatherPlan) (home d) d ∧ (∀ l ∈ lanesOf (effMask d 1), benchIn (home d) 0 (0x1800000 + l * 128) 128 = true) ∧ 0x40040 % 128 ≠ 0) ∧
    (let d := gather 0x1800000 0x40000 8
     LeafIssues gatherPlan (sh gatherPlan) (home d) d ∧ (lanesOf (effMask d 1)).filter (fun l => decide (8 ≤ (element 32 (leafOps gatherPlan (sh gatherPlan) (home d) d) 1 l).toNat)) = [31]) ∧
    (let d := gather 0x1800000 0x60000 9
     LeafIssues gatherPlan (sh gatherPlan) (home d) d ∧ (∀ l ∈ lanesOf (effMask d 1), isOk (benchRange (home d) 0 false (0x1800000 + l * 128) 128) = true) ∧
      isOk (gatherRanges (home d) d (fun l => 0x60000 + l / 31 * 0x400) 128 (lanesOf (effMask d 1))) = false) ∧
    (let d := gather 0x1800000 0x40000 9
     ∀ s ∈ [home d, full d], LeafIssues gatherPlan (sh gatherPlan) s d ∧ (∀ l ∈ lanesOf (effMask d 1), isOk (benchRange s 0 false (0x1800000 + l * 128) 128) = true) ∧
      isOk (gatherRanges s d (fun l => 0x40000 + l / 31 * 0x400) 128 (lanesOf (effMask d 1))) = true) ∧
    (engineQ (home (gather 0x1800000 0x40000 9)) 0).length = 0 ∧ (engineQ (full (gather 0x1800000 0x40000 9)) 0).length = 32 := by
  refine ⟨⟨leaf_ok (by decide +kernel), by decide +kernel⟩, ⟨leaf_ok (by decide +kernel), by decide +kernel⟩, ⟨leaf_ok (by decide +kernel), by decide +kernel⟩, ⟨leaf_ok (by decide +kernel), by decide +kernel⟩,
    ⟨leaf_ok (by decide +kernel), by decide +kernel⟩, fun s hs => ?_, by decide +kernel⟩
  simp only [List.mem_cons, List.not_mem_nil, or_false] at hs
  rcases hs with rfl | rfl <;> exact ⟨leaf_ok (by decide +kernel), by decide +kernel⟩

/-- A drill whose s scalars are given. -/
def matDr (sr : Tab Word) : Drill := { dr with budget := 30, user := { dr.user with s := sr } }
def matFull (d : Drill) : State := { home d with cores := [(0, { mq := List.replicate 32 { op := 0x302, slot := 0, word := ⟨0, 0, 0, 0, 0, 0, 0, 0, 0, 0⟩ } })] }
def mssa (imm : BitVec 32) : LeafPlan := { op := 0x300, w := ⟨2, 0, 32, 4, 0, 0, 0, 0, 0, imm⟩ }
def mload : LeafPlan := { op := 0x303, w := ⟨1, 4, 0, 0, 0, 0, 0, 11, 4, 5⟩ }
theorem wit_LeafMatrixWords :
    (let d := matDr [(4, 0x40)]
     LeafIssues (mssa 0x80000000) (sh (mssa 0x80000000)) (home d) d ∧ (matForm (.mssa (mssa 0x80000000).w) (leafOps (mssa 0x80000000) (sh (mssa 0x80000000)) (home d) d)).map (·.twin) = some true ∧ d.twin = false) ∧
    (let d := matDr [(4, 0x20)]
     LeafIssues (mssa 0) (sh (mssa 0)) (home d) d ∧ (matForm (.mssa (mssa 0).w) (leafOps (mssa 0) (sh (mssa 0)) (home d) d)).map (fun f => (f.twin, f.fblk)) = some (false, 0x20)) ∧
    (∀ x ∈ ([(0x1800010, 0), (0x1800020, 4), (0x1830000, 0), (0x1800000, 0x1830000), (0x1800000, 0x1810000)] : List (Word × Word)),
     let d := matDr [(4, x.1), (5, x.2)]
     LeafIssues mload (sh mload) (home d) d ∧ (matForm (.mload mload.w) (leafOps mload (sh mload) (home d) d)).map (fun f => (f.twin, f.fblk, f.addr, f.bytes, f.align, f.bar)) = some (false, 0, x.1, 4096, 32, x.2)) ∧
    (let d := matDr [(4, 0x1800000), (5, 0x1810000)]
     isOk (benchRange (home d) 0 false 0x1830000 4096) = false ∧ (∀ s ∈ [home d, matFull d], isOk (benchRange s 0 false 0x1800000 4096) = true ∧ isOk (benchRange s 0 false 0x1810000 8) = true) ∧
      isOk (benchRange (home d) 0 false 0x1830000 8) = false ∧ LeafIssues mload (sh mload) (matFull d) d ∧ (coreAt (home d) 0).mq.length = 0 ∧ (coreAt (matFull d) 0).mq.length = 32) ∧
    (let d := matDr [(4, 0x40)]
     ∀ p ∈ [{ op := 0x301, w := ⟨3, 0, 16, 4, 0, 1, 0, 9, 0, 0⟩ }, { op := 0x302, w := ⟨3, 0, 0, 0, 0, 0, 0, 0, 0, 0⟩ }, { op := 0x304, w := ⟨3, 0, 0, 0, 0, 1, 0, 11, 0, 0⟩ }], leafOk p (sh p) (home d) d = true) := by
  refine ⟨⟨leaf_ok (by decide +kernel), by decide +kernel, rfl⟩, ⟨leaf_ok (by decide +kernel), by decide +kernel⟩, fun x hx => ?_, ⟨by decide +kernel, by decide +kernel, by decide +kernel, leaf_ok (by decide +kernel), by decide +kernel⟩, by decide +kernel⟩
  simp only [List.mem_cons, List.not_mem_nil, or_false] at hx
  rcases hx with rfl | rfl | rfl | rfl | rfl <;> exact ⟨leaf_ok (by decide +kernel), by decide +kernel⟩

/-- Espalier 0 of TYPE ty, its capacity and fill 4. -/
def espHome (d : Drill) (ty : BitVec 2) : State := { home d with cores := [(0, { espTy := tabSet 0 [] 0 ty, esp := [(0, { ty, cap := 4, n := 4 })] })] }
def eleft : LeafPlan := { op := 0x342, w := ⟨0, 4, 0, 0, 0, 0, 0, 11, 0, 0⟩ }
def einit : LeafPlan := { op := 0x340, w := ⟨0, 0, 0, 0, 0, 0, 0, 12, 0, 0x4002⟩ }
def estat : LeafPlan := { op := 0x345, w := ⟨3, 0, 0, 0, 0, 0, 0, 0, 0, 1⟩ }
def erest : LeafPlan := { op := 0x347, w := ⟨0, 4, 0, 0, 0, 0, 0, 0, 0, 0⟩ }
def withLate (p : LeafPlan) : LeafPlan := { p with late := espLate p.op p.w }
def waiting (op imm : Nat) : MatOp := { op, slot := 0, word := ⟨0, 0, 0, 0, 0, 0, 0, 0, 0, BitVec.ofNat 32 imm⟩ }
/-- A core whose bench holds the status word x at its offset o. -/
def saved (d : Drill) (o x : Nat) (q : List MatOp) (psn : List Nat) : State := { home d with cores := [(0, { bench := cellsWrite [] o 8 x, mq := q, benchPsn := psn })] }
/-- A status word of one espalier of four reflectors, and one of a pair. -/
def area (ty : Nat) : Nat := ty * 2 ^ 62 + 4 * 2 ^ 16 + 4 * 2 ^ 8
/-- A TYPE that does not fit; a panel that is misaligned, outside the bench, in it; ESTAT with and without work before it; and every check of EREST. -/
theorem wit_LeafEspalierWords :
    (wfLeaf 0x341 ⟨0, 2, 4, 0, 0, 0, 0, 11, 0, 0⟩ = true ∧ espTypeAt (home dr) 0 ≠ 1 ∧ wfLeaf 0x345 estat.w = true ∧ espTypeAt (espHome dr 3) 0 = 3 ∧ wfLeaf 0x344 ⟨0, 0, 0, 0, 0, 0, 0, 0, 0, 0x800⟩ = true) ∧
    (∀ a ∈ ([0x1800040, 0x1830000, 0x1800000] : List Word), let d := matDr [(4, a)]
      LeafIssues (withLate eleft) (sh eleft) (espHome d 1) d ∧ (espForm (espHome d 1) (.eleft eleft.w) (leafOps eleft (sh eleft) (espHome d 1) d)).map (·.panel) = some (some (a, 512))) ∧
    (isOk (benchRange (espHome dr 1) 0 false 0x1830000 512) = false ∧ isOk (benchRange (espHome dr 1) 0 false 0x1800000 512) = true) ∧
    (LeafIssues (withLate einit) (sh einit) (home dr) dr ∧ LeafIssues (withLate einit) (sh einit) (matFull dr) dr ∧
      (espForm (home dr) (.einit einit.w) (leafOps einit (sh einit) (home dr) dr)).map (fun f => (f.panel, f.type)) = some (none, some 2)) ∧
    (∀ q ∈ [[], [waiting 0x340 0x401]], LeafIssues (withLate estat) (sh estat) (saved dr 0 0 q []) dr) ∧
    (∀ a ∈ [0x1800040, 0x1830000, 0x1800000, 0x1828000], let d := matDr [(4, BitVec.ofNat 64 a)]
      leafOk erest (sh erest) (home d) d = true) ∧
    (let d := matDr [(4, 0x1800000)]
     (∀ q ∈ [[], [waiting 0x340 0x401], List.replicate 32 (waiting 0x302 0)], ∀ x ∈ [area 0 + 1, area 1], ∀ psn ∈ [[], [0]], leafOk erest (sh erest) (saved d 0 x q psn) d = true ∧
      isOk (benchRange (saved d 0 x q psn) 0 false 0x1800000 0x7080) = true ∧ benchPlace (saved d 0 x q psn) 0 0x1800000 = some (0, 0) ∧ benchRead (saved d 0 x q psn) 0 0 128 = x ∧
      benchPoison (saved d 0 x q psn) 0 0 128 = psn.head?)) ∧
    (let d := matDr [(4, 0x1828000)]
     leafOk erest (sh erest) (saved d 0x28000 (area 2) [] []) d = true ∧ isOk (benchRange (saved d 0x28000 (area 2) [] []) 0 false 0x1828000 0x7080) = true ∧
      benchRead (saved d 0x28000 (area 2) [] []) 0 0x28000 128 = area 2 ∧ isOk (benchRange (saved d 0x28000 (area 2) [] []) 0 false 0x1828000 0xE080) = false) ∧
    SaveArea 0 (area 1) ∧ ¬SaveArea 0 (area 0 + 2 ^ 22) := by
  refine ⟨by decide +kernel, fun a ha => ?_, by decide +kernel, ⟨leaf_ok (by decide +kernel), leaf_ok (by decide +kernel), by decide +kernel⟩, fun q hq => ?_, by decide +kernel, by decide +kernel, by decide +kernel,
    by unfold SaveArea; decide +kernel, by unfold SaveArea; decide +kernel⟩
  · simp only [List.mem_cons, List.not_mem_nil, or_false] at ha
    rcases ha with rfl | rfl | rfl <;> exact ⟨leaf_ok (by decide +kernel), by decide +kernel⟩
  · simp only [List.mem_cons, List.not_mem_nil, or_false] at hq
    rcases hq with rfl | rfl <;> exact leaf_ok (by decide +kernel)

/-! ## Events -/

/-- A routine that waits in the launch queue. -/
def queued : LaunchEnt := { entry := 0x20000, regs := [(2, 5)], fmode := 0, clo := [] }
/-- Any wait of either stream; a queued routine and none that runs; CHK whose entry is struck, with a good and a bad target, or is not; a pre-emption that may be taken, by itself and
on its expiry; a matrix error at either level. -/
theorem wit_DrillEvents :
    (∀ w x, drillAt (home { dr with stemWait := w, leafWait := x }) 0 = some { dr with stemWait := w, leafWait := x }) ∧
    (let d := { dr with user := { queue := [queued] } }
     drillAt (home d) 0 = some d ∧ d.killed = false ∧ routineRuns (leafCtx d) = false ∧ (leafCtx d).queue = queued :: [] ∧ d.live ≠ 0) ∧
    (let d (a : VAddr) := { dr with stemWait := .chk [1] a 0x10004 }
     let s (a : VAddr) (st : BitVec 2) := { home (d a) with cores := [(0, { cloche := [(1, { state := st })] })] }
     (∀ a ∈ [0x10008, 0x8], drillAt (s a 2) 0 = some (d a) ∧ (∀ e ∈ (coreAt (s a 2) 0).cloche, e.1 ∈ [1] → e.2.state ≠ 1) ∧ ∃ e, e ∈ (coreAt (s a 2) 0).cloche ∧ e.1 ∈ [1] ∧ e.2.state = 2) ∧
      stemTargetOk (s 0x10008 2) (d 0x10008) 0x10008 = true ∧ stemTargetOk (s 8 2) (d 8) 8 = false ∧ ∀ e ∈ (coreAt (s 8 3) 0).cloche, e.1 ∈ [1] → e.2.state ≠ 1 ∧ e.2.state ≠ 2) ∧
    (∀ d ∈ [{ dr with preempt := some 1 }, { dr with preempt := some 1, heldIssues := 64, wins := [{ kind := 0, owner := 0, reg := 4, lanes := 0, value := 0, left := 2 }] }], drillAt (home d) 0 = some d ∧ d.preempt = some 1 ∧ d.killed = false ∧ d.due = none ∧
      d.merr = none ∧ d.super = false ∧ trapClear (home d) 0 d = true ∧ (d.wins = [] ∨ 64 ≤ d.heldIssues) ∧ d.stemWait ≠ .retire ∧ portBusy (home d) 0 = false) ∧
    ∀ su, let d := { dr with merr := some 3, super := su }
     drillAt (home d) 0 = some d ∧ d.merr = some 3 ∧ d.due = none ∧ (su = false → trapClear (home d) 0 d = true) := by
  refine ⟨fun w x => rfl, ⟨rfl, rfl, rfl, rfl, by decide⟩, ⟨fun a ha => ?_, by decide +kernel, by decide +kernel, by decide +kernel⟩, fun d hd => ?_, fun su => ⟨rfl, rfl, rfl, fun h => by subst h; decide +kernel⟩⟩
  · simp only [List.mem_cons, List.not_mem_nil, or_false] at ha
    rcases ha with rfl | rfl <;> exact ⟨rfl, by decide +kernel, by decide +kernel⟩
  · simp only [List.mem_cons, List.not_mem_nil, or_false] at hd
    rcases hd with rfl | rfl <;> exact ⟨rfl, rfl, rfl, rfl, rfl, rfl, by decide +kernel, by decide, by decide, by decide +kernel⟩
/-- Job 1 with a released launch at 0x40000, and its record's words. -/
def launched : State :=
  { kin dr [] with drills := [], objs := lineage.filter (fun o => decide (o.1 < 4)) ++ [(4, { lvl := 1, job := 1, die := 0, up := 2, phase := 1, count := 1, released := true, addr := 0x40000, words := rec0.map (BitVec.ofNat 64) })] }
/-- A bind record of drill 0 of bed 0, one unit from unit 0, job 1; with SAVE a · 256 for a restore. -/
def bindW0 (rest : Bool) : Word := if rest then 0x0500000000040000 else 0x0100000000040000
def bindW3 (a : Nat) : Word := BitVec.ofNat 64 (a * 2 ^ 16 + 1)
/-- A phase that has one destination and is not the root. -/
def inPhase (d : Drill) : State :=
  { kin d [] with objs := (lineage.filter (fun o => decide (o.1 < 4))) ++ [(4, { lvl := 1, job := 1, die := 0, up := 2, phase := 6, count := 1, released := true }), (5, { lvl := 0, job := 1, die := 0, up := 4, count := 1 }),
      (6, { lvl := 3, job := 1, die := 0, up := 0, dests := [(1, 0, 0, false)] })] }
theorem wit_DrillLives :
    (recordV (slotRec { launched with dies := [(0, { slots := [(0, 0x0100000000000000, 0, 0, 0)] })] } 0) = true) ∧
    (recordV (slotRec launched 0) = false ∧ twinBusy launched 0 1 = false ∧ bitOf (bindW0 false).toNat 56 = true ∧ recordFits launched 0 0 = false ∧ recordFits launched 0 0x2000000000 = true ∧
      (bindLaunch launched 1 0x40040 0 0 false).isNone = true ∧ (∀ r, (bindLaunch launched 1 0x40000 0 0 r).isSome = true) ∧ bitOf (bindW0 false).toNat 58 = false ∧ bitOf (bindW0 true).toNat 58 = true ∧
      (bedOf launched 4 0).isNone = true) ∧
    (∀ x ∈ [(0x400, true), (0x600, false)], field (bindW3 x.1) 63 16 = x.1 ∧ field (bindW3 x.1) 15 0 = 1 ∧ (bindLaunch launched 1 0x40000 0 0 true).any (fun l =>
      isOk (hubRead (ensureBed (zeroFor launched 0 1 (fun k => decide (0 ≤ k ∧ k < 0 + 1))) 0 1 l.1 0 l.2).1 0 1 true (x.1 * 256) 8) == x.2) = true) ∧
    (let d := { dr with stemWait := .exited, user := {} }
     d.stemWait = .exited ∧ lqstat (leafCtx d) = 0 ∧ countersZero d = true ∧ ∀ s ∈ [kin d [], inPhase d], drillAt s 0 = some d ∧ underWay s 0 = false ∧ ∃ b l g p j, Lineage s d.bed b l g p j) ∧
    (drillAt (kin dr []) 0 = some dr ∧ dr.stemWait ≠ .exited ∧ dr.stemWait ≠ .unbind ∧ (objAt (kin dr []) dr.bed).map (fun o => (o.lvl, o.complete)) = some (0, false)) ∧
    (let d := { dr with stemWait := .unbind }
     drillAt (kin d []) 0 = some d ∧ d.stemWait = .unbind ∧ countersZero d = true ∧ underWay (kin d []) 0 = false) := by
  refine ⟨by decide +kernel, by decide +kernel, by decide +kernel, ⟨rfl, rfl, rfl, fun s hs => ?_⟩, ⟨rfl, by decide, by decide, rfl⟩, rfl, rfl, rfl, rfl⟩
  simp only [List.mem_cons, List.not_mem_nil, or_false] at hs
  rcases hs with rfl | rfl
  · exact ⟨rfl, rfl, _, _, _, _, _, ⟨rfl, rfl⟩, ⟨rfl, rfl⟩, ⟨rfl, rfl⟩, ⟨rfl, rfl⟩, ⟨rfl, rfl⟩, fun o h => by obtain rfl := Option.some.inj h; rfl⟩
  · exact ⟨rfl, rfl, _, _, _, _, _, ⟨rfl, rfl⟩, ⟨rfl, rfl⟩, ⟨rfl, rfl⟩, ⟨rfl, rfl⟩, ⟨rfl, rfl⟩, fun o h => by obtain rfl := Option.some.inj h; rfl⟩
/-- A launch with a list `deps` that names launch 8, which is open, complete or cancelled. -/
def depends (deps : List Word) (over' cancel' : Bool) : State :=
  { kin dr [] with objs := lineage ++ [(7, { lvl := 1, job := 1, die := 0, up := 2, phase := 1, count := 1, deps }), (8, { lvl := 1, job := 1, die := 0, up := 2, phase := 1, complete := over', cancelled := cancel' })] }
def phaseOf (dests : List (Nat × Nat × Nat × Bool)) : State := { inPhase dr with objs := lineage.filter (fun o => decide (o.1 < 4)) ++ [(6, { lvl := 3, job := 1, die := 0, up := 0, dests })] }
/-- A launch that waits, one that is released and one that is cancelled; an arrival at a destination; a line held back by a store and one that is raised; a device's line; a job; a snapshot
with a drill bound and with none. -/
theorem wit_ObjectEvents :
    (∀ x ∈ [([0x2000010000000008], false, false, Dep.open'), ([0x2000010000000008], true, false, .done), ([0x2000010000000008], true, true, .cancelled)],
      (objAt (depends x.1 x.2.1 x.2.2.1) 7).map (fun o => (o.lvl, o.released, o.complete, decide (o.count ≠ 0), o.deps.map (fun h => depState (depends x.1 x.2.1 x.2.2.1) o.job h.toNat), o.up, o.phase)) =
        some (1, false, false, true, [x.2.2.2], 2, 1)) ∧
    (let s := depends [0x2000010000000008] true true
     (∃ g p j, objAt s 2 = some g ∧ g.lvl = 2 ∧ objAt s 1 = some p ∧ p.lvl = 3 ∧ objAt s (jobAt s 1).obj = some j ∧ j.lvl = 4) ∧ ∀ x, objAt s (jobAt s 1).rootPhase = some x → x.lvl = 3) ∧
    (∃ o, objAt (phaseOf [(1, 0, 0, false)]) 6 = some o ∧ o.dests[0]? = some (1, 0, 0, false)) ∧
    (∃ o, objAt (phaseOf [(0, 0, 0, false)]) 6 = some o ∧ o.dests[0]? = some (0, 0, 0, false) ∧ o.complete = false ∧ phaseTraffic (phaseOf [(0, 0, 0, false)]) 6 0 = false) ∧
    (let s := { inPhase dr with stores := [(0, onWay)], objs := lineage.filter (fun o => decide (o.1 < 4)) ++ [(4, { lvl := 1, job := 1, die := 0, up := 2, phase := 6 }), (5, { lvl := 0, job := 1, die := 0, up := 4 }),
        (6, { lvl := 3, job := 1, die := 0, up := 0, dests := [(0, 0, 0, false)] })] }
     phaseTraffic s 6 0 = true ∧ (objAt s 6).map (·.complete) = some false) ∧
    (∃ o, objAt (phaseOf [(0, 5, 0, false)]) 6 = some o ∧ o.dests[0]? = some (0, 5, 0, false) ∧ o.complete = false) ∧
    (∃ o, objAt (kin dr []) (jobAt (kin dr []) 1).obj = some o ∧ o.lvl = 4 ∧ o.job = 1 ∧ o.complete = false) ∧
    (drillAt (kin dr []) 0 = some dr ∧ dr.job = 1) ∧ ∀ d ∈ (State.reset).drills, d.2.job ≠ 1 := by
  refine ⟨fun x hx => ?_, ⟨⟨_, _, _, rfl, rfl, rfl, rfl, rfl, rfl⟩, fun x h => by obtain rfl := Option.some.inj h; rfl⟩, ⟨_, rfl, rfl⟩, ⟨_, rfl, rfl, rfl, rfl⟩, by decide +kernel, ⟨_, rfl, rfl, rfl⟩, ⟨_, rfl, rfl, rfl, rfl⟩,
    ⟨rfl, rfl⟩, by decide⟩
  simp only [List.mem_cons, List.not_mem_nil, or_false] at hx
  rcases hx with rfl | rfl | rfl <;> rfl

/-- A queue of job 1 at HEAD 0 of the ring at 0x40000, whose first command is cmd; a semaphore at 5 stands at 0x40040, a launch record at 0x40080. -/
def ring0 : Queue := { qid := 1, job := 1, ring := 0x40000, log2n := 4, tail := 1 }
def qs (cmd : List Nat) (q : Queue) (up : List Nat) : State :=
  { kin dr ((below 8).map (fun i => cmd.getD i 0) ++ [5, 0, 0, 0, 0, 0, 0, 0] ++ rec0) with drills := [], dies := [(0, { queues := [(0, q)] })], hokuxUp := up }
/-- The state, OP and words of the first command. -/
def head0 (cmd : List Nat) (q : Queue) (up : List Nat) : Option (State × Nat × List Nat) :=
  match headCommand (qs cmd q up) 0 0 with | .words u op w => some (u, op, w) | _ => none
theorem head_0 {cmd : List Nat} {q : Queue} {up : List Nat} {r : State × Nat × List Nat} (h : head0 cmd q up = some r) : headCommand (qs cmd q up) 0 0 = .words r.1 r.2.1 r.2.2 := by
  unfold head0 at h
  revert h
  cases headCommand (qs cmd q up) 0 0 <;> simp
  rintro rfl; exact ⟨rfl, rfl, rfl⟩
def word0 (op va : Nat) : Nat := op * 2 ^ 56 + va
/-- What the record read by a queue's LAUNCH at va is: good, with a free entry, or else. -/
def queueReads (s : State) (va : Nat) : Bool := match readRecord (ensureJob s 1 0) 0 1 false va none (jobAt (ensureJob s 1 0) 1).rootPhase with | .ok u _ _ _ => decide (openLaunches u 0 < launchEntries) | _ => false
/-- Whether the store of a signal translates, and what a semaphore holds. -/
def signals (s : State) (va : Nat) : Bool := match semRead s 0 1 va with | some (v, r) => decide (bitsOf r 0 64 = 5) && (match translateNow v 0 1 false .store va with | (.hit pa _, _) => decide (pa = va) | _ => false) | none => false
/-- The commands, each at its HEAD, with what decides it: NOP; LAUNCH of a misaligned, a good and a bad record; WAIT on no semaphore, on one that has come and on one that has not;
SIGNAL behind an open launch and behind none; XFER while one is out, out of range, with no link, to go, and from memory that does not translate. -/
theorem wit_QueueEvents :
    (∀ x ∈ [([word0 0 0], ring0, 0, [word0 0 0]), ([word0 0 8], ring0, 0, [word0 0 8]), ([word0 1 0x40080], ring0, 1, [word0 1 0x40080]), ([word0 1 0x40088], ring0, 1, [word0 1 0x40088]), ([word0 1 0x40180], ring0, 1, [word0 1 0x40180]),
      ([word0 1 0x40080, 1], ring0, 1, [word0 1 0x40080, 1]), ([word0 2 0x40048, 5], ring0, 2, [word0 2 0x40048, 5]), ([word0 2 0x40040, 5], ring0, 2, [word0 2 0x40040, 5]), ([word0 2 0x40040, 6], ring0, 2, [word0 2 0x40040, 6]),
      ([word0 3 0x40040, 6], { ring0 with launches := [0x2000010000000004] }, 3, [word0 3 0x40040, 6]), ([word0 3 0x40040, 6], ring0, 3, [word0 3 0x40040, 6]), ([word0 3 0x40044, 6], ring0, 3, [word0 3 0x40044, 6]),
      ([word0 4 0x40000, 2 ^ 52, 128], { ring0 with xfer := true }, 4, [word0 4 0x40000, 2 ^ 52, 128]), ([word0 4 0x40000, 0, 128], ring0, 4, [word0 4 0x40000, 0, 128]), ([word0 4 0x40000, 2 ^ 52, 128], ring0, 4, [word0 4 0x40000, 2 ^ 52, 128]),
      ([word0 4 0x60000, 2 ^ 52, 128], ring0, 4, [word0 4 0x60000, 2 ^ 52, 128]), ([word0 4 0x40000, 2 ^ 52, 128, 1], ring0, 4, [word0 4 0x40000, 2 ^ 52, 128, 1])],
      ∀ up ∈ [[], [3]], (head0 x.1 x.2.1 up).map (fun r => (r.2.1, r.2.2)) = some (x.2.2.1, (below 8).map (fun i => x.2.2.2.getD i 0)) ∧ (head0 x.1 x.2.1 up).any (fun r => decide (r.1 = qs x.1 x.2.1 up)) = true) ∧
    (let s := qs [word0 1 0x40080] ring0 []
     queueReads s 0x40080 = true ∧ queueReads s 0x40180 = false ∧ semRead s 0 1 0x40048 = none ∧ signals s 0x40040 = true ∧ launchOver s 1 0x2000010000000004 = false ∧
      (∀ b, 0x40040 ≤ b → b < 0x40048 → AtHome s (b / 128)) ∧ isOk (hubRead s 0 1 false 0x60000 8) = false ∧ ∀ d ∈ s.dies, ∀ y ∈ d.2.queues, ∀ i < min (bitsOf 5 448 4) 12, y.2.qid ≠ bitsOf 5 (64 + 32 * i) 32) ∧
    (let s := qs [] { ring0 with xfer := true } []
     ∃ x, queueAt s 0 0 = some x ∧ x.xfer = true ∧ (dieAt s 0).queues.find? (fun e => decide (e.2.pair = 0)) = some (0, x)) ∧
    ((tierOf 0x40000).isSome = true ∧ inHubWindow 0x40000 = false ∧ tierOf 0xFFFFFFFFFFFFFFFF = none ∧ ∀ l, AtHome State.reset l) ∧
    (let s (v : Vec) : State := { dies := [(0, { mailLine := [(3, v)], seqSeen := [(3, 1)] })] }
     (∀ v, (∀ e ∈ (dieAt (s v) 0).queues, e.2.pair ≠ 3) ∧ (below 64).find? (fun k => (tabFind (dieAt (s v) 0).queues k).isNone) = some 0 ∧ tabGet 0 (dieAt (s v) 0).mailLine 3 = v) ∧
      mailOk (BitVec.ofNat 1024 (4 * 2 ^ 160)) = true ∧ mailOk 0 = false ∧ tabGet 0 (dieAt (s 0) 0).seqSeen 3 = bitsOf (2 ^ 32) 32 32 ∧ tabGet 0 (dieAt (s 0) 0).seqSeen 3 ≠ bitsOf (2 ^ 33) 32 32) := by
  refine ⟨by decide +kernel, ⟨by decide +kernel, by decide +kernel, by decide +kernel, by decide +kernel, by decide +kernel, fun b _ _ => ⟨rfl, by simp [hubOwner, qs, kin, home, tabFind]⟩, by decide +kernel, by decide +kernel⟩, ⟨_, rfl, rfl, rfl⟩,
    ⟨by decide +kernel, by decide +kernel, by decide +kernel, fun l => ⟨rfl, rfl⟩⟩, fun v => ⟨by simp [dieAt, tabGet, tabFind], rfl, rfl⟩, by decide +kernel⟩

/-- The conditions of HasRight, as a computation. -/
def rightOk (s : State) (die line : Nat) (own : Bool) : Bool :=
  reachable s line && !heldFor s die line && (decide (hubState s die line = .m ∨ hubState s die line = .e) || (!own && decide (hubState s die line ≠ .i)))
theorem right_ok {s : State} {die line : Nat} {own : Bool} (h : rightOk s die line own = true) : HasRight s die line own := by
  simpa [rightOk, HasRight, and_assoc, or_assoc] using h
theorem no_right {s : State} {die line : Nat} {own : Bool} (h : rightOk s die line own = false) : ¬HasRight s die line own := fun k => by
  rw [show rightOk s die line own = true by simpa [rightOk, HasRight, and_assoc, or_assoc] using k] at h; cases h
/-- Two sibling regions without a conflict in the last 5,000 operations. -/
def calm : Die := { ops := 5000, regions := [{ base := 0x50000, size := 128, wts := 3, rts := 4 }, { base := 0x50080, size := 128, wts := 5, rts := 5 }] }
/-- A hub without the right to a line; the right with a lease that keeps to the limit, and one that does not; a store; what comes back to a tile; a verdict; a lone access; siblings; a die with drills
and one with none. -/
theorem wit_HubEvents :
    (hubAsk State.reset (.hubFill 4 0xA00 3072 1 4) = some (.hubFill 4 0xA00 3072 1 4, 1, 0xA00, false) ∧ reachable State.reset 0xA00 = true ∧ ¬HasRight State.reset 1 0xA00 false) ∧
    (HasRight State.reset 0 0xA00 false ∧ ∀ x ∈ [(1, true), (2 ^ 48, false)], let h := holdLine State.reset 0 0xA00
      hubAsk State.reset (.hubFill 0 0xA00 0 x.1 4) = some (.hubFill 0 0xA00 0 x.1 4, 0, 0xA00, false) ∧ (hubLease (.hubFill 0 0xA00 0 x.1 4)).isSome = true ∧
      decide (max (hubOp (dieAt h 0) 0 0xA00 false).2.rts (x.1 + 4) ≤ stampLimit) = x.2) ∧
    (let s := { home dr with stores := [(0, onWay)] }
     tabFind s.stores 0 = some onWay ∧ HasRight s 0 0xA00 true ∧ max ((hubOp (dieAt (holdLine s 0 0xA00) 0) 0 0xA00 true).2.rts + 1) 0 ≤ stampLimit ∧ privateCopies s 0xA00 = [] ∧ drillAt s onWay.slot = some dr ∧ dr.due = none) ∧
    (let s := withCopy dr 0xA00 { shared := true }
     ∃ t, tabFind (clAt s 0).tiles (0xA00 / 16) = some t ∧ (tabGet { shared := true } t.lines 0xA00).shared = true) ∧
    (let s := withCopy dr 0x800 {}
     HasRight s (dieOfCl 0) 0x800 true ∧ ∃ t, tabFind (clAt s 0).tiles (0x800 / 16) = some t ∧ (tabGet {} t.lines 0x800).shared = false) ∧
    (let s := { home dr with cores := [(0, { cloche := [(1, { state := 1, line := 0xA00 })] })] }
     ∃ x, tabFind (coreAt s 0).cloche 1 = some x ∧ x.state = 1 ∧ drillAt s (16 * 0 + x.ctx) = some dr ∧ (jobAt s dr.job).replay = .free) ∧
    (let a : Access := { slot := 0, leaf := false, tile := 0x80, byMod := false }
     let s := { home dr with cores := [(0, { queue := [a] })] }
     (coreAt s 0).queue.head? = some a ∧ (∀ k, k / 48 = 0 → k ≠ 0 → (coreAt s k).queue = []) ∧ chaseHeld (clAt s 0) a = false ∧ drillAt s a.slot = some dr ∧ (jobAt s dr.job).replay = .free) ∧
    (let s : State := { dies := [(0, calm)] }
     ∃ a b, (dieAt s 0).regions.find? (fun r => decide (r.base = 0x50000 ∧ r.size = 128)) = some a ∧ (dieAt s 0).regions.find? (fun r => decide (r.base = 0x50000 + 128 ∧ r.size = 128)) = some b ∧ siblings a b = true ∧
      4096 ≤ (dieAt s 0).ops - a.lastConflict ∧ 4096 ≤ (dieAt s 0).ops - b.lastConflict) ∧
    (drillAt (home dr) 0 = some dr ∧ dieOf 0 = 0 ∧ ∀ e ∈ (home dr).drills, dieOf e.1 ≠ 1) := by
  refine ⟨⟨rfl, by decide +kernel, no_right (by decide +kernel)⟩, ⟨right_ok (by decide +kernel), by decide +kernel⟩, ⟨rfl, right_ok (by decide +kernel), by decide +kernel, rfl, rfl, rfl⟩, ⟨_, rfl, by decide +kernel⟩,
    ⟨right_ok (by decide +kernel), _, rfl, by decide +kernel⟩, ⟨_, rfl, rfl, rfl, rfl⟩, ⟨rfl, fun k _ h => ?_, by decide +kernel, rfl, rfl⟩, ⟨_, _, rfl, rfl, by decide +kernel, by decide +kernel, by decide +kernel⟩, rfl, rfl, by decide +kernel⟩
  simp [coreAt, tabGet, tabFind, h.symm]

/-- Job 1 maps VA 0x40000 to frame 0x40000 by the entry at 0x80080, whose word 1 is y. -/
def mapped (y : Nat) : State :=
  { kin dr [] with jobs := [(1, { rootOk := true, tvec := 0x18000, ntbase := 0x80000, nb := 2, szmask := 1 })], mem := cellsWrite [] 0x80080 16 (2 ^ 63 + 0x40000 + y * 2 ^ 64), cores := [] }
def withMove (m : Move) (y : Nat) : State := { mapped y with dies := [(0, { move := some m })] }
def move0 (locked : Word) : Move := { job := 1, va := 0x40000, pte := 0x80080, frame := 0x90000, old := 0x40000, size := 65536, locked }
def benchMapped (va : VAddr) (dirty : List Nat) : State := { mapped 0x200000000004003C with cores := [(0, { bmap := [(0, { off := 0, len := 2048, va, job := 1, present := [0], dirty })] })] }
theorem at_home {s : State} {l : Nat} (h1 : s.clusters = []) (h2 : ∀ d ∈ s.dies, d.2.lines = []) : AtHome s l := by
  refine ⟨by simp [privateCopies, h1], ?_⟩
  have : s.dies.filterMap (fun d => if d.1 = homeOf s (l * 128) then none else match tabFind d.2.lines l with | some h => if h.st = .m ∨ h.st = .o then some h else none | none => none) = [] := by
    simp only [List.filterMap_eq_nil_iff]
    intro d hd
    split
    · rfl
    · simp [h2 d hd, tabFind]
  unfold hubOwner
  rw [List.head?_eq_none_iff]
  exact this
theorem no_poison {s : State} (h1 : s.clusters = []) (h2 : s.psn = []) (h3 : ∀ d ∈ s.dies, d.2.lines = []) (a : Nat) : freshPsn s a = false := by
  simp [freshPsn, privateCopies, h1, h2, (at_home h1 h3 (l := a / 128)).2]
/-- A page without an owner and one with, not in use; a walk that finds and one that does not; a ring with room; a bench map; an entry without dirty tiles, with one that can be written back and with
one that cannot; a move that may begin, is not the one under way, is undone or goes through; and a shootdown. -/
theorem wit_PageEvents :
    (bitOf (freshRead (mapped 0x200000000004003C) 0x80088 8) 59 = false) ∧
    (let s := mapped 0x280000000004003C
     let w := freshRead s 0x80088 8
     bitOf w 60 = false ∧ bitOf w 59 = true ∧ bitOf w 63 = false ∧ HomeRange s 0x80088 8 ∧ pteRange s 0x80080 = (0x40000, 0x50000) ∧ (clAt s (bitsOf w 55 4)).order.any (fun a => decide (0x40000 ≤ a.2.2 * 2048 ∧ a.2.2 * 2048 < 0x50000)) = false) ∧
    (let s := mapped 0x200000000004003C
     (jobAt s 1).rootOk = true ∧ bitOf (64 * 4096) 55 = false ∧ nativeWalk s 1 (64 * 4096) = some { tPrivate with pte := some 0x80080 } ∧ nativeWalk s 1 (96 * 4096) = none ∧ (jobAt s 2).rootOk = false) ∧
    ((tabGet [] (dieAt State.reset 3).pool 2).length < 4096 ∧ 0x40000000 % 2 ^ shiftOf 2 = 0 ∧ (let d := { dr with stemWait := .pool 0 2 4 }; drillAt (home d) 0 = some d)) ∧
    (benchSize State.reset 0 = 0x30000 ∧ 0x2F800 + 2048 ≤ benchSize State.reset 0 ∧ (0x0FFFFFFFFFF800 : VAddr).toNat + 2048 ≤ 2 ^ 56) ∧
    ((∃ b, tabFind (coreAt (benchMapped 0x40000 []) 0).bmap 0 = some b ∧ b.dirty = []) ∧
      (∀ va ∈ [(0x40000, true), (0x60000, false)], ∃ b, tabFind (coreAt (benchMapped va.1 [0]) 0).bmap 0 = some b ∧ b.dirty = [0] ∧ (tileBack (benchMapped va.1 [0]) 0 0 b).isSome = va.2)) ∧
    (let s := mapped 0x200000000004003C
     let x : Trans := { tPrivate with pte := some 0x80080 }
     (dieAt s 0).move = none ∧ nativeWalk s 1 0x40000 = some x ∧ x.shift ≤ 21 ∧ bitOf (freshRead s 0x80088 8) 63 = false ∧ 0x90000 % 2 ^ x.shift = 0 ∧ nearFrame x.frame = true ∧ nearFrame 0x90000 = true ∧
      nearFrame (0x90000 + 2 ^ x.shift - 1) = true ∧ x.frame + 2 ^ x.shift ≤ 0x90000 ∧ HomeRange s 0x80088 8) ∧
    (let s := withMove (move0 1) 0xA00000000004003C
     (dieAt s 0).move = some (move0 1) ∧ moveBusy s (move0 1) = false ∧ NoTiles s 0x40000 0x50000 ∧ HomeRange s 0x80088 8 ∧ freshRead s 0x80088 8 ≠ (move0 1).locked.toNat ∧ (move0 1).va ≠ 0x50000) ∧
    (let m := move0 0xA00000000004003C
     let s := withMove m 0xA00000000004003C
     (dieAt s 0).move = some m ∧ moveBusy s m = false ∧ m.old % 2048 = 0 ∧ NoTiles s m.old (m.old + m.size) ∧ HomeRange s (m.pte + 8) 8 ∧ HomeRange s m.frame m.size ∧ (∀ k, k < m.size / 32 → freshPsn s (m.old + 32 * k) = false) ∧
      freshRead s (m.pte + 8) 8 = m.locked.toNat ∧ m.pte + 16 ≤ m.frame) ∧
    (∃ x, tabFind ({ shoots := [(0, { slot := 0, job := 1, lo := 0x40000, len := 65536, scope := 5, await := [1, 2] })] } : State).shoots 0 = some x) := by
  have h : ∀ y, (mapped y).clusters = [] ∧ (mapped y).psn = [] ∧ ∀ d ∈ (mapped y).dies, d.2.lines = [] := fun y => ⟨rfl, rfl, by simp [mapped, kin, home]⟩
  have k : ∀ m y, (withMove m y).clusters = [] ∧ (withMove m y).psn = [] ∧ ∀ d ∈ (withMove m y).dies, d.2.lines = [] := fun m y => ⟨rfl, rfl, by simp [withMove]⟩
  have n : ∀ m y lo hi, NoTiles (withMove m y) lo hi := fun m y lo hi => by intro c hc; rw [(k m y).1] at hc; cases hc
  refine ⟨by decide +kernel, ⟨by decide +kernel, by decide +kernel, by decide +kernel, fun b _ _ => at_home (h _).1 (h _).2.2, by decide +kernel, by decide +kernel⟩, by decide +kernel,
    ⟨by decide +kernel, by decide, rfl⟩, by decide +kernel, ⟨⟨_, rfl, rfl⟩, fun va hv => ?_⟩, ⟨rfl, by decide +kernel, by decide, by decide +kernel, by decide, by decide +kernel, by decide +kernel, by decide +kernel, by decide, fun b _ _ => at_home (h _).1 (h _).2.2⟩,
    ⟨rfl, by decide +kernel, n _ _ _ _, fun b _ _ => at_home (k _ _).1 (k _ _).2.2, by decide +kernel, by decide⟩,
    ⟨rfl, by decide +kernel, by decide, n _ _ _ _, fun b _ _ => at_home (k _ _).1 (k _ _).2.2, fun b _ _ => at_home (k _ _).1 (k _ _).2.2, fun _ _ => no_poison (k _ _).1 (k _ _).2.1 (k _ _).2.2 _, by decide +kernel, by decide⟩, _, rfl⟩
  simp only [List.mem_cons, List.not_mem_nil, or_false] at hv
  rcases hv with rfl | rfl <;> exact ⟨_, rfl, rfl, by decide +kernel⟩

/-- A module whose die 0 is home to line 0xA00 with this request in progress and this directory entry. -/
def homeLine (b : Option Busy) (x : DirEnt) : State := { dies := [(0, { busy := (b.map (fun y => (0xA00, y))).toList, dir := if x.holders = 0 then [] else [(0xA00, x)] })] }
/-- A hub holds line 0xA00. -/
def hubLine (die : Nat) (st : LineSt) : State := { dies := [(die, { lines := [(0xA00, { st, data := 5 })] })] }
theorem servable {s : State} {line y : Nat} (h : (busyAt s line).isNone = true ∧ (victimOf s line y).isNone = true ∧ tierOf (line * 128) ≠ some 2) : Servable s line y := by
  simpa [Servable] using h
/-- The conditions of DirOk, as a computation. -/
def dirOk (s : State) (line : Nat) : Bool := match (dirAt s line).owner with | some (o, _) => hasBit (dirAt s line).holders o | none => true
theorem dir_ok {s : State} {line : Nat} (h : dirOk s line = true) : DirOk s line := by
  intro o st k
  simpa [dirOk, k] using h
def asks0 : Remote := { slot := 0, leaf := false, kind := 0, op := 0, pa := 0x50000, size := 8, arg := 5, hub := 0 }
/-- A request behind another; one that the home serves for a hub and for itself; an owner elsewhere, other holders; holders that have the line in each way, and that have not; data that comes; the acknowledgement
that ends a request, one that is not the last, and one that lets the home go on; dirty and clean lines given up; an atomic held, performed and answered. -/
theorem wit_CoherenceEvents :
    (hubRequest (.rdx 0xA00 1) = some (.rdx 0xA00 1, 0xA00, 1, 1) ∧ (busyAt (homeLine (some { kind := 0, req := 2 }) {}) 0xA00).isSome = true) ∧
    (∀ y ∈ [0, 1], Servable State.reset 0xA00 y ∧ hubOwner State.reset 0xA00 = none ∧ ∀ a, a < 5 → a ≠ y → agentState State.reset 0xA00 a = .i) ∧ homeOf State.reset (0xA00 * 128) = 0 ∧
    (let s := homeLine none { holders := 4, owner := some (2, .m) }
     Servable s 0xA00 1 ∧ isOwner (agentState s 0xA00 2) = true ∧ (∀ a, a < 5 → a ≠ 1 → a ≠ 2 → isOwner (agentState s 0xA00 a) = false) ∧ ∀ a, ¬toDrop s 0xA00 1 a) ∧
    (let s := homeLine none { holders := 0x1C }
     Servable s 0xA00 1 ∧ (∀ a, a < 5 → a ≠ 1 → isOwner (agentState s 0xA00 a) = false) ∧ toDrop s 0xA00 1 4) ∧
    (∀ st, tabFind (dieAt (hubLine 2 st) 2).lines 0xA00 = some { st, data := 5 } ∧ homeOf (hubLine 2 st) (0xA00 * 128) = 0 ∧ tabFind (hubLine 2 st).hostSide 0xA00 = none ∧ DirOk (hubLine 2 st) 0xA00) ∧
    (tabFind (dieAt State.reset 1).lines 0xA00 = none ∧ (1 : Nat) ≠ homeOf State.reset (0xA00 * 128)) ∧
    (let s : State := { homeLine (some { kind := 0, req := 1, await := [1], sent := true }) {} with dies := [(0, { busy := [(0xA00, { kind := 0, req := 1, await := [1], sent := true })] }), (1, { lines := [(0xA00, { st := .e, data := 5 })] })] }
     (busyAt s 0xA00).map (fun b => (b.sent, b.req)) = some (true, 1) ∧ tierOf (0xA00 * 128) ≠ some 2 ∧ (tabFind (dieAt s 1).lines 0xA00).map (·.st) = some .e) ∧
    (let s := homeLine (some { kind := 1, req := 1, await := [2, 3] }) { holders := 12 }
     busyAt s 0xA00 = some { kind := 1, req := 1, await := [2, 3] } ∧ DirOk s 0xA00 ∧ [2, 3].filter (fun a => decide (a ≠ 3)) ≠ []) ∧
    (let s := homeLine (some { kind := 1, req := 1, await := [2] }) { holders := 4 }
     busyAt s 0xA00 = some { kind := 1, req := 1, await := [2] } ∧ DirOk s 0xA00 ∧ hubOwner s 0xA00 = none ∧ ∀ a, a < 5 → a ≠ 1 → a ≠ 2 → agentState s 0xA00 a = .i) ∧
    (tabFind ({ remotes := [(3, { asks0 with hub := 1 })] } : State).remotes 3 = some { asks0 with hub := 1 } ∧ reachable { remotes := [(3, { asks0 with hub := 1 })] } 0xA00 = true ∧
      ¬HasRight { remotes := [(3, { asks0 with hub := 1 })] } 1 0xA00 true) ∧
    (let s := { home dr with remotes := [(3, asks0)] }
     HasRight s 0 0xA00 true ∧ bitOf (hubData (holdLine s 0 0xA00) 0 0xA00).2.toNat 0 = false ∧ amoWrite 64 0 0 5 0 = some 5 ∧ max ((hubOp (dieAt (holdLine s 0 0xA00) 0) 0 0xA00 true).2.rts + 1) 0 ≤ stampLimit ∧
      privateCopies s 0xA00 = [] ∧ tabFind s.remotes 3 = some asks0 ∧ drillAt s asks0.slot = some dr) := by
  refine ⟨⟨rfl, rfl⟩, fun y hy => ?_, by decide +kernel, ⟨servable (by decide +kernel), by decide +kernel, by decide +kernel, fun a h => ?_⟩, ⟨servable (by decide +kernel), by decide +kernel, by unfold toDrop; decide +kernel⟩,
    fun st => ⟨rfl, rfl, rfl, dir_ok (by cases st <;> decide +kernel)⟩, by decide +kernel, by decide +kernel, ⟨rfl, dir_ok (by decide +kernel), by decide⟩, ⟨rfl, dir_ok (by decide +kernel), by decide +kernel, by decide +kernel⟩,
    ⟨rfl, by decide +kernel, no_right (by decide +kernel)⟩, right_ok (by decide +kernel), by decide +kernel, rfl, by decide +kernel, rfl, rfl, rfl⟩
  · simp only [List.mem_cons, List.not_mem_nil, or_false] at hy
    rcases hy with rfl | rfl <;> exact ⟨servable (by decide +kernel), by decide +kernel, by decide +kernel⟩
  · have k : ∀ a, a < 5 → ¬(a ≠ 1 ∧ agentState (homeLine none { holders := 4, owner := some (2, .m) }) 0xA00 a ≠ .i ∧
        (a = 4 ∨ isOwner (agentState (homeLine none { holders := 4, owner := some (2, .m) }) 0xA00 a) = false)) := by decide +kernel
    exact k a h.1 h.2

theorem home_same {s t : State} (h : s.mgmt = t.mgmt) (pa : Nat) : homeOf s pa = homeOf t pa := by unfold homeOf poolWindow windowPort; rw [h]
/-- Every row has bits in a filter. -/
theorem row_bits (row : Nat) : rowBits row ≠ 0 := by
  intro h
  have b := (Config.rowHash 0 row).isLt
  have e : ∀ x y z : BitVec 8192, 0 ||| x ||| y ||| z = 0 → x = 0 := fun x y z k => by
    have q : 0#8192 ||| x ||| y ||| z = 0#8192 := k
    simp only [BitVec.or_eq_zero_iff] at q
    exact q.1.1.2
  have k : (BitVec.ofNat 8192 (2 ^ (Config.rowHash 0 row).toNat)).toNat = (BitVec.ofNat 8192 0).toNat := congrArg BitVec.toNat (e _ _ _ h)
  rw [BitVec.toNat_ofNat, Nat.mod_eq_of_lt (Nat.pow_lt_pow_right (by decide) (by simpa using b)), BitVec.toNat_ofNat, Nat.zero_mod] at k
  exact absurd k (Nat.pos_iff_ne_zero.1 (Nat.two_pow_pos _))
/-- A module with this bank in channel 0 of die 0. -/
def bankIn (bank : Nat) (b : Bank) : State := { dies := [(0, { banks := [(bank, b)] })] }
theorem bank_in (bank : Nat) (b : Bank) : bankAt (bankIn bank b) 0 0 bank = b := by simp [bankAt, bankIn, dieAt, tabGet, tabFind]
/-- A fetch of line l on its way. -/
def fetches (l : Nat) : State := { home { dr with tcause := 0x80000038 } with agenda := [.hubFill 0 l 0 1 4], dies := [(0, { retrain := [(0, 7)] })] }
/-- Each class of row; a row that a message needs and one that none needs; a stack with tagged traffic within and past 1 ms, and without; a riser in use and one that is idle; a lone head, one that is old; a copy and a drill to
be struck by an error; a sector with a corrected one. -/
theorem wit_StackEvents :
    (∀ row, rowWindow (bankIn 0 {}) 0 0 0 row = 64 ∧ rowWindow (bankIn 0 { normal := BitVec.allOnes 8192 }) 0 0 0 row = 32 ∧ rowWindow (bankIn 0 { weak := BitVec.allOnes 8192 }) 0 0 0 row = 16) ∧
    (rowWanted State.reset 0 0 0 = false ∧ ∀ l, homeOf State.reset (l * 128) = 0 → channelOf (l * 128) = some 0 →
      rowWanted { bankIn (Config.dramBank l).toNat { openRow := some (Config.dramRow l) } with agenda := [.rds l 1] } 0 0 (Config.dramBank l).toNat = true) ∧ (channelOf (canopyBase)).isSome = true ∧
    (tabFind (dieAt (fetches 0xA00) 0).retrain 0 = some 7 ∧ taggedFor (fetches 0xA00) 0 0 ++ taggedFor (fetches 0xA00) 0 1 = [0] ∧ (fetches 0xA00).cycle < 7 + 3000000 ∧ taggedFor { fetches 0xA00 with agenda := [] } 0 0 = []) ∧
    ((queuedAt (fetches (canopyBase / 128)) 0).all (fun c => decide (c < 256)) = true ∧ (queuedAt (fetches (canopyBase / 128)) 0).length = 1 ∧ 4 ∉ queuedAt State.reset 0) ∧
    (let f : Flit := { dest := 6 }
     eligible { mesh := [(queueKey 5 0 2, [f])] } 5 2 = [(0, 2, f)] ∧ meshQ { mesh := [(queueKey 5 0 2, [{ f with age := 32 }])] } 5 0 2 = [{ f with age := 32 }]) ∧
    ((copyAt (withCopy dr 0x800 {}) 0 (0x80 * 16 + 64 / 128)).isSome = true ∧ drillAt (home dr) 0 = some dr ∧ ∃ x ∈ (coreAt ({ cores := [(0, { soft := [16] })] } : State) 0).soft, x / 8 = 16 / 8) := by
  refine ⟨fun row => ?_, ⟨by decide +kernel, fun l h1 h2 => ?_⟩, by decide +kernel, by decide +kernel, by decide +kernel, by decide +kernel, by decide +kernel, rfl, 16, by decide +kernel⟩
  · have k : filterHas 0 row = false := by rw [filterHas, show (0 : BitVec 8192) &&& rowBits row = 0 from BitVec.zero_and]; exact decide_eq_false (row_bits row).symm
    have a : filterHas (BitVec.allOnes 8192) row = true := by rw [filterHas, BitVec.allOnes_and]; exact decide_eq_true rfl
    have w : ∀ b, weakFilter (bankIn 0 b) 0 0 0 = b.weak := fun b => by rw [weakFilter, bank_in]; exact BitVec.or_zero
    have n : ∀ b, normalFilter (bankIn 0 b) 0 0 0 = b.normal := fun b => by rw [normalFilter, bank_in]; exact BitVec.or_zero
    simp only [rowWindow, w, n, k, a]
    decide
  · simp [rowWanted, dramLines, h2, bankAt, bankIn, dieAt, tabGet, tabFind]
    refine Eq.trans (home_same ?_ _) h1
    rfl

/-- A phase whose destination is another device. -/
def farPhase : Obj := { lvl := 3, job := 1, die := 0, dests := [(0, 5, 0, true), (1, 0, 0, false)] }
/-- A bank of the bench's share on a core with no drill and with one, and a lent one; a die up and one that has failed; images that boot, and do not; a module in recovery and out of it; readings of each level; a bank in use
and one free; an idle and a busy debugger; a log that has no record waiting; the last Hokux port with a phase behind it. -/
theorem wit_ModuleEvents :
    ((0 : Nat) < 8 - (coreAt State.reset 0).lend ∧ (∀ e ∈ State.reset.drills, coreOf e.1 ≠ 0) ∧ (home dr).drills.filter (fun e => decide (coreOf e.1 = 0)) = [(0, dr)] ∧ 8 - (coreAt State.reset 0).lend ≤ 7 ∧ ∀ e ∈ State.reset.drills, clusterOf e.1 ≠ clusterOfCore 0) ∧
    ((dieAt ({ dies := [(1, { failed := true })] } : State) 1).failed = true ∧ (dieAt State.reset 1).failed = false) ∧
    (let im : Image := { verifies := true, version := 7, minimum := 7, failing := none }
     im.verifies = true ∧ im.minimum ≤ im.version ∧ im.failing = none ∧ ({ im with version := 6 } : Image).version < im.minimum) ∧
    (inRecovery State.reset = false ∧ inRecovery { mgmt := { bstat := 0x302 } } = true) ∧
    ((109 < 110) ∧ bankInUse (coreAt State.reset 0) 7 = true ∧ bankInUse (coreAt State.reset 0) 0 = false) ∧
    (State.reset.mgmt.dbgbusy = false ∧ ({ mgmt := { dbgbusy := true, dbgaddr := 0x40000 } } : State).mgmt.dbgbusy = true ∧ powered State.reset 0x40000 = true ∧ powered { dies := [(0, { failed := true })] } 0x40000 = false) ∧
    (anyFailed State.reset = false ∧ (jobAt State.reset 1).logWait = []) ∧
    (let s : State := { hokuxUp := [3, 4] }
     s.hokuxUp.filter (fun p => decide (p ≠ 3)) ≠ [] ∧ State.reset.hokuxUp = []) ∧
    (let s : State := { hokuxUp := [3], objs := [(6, farPhase)] }
     s.hokuxUp.filter (fun p => decide (p ≠ 3)) = [] ∧ s.hokuxUp ≠ [] ∧ (∀ d ∈ s.dies, ∀ q ∈ d.2.queues, q.2.xfer = false) ∧
      s.objs.filter (fun o => decide (o.2.lvl = 3) && !o.2.complete && !o.2.root && o.2.dests.any (fun x => decide (x.2.1 ≠ 0))) = [(6, farPhase)] ∧ objAt s 6 = some farPhase) :=
  ⟨by decide +kernel, by decide +kernel, by decide +kernel, by decide +kernel, by decide +kernel, by decide +kernel, by decide +kernel, by decide +kernel, by decide, by decide, by simp, rfl, rfl⟩

/-- A pool window on port 2 that takes the pool's first 2^30 bytes, and a load there. -/
def pools (r : Remote) : State := { home dr with remotes := [(3, r)], mgmt := { pwin := [(0, BitVec.ofNat 64 (2 ^ 63 + 2 * 2 ^ 60 + poolBase / 2 ^ 30)), (1, BitVec.ofNat 64 (poolBase / 2 ^ 30))] } }
def poolLoad (k : Nat) : Remote := { slot := 0, leaf := false, kind := k, pa := poolBase + 8, size := 8 }
/-- A line outside the module's memory; a line that no hub holds, in a mailbox and out of one; writes of the owner and of a host that holds nothing; a back-invalidation among others and the last; host memory that a hub
waits for; snoops behind a request and of a line that nobody holds; answers of the pool; a window that fails; a port without lines and with one. -/
theorem wit_HostEvents :
    (hostAsk (.hostMemrdA (hostBase / 128)) = some (hostBase / 128) ∧ HostUnmapped State.reset (hostBase / 128) ∧ HostMaps State.reset (canopyTop / 128 - 1) (canopyTop / 128 - 1) ∧
      HostMaps { mgmt := { hdm0 := 0x80000000000, hdm1 := 0x90000000000 } } (0x90000000000 / 128) (canopyBase / 128)) ∧
    (∀ b ∈ [0, 0x50000], let s : State := { dies := [(0, { mailBase := b })] }
     HostMaps s 0xA00 0xA00 ∧ busyAt s 0xA00 = none ∧ victimOf s 0xA00 4 = none ∧ (hubOwner s 0xA00).isNone = true ∧ (∀ a, a < 5 → agentState s 0xA00 a = .i) ∧ DirOk s 0xA00 ∧ mailboxLine s 0xA00 = decide (b ≠ 0)) ∧
    (let s := homeLine none { holders := 16, owner := some (4, .e) }
     isOwner (agentState s 0xA00 4) = true ∧ DirOk s 0xA00) ∧
    (let s := homeLine (some { kind := 1, req := 1, await := [2, 4] }) { holders := 20 }
     busyAt s 0xA00 = some { kind := 1, req := 1, await := [2, 4] } ∧ DirOk s 0xA00 ∧ [2, 4].filter (fun a => decide (a ≠ 4)) ≠ []) ∧
    (busyAt (homeLine (some { kind := 9, req := 4, await := [4] }) { holders := 16 }) 0xA00 = some { kind := 9, req := 4, await := [4] }) ∧
    (let l := hostBase / 128
     let s : State := { dies := [(0, { busy := [(l, { kind := 0, req := 1, await := [5] })] })] }
     busyAt s l = some { kind := 0, req := 1, await := [5] } ∧ homeOf s (l * 128) = 0 ∧ tierOf (l * 128) = some 2 ∧ tabFind s.hostSide l = none ∧ (hubOwner s l).isNone = true ∧ ∀ a, a < 5 → agentState s l a = .i) ∧
    ((∀ k ∈ [0, 2], tabFind (pools (poolLoad k)).remotes 3 = some (poolLoad k) ∧ tierOf (poolLoad k).pa = some 3 ∧ (poolLoad k).answer = none) ∧ drillAt (pools (poolLoad 2)) 0 = some dr ∧ dr.due = none ∧ tierOf asks0.pa ≠ some 3) ∧
    ((pools (poolLoad 0)).remotes = [(3, poolLoad 0)] ∧ poolWindow (pools (poolLoad 0)) (poolBase + 8) = some 0 ∧ ∀ r ∈ State.reset.remotes, ¬(tierOf r.2.pa = some 3 ∧ poolWindow State.reset r.2.pa = some 0)) ∧
    ((∀ e ∈ (dieAt State.reset 0).dir, hasBit e.2.holders 4 = false) ∧ ∀ b ∈ (dieAt State.reset 0).busy, 4 ∉ b.2.await ∧ 5 ∉ b.2.await) ∧
    (let x : DirEnt := { holders := 16, owner := some (4, .e) }
     let s := homeLine none x
     (dieAt s 0).dir = [(0xA00, x)] ∧ homeOf s (0xA00 * 128) = 0 ∧ hasBit x.holders 4 = true ∧ (dieAt s 0).busy = [] ∧ DirOk s 0xA00) := by
  refine ⟨by decide +kernel, fun b hb => ?_, ⟨by decide +kernel, dir_ok (by decide +kernel)⟩, ⟨rfl, dir_ok (by decide +kernel), by decide⟩, rfl, by decide +kernel, ⟨by decide +kernel, rfl, rfl, by decide +kernel⟩, by decide +kernel,
    by decide +kernel, rfl, by decide +kernel, by decide +kernel, rfl, dir_ok (by decide +kernel)⟩
  simp only [List.mem_cons, List.not_mem_nil, or_false] at hb
  rcases hb with rfl | rfl <;> exact ⟨by decide +kernel, by decide +kernel, by decide +kernel, by decide +kernel, by decide +kernel, dir_ok (by decide +kernel), by decide +kernel⟩

/-- A drill with one operation of a class outstanding; its command is at the head of its engine. -/
def busyDr (cls : Nat) : Drill := { dr with oc := [(cls, 1)] }
def engineHome (c : CopyCmd) : State := { home (busyDr c.cls) with clusters := [(0, { engines := [(0, [c])] })] }
def zeroCmd : CopyCmd := { slot := 0, cls := 0, op := 3, dst := 0x8000000001800040, len := 64, moved := 0 }
/-- A command that has moved its bytes; XZERO of 64 bytes of the own bench; MZERO, ECAP and EINIT alone in their queue; and queues with nothing of the drill. -/
theorem wit_EngineEvents :
    (let c := { zeroCmd with moved := 1 }
     engineQ (engineHome c) 0 = [c] ∧ finished c = true ∧ drillAt (engineHome c) 0 = some (busyDr 0)) ∧
    (engineQ (engineHome zeroCmd) 0 = [zeroCmd] ∧ spaceOf zeroCmd.dst = some (.bench 0x1800040) ∧ (spaceOf zeroCmd.src).isSome = true ∧ (∀ i, i < 64 → benchPlace (engineHome zeroCmd) 0 (0x1800040 + i) = some (0, 0x40 + i)) ∧ drillAt (engineHome zeroCmd) 0 = some (busyDr 0)) ∧
    ((∀ c ∈ engineQ (home dr) 0, c.slot ≠ 0) ∧ (coreAt (home dr) 0).mq = []) ∧
    (∀ m ∈ [waiting 0x302 0, waiting 0x344 0x2000, waiting 0x340 0x4000], let s := { home (busyDr 2) with cores := [(0, { mq := [m] })] }
     (coreAt s 0).mq = [m] ∧ coreOf m.slot = 0 ∧ m.twinHalf = false ∧ drillAt s m.slot = some (busyDr 2) ∧ (∀ k ∈ s.drills, k.2.due = none) ∧ (espAt s 0 (espIdx m.word)).ty.toNat < 2 ∧ espF64 m.word = false ∧
      (m.op = 0x302 → m.word.imm = 0)) := by
  refine ⟨⟨rfl, by decide +kernel, rfl⟩, ⟨rfl, by decide +kernel, by decide +kernel, by decide +kernel, rfl⟩, ⟨by decide +kernel, rfl⟩, fun m hm => ?_⟩
  simp only [List.mem_cons, List.not_mem_nil, or_false] at hm
  rcases hm with rfl | rfl | rfl <;> exact ⟨rfl, rfl, rfl, rfl, by decide +kernel, by decide +kernel, by decide +kernel, by decide +kernel⟩

/-! ## The machine as a whole -/

/-- Whether an outcome is a next state, and that state. -/
def next? (o : Host.Outcome State Fault Refusal) : Option State := match o with | .next t => some t | _ => none
theorem next_of {o : Host.Outcome State Fault Refusal} (h : (next? o).isSome = true) : ∃ t, o = .next t := by cases o <;> simp_all [next?]
/-- The machine that reset leaves has the form, and steps. -/
theorem wit_MemoryKeepsForm : Memory.wf State.reset.mem = true ∧ ∃ t, step State.reset = .next t := ⟨by decide, next_of (by decide +kernel)⟩
theorem reset_inv : State.Inv State.reset := by unfold State.Inv; decide
theorem wit_RoundTrip : (Instr.add 4 5 6).wf = true ∧ encode (.add 4 5 6) = some (32, 0x01105180) ∧ (decodeStem 0x01105180).toOption = some (.add 4 5 6) ∧
    (decodeLeaf 0x004101014000014200000000).toOption = some (.vadd ⟨4, 4, 5, 0, 0, 0, 0, 5, 2, 0⟩) := by decide +kernel
/-- What the placed word fetches: 0 the word x, 1 nothing. -/
def fetched (s : State) (leaf : Bool) (n : Nat) : Option Nat :=
  match drillAt s 0 with | some d => (match fetchWord s 0 d leaf 0x10000 n with | .word x => some x | _ => none) | none => none
/-- The state after the turn of slot 0 has come. -/
def turn (s : State) : State := { s with sched := s.sched.drop 1 }
/-- A good and a bad word of each stream at its turn; a PC that leaves its section; a page without a translation; a poisoned word; an event that is due; a message; and none. -/
theorem wit_StepRuns :
    (∀ w ∈ [0x01105180, 0], let s := State.reset.withFetchWord 32 w
      s.sched = .stem 0 :: [] ∧ (drillAt s 0).any (fun d => stemReady (turn s) 0 d && stemTargetOk (turn s) d d.pc.toNat) = true ∧ fetched (turn s) false 4 = some w) ∧
    (∀ w ∈ [0x004101014000014200000000, 0], let s := State.reset.withFetchWord 96 w
      s.sched = .leaf 0 :: [] ∧ (drillAt s 0).any (fun d => leafReady (turn s) 0 d && leafTargetOk (turn s) d (runSplit (leafCtx d)).pc.toNat) = true ∧
        fetched (turn s) true 12 = some ((w / 2 ^ 64) % 2 ^ 32 + (w / 2 ^ 32) % 2 ^ 32 * 2 ^ 32 + w % 2 ^ 32 * 2 ^ 64) ∨ w ≠ 0) ∧
    (∀ pc ∈ [0x10000, 0x20000], let d := { dr with pc := BitVec.ofNat 56 pc, readyStem := 0 }
      let s := { home d with sched := [.stem 0] }
      drillAt s 0 = some d ∧ stemReady (turn s) 0 d = true ∧ stemTargetOk (turn s) d pc = decide (pc = 0x10000) ∧ (pc = 0x10000 → fetched (turn s) false 4 = none)) ∧
    (let s := State.reset.withFetchWord 32 0
     fetched { s with psn := [0x10000 / 32] } false 4 = none) ∧
    (isWord (.dtDrift 0) = false ∧ (Instr.dtDrift 0).wf = true ∧ State.reset.sched = [] ∧ State.reset.agenda = []) ∧
    (dr.killed = false ∧ dr.due = none ∧ dr.merr = none ∧ dr.preempt = none ∧ ∀ e ∈ (home dr).drills, e.2.yields = []) := by
  decide +kernel

/-! ## Ill-formed words: one for each check -/

/-- Stem words: a hose under lookahead; scopes 6 and 7; fence kind 3; a level above 4. -/
theorem test_ill_formed_stem : ∀ i ∈ [Instr.ldI8 48 5 1 0 0, .ldaI64 4 5 0 6 0, .stlI32 6 5 7 0, .ldcI64 63 5 3 0, .ldbN32 48 5 2 0, .amoAdd 4 5 6 6 0, .cas 4 5 6 7 1, .fence 6 0, .fence 0 3,
    .tdist 48 5 1 0, .cancel 5 5, .cntrd 4 5 7, .shoot 5 6 6], i.wf = false := by decide
/-- Leaf words: type, k, rnd, la, md and imm32 out of their rules; each role of a register field; and the rules of single words. -/
theorem test_ill_formed_leaf : ∀ e ∈ ([(0x001, ⟨4, 4, 5, 0, 0, 0, 0, 9, 0, 0⟩), (0x0C0, ⟨5, 9, 8, 0, 1, 0, 0, 0, 0, 0⟩), (0x040, ⟨4, 4, 5, 0, 0, 6, 0, 11, 0, 0⟩), (0x001, ⟨4, 4, 5, 0, 0, 1, 0, 5, 0, 0⟩),
    (0x001, ⟨4, 4, 5, 0, 0, 0, 1, 5, 0, 0⟩), (0x001, ⟨4, 4, 5, 0, 0, 0, 0, 5, 4, 0⟩), (0x001, ⟨4, 4, 5, 0, 0, 0, 0, 5, 0, 1⟩), (0x001, ⟨4, 4, 5, 1, 0, 0, 0, 5, 0, 0⟩), (0x001, ⟨5, 4, 6, 0, 0, 0, 0, 7, 0, 0⟩),
    (0x001, ⟨4, 241, 6, 0, 0, 0, 0, 7, 0, 0⟩), (0x001, ⟨4, 4, 32, 0, 0, 0, 0, 5, 2, 0⟩), (0x180, ⟨4, 240, 6, 0, 0, 0, 0, 15, 0, 0⟩), (0x0C0, ⟨32, 9, 8, 0, 0, 0, 0, 0, 0, 0⟩), (0x140, ⟨16, 12, 13, 0, 0, 0, 0, 0, 0, 0⟩),
    (0x302, ⟨16, 0, 0, 0, 0, 0, 0, 0, 0, 0⟩), (0x300, ⟨1, 0, 32, 4, 0, 0, 0, 0, 0, 0⟩), (0x300, ⟨2, 209, 32, 4, 0, 0, 0, 0, 0, 0⟩), (0x301, ⟨2, 1, 32, 4, 0, 0, 0, 12, 0, 0⟩), (0x20B, ⟨0, 4, 7, 15, 0, 0, 0, 0, 0, 0x70000⟩),
    (0x20B, ⟨0, 4, 7, 8, 0, 0, 0, 0, 0, 0x60000⟩), (0x204, ⟨20, 3, 0, 0, 0, 0, 0, 11, 0, 0x24000000⟩), (0x204, ⟨20, 3, 0, 0, 0, 0, 0, 11, 2, 0x04000000⟩), (0x200, ⟨241, 2, 7, 0, 0, 0, 1, 5, 0, 0⟩), (0x080, ⟨3, 4, 5, 0, 0, 0, 0, 5, 24, 0⟩),
    (0x184, ⟨4, 5, 0, 0, 0, 0, 0, 5, 12, 0⟩), (0x186, ⟨4, 5, 0, 0, 0, 0, 0, 11, 12, 0⟩), (0x209, ⟨4, 5, 6, 7, 0, 0, 0, 5, 0, 0x90000000⟩), (0x209, ⟨4, 5, 6, 7, 0, 0, 0, 5, 24, 0⟩), (0x281, ⟨0, 5, 6, 0, 0, 0, 0, 0, 24, 0⟩),
    (0x089, ⟨96, 112, 240, 44, 0, 0, 0, 14, 0, 0⟩), (0x089, ⟨96, 112, 43, 44, 0, 0, 0, 14, 0, 3⟩), (0x304, ⟨3, 0, 0, 0, 0, 1, 0, 14, 0, 0⟩), (0x304, ⟨3, 0, 0, 0, 0, 1, 0, 9, 8, 0⟩), (0x340, ⟨0, 0, 0, 0, 0, 0, 0, 11, 0, 0⟩),
    (0x340, ⟨0, 0, 0, 0, 0, 0, 0, 12, 0, 0x101⟩), (0x344, ⟨0, 0, 0, 0, 0, 0, 0, 0, 0, 0x2100⟩), (0x000, ⟨0, 0, 0, 0, 0, 0, 0, 0, 0, 0⟩)] : List (Nat × LeafWord)), wfLeaf e.1 e.2 = false := by decide +kernel
/-- Events of parts that the module does not have. -/
theorem test_ill_formed_events : ∀ i ∈ [Instr.dtDrift 12288, .stampRebase 4, .congestionLevelApply 768, .tendrilStep 16, .benchMapWriteback 0 8, .copyRetire 0 4], i.wf = false := by decide

/-! ## Worked cases of the spec -/

/-- The words that the spec's programs show (spec 03, LNOP; 04; 08, Table 8.1; 25). -/
theorem test_worked_words :
    (∀ e ∈ ([(0x2A27FFFE, .ldhi 9 0x3FFFE), (0x22249C78, .ori 9 9 0xC78), (0x90A40116, .sysr 41 0x116), (0x21A280FF, .andi 40 40 0xFF), (0x4D245060, .ldaI64 9 5 0 3 0), (0x51244010, .ldcI64 9 4 0 16), (0x63000003, .chk 3),
      (0x4F305070, .stlI64 12 5 3 16), (0x9702C000, .clsave 44), (0x9802C000, .clrest 44), (0x78AAEB40, .xlin 42 46 45), (0x62000022, .fence 4 2), (0x9102B104, .sysw 43 0x104)] : List (Nat × Instr)), decodeTableWord 32 e.1 = some e.2) ∧
    ∀ e ∈ ([(0x300000000000000000000000, .sadd ⟨0, 0, 0, 0, 0, 0, 0, 0, 0, 0⟩), (0x610180800000014400000000, .vvote ⟨6, 2, 0, 0, 0, 0, 0, 5, 4, 0⟩), (0x614100800000014000000000, .vballot ⟨4, 2, 0, 0, 0, 0, 0, 5, 0, 0⟩),
      (0x61C140800000094000000000, .vred ⟨5, 2, 0, 0, 0, 0, 1, 5, 0, 0⟩)] : List (Nat × Instr)), (decodeLeaf (BitVec.ofNat 96 e.1)).toOption = some e.2 := by decide +kernel
/-- A register of the drill of slot 0 after an instruction. -/
def after (s : State) (i : Instr) : Option Drill := (next? (exec i s)).bind (fun t => drillAt t 0)
def gAfter (s : State) (i : Instr) (r : Nat) : Option Nat := (after s i).map (fun d => (gGet d r).toNat)
def lanesAfter (s : State) (i : Instr) (r : Nat) (ls : List Nat) : Option (List Nat) := (after s i).map (fun d => ls.map (lane (tabGet 0 d.v r)))
/-- LI g9, −5000 (spec 04). -/
theorem test_li : gAfter (home dr) (.ldhi 9 0x3FFFE) 9 = some (2 ^ 64 - 8192) ∧ gAfter (home { dr with g := [(9, BitVec.ofNat 64 (2 ^ 64 - 8192))] }) (.ori 9 9 0xC78) 9 = some 0xFFFFFFFFFFFFEC78 := by decide +kernel
/-- The split A of the worked split of spec 08: lanes 0 to 7 but for lane 3, which has exited; lane l of v1 holds 100 + l, of v3 4l + 3, and v2 and k4, s5, s6 are what later words read. -/
def splitA : Drill :=
  { dr with live := 0xFFFFF7, v := [(1, vecOfLanes (fun l => if l < 24 then 100 + l else 0)), (2, vecOfLanes (fun l => [0, 107, 111, 0, 119, 123, 0, 0].getD l 0)), (3, vecOfLanes (fun l => if l < 24 then 4 * l + 3 else 0))], user := { splits := [(0, { state := 2, pc := 0x20000, em := 0xF7, sm := 0xF7 }), (1, { state := 1, pc := 0x20000, em := 0xFFFF00, sm := 0xFFFF00 })] } }
theorem test_shuffle : lanesAfter (home splitA) (.vshuf ⟨2, 1, 3, 0, 0, 0, 0, 15, 0, 0⟩) 2 [0, 1, 2, 3, 4, 5, 6, 7] = some [0, 107, 111, 0, 119, 123, 0, 0] := by decide +kernel
theorem test_shuffle_up : lanesAfter (home splitA) (.vshfup ⟨9, 2, 0, 0, 0, 0, 0, 15, 0, 1⟩) 9 [0, 1, 2, 3, 4, 5, 6, 7] = some [0, 0, 107, 0, 0, 119, 123, 0] := by decide +kernel
theorem test_ballot_vote_reduce : (after (home splitA) (.vballot ⟨4, 2, 0, 0, 0, 0, 0, 5, 0, 0⟩)).map (fun d => tabGet 0 d.k 4) = some 0x36 ∧
    (after (home splitA) (.vvote ⟨6, 2, 0, 0, 0, 0, 0, 5, 4, 0⟩)).map (fun d => tabGet 0 d.user.s 6) = some 1 ∧ (after (home splitA) (.vred ⟨5, 2, 0, 0, 0, 0, 0, 5, 0, 0⟩)).map (fun d => tabGet 0 d.user.s 5) = some 0x1CC := by decide +kernel
/-- With lookahead 1 the next word of the split sees the earlier value (spec 08; R32). -/
theorem test_lookahead : (after (home splitA) (.vred ⟨5, 2, 0, 0, 0, 0, 1, 5, 0, 0⟩)).map (fun d => (tabGet 0 d.user.s 5, d.wins.length)) = some (0, 1) := by decide +kernel
/-- A drill of lane 0 alone whose registers are given. -/
def lane0 (v : Tab Vec) : Drill := { dr with live := 1, budget := 30, v, user := { splits := [(0, { state := 2, pc := 0x20000, em := 1, sm := 1 })] } }
/-- The worked block of spec 07: 1000.0, −2.25 and 0.01 quantised at 32 elements, dequantised, and requantised to 131. -/
theorem test_block_quantise : let d := lane0 [(0, 0x447A0000), (1, 0xC0100000), (5, 0x3C23D70A)]
    lanesAfter (home d) (.vqblk ⟨64, 0, 0, 96, 0, 1, 0, 14, 0, 0⟩) 64 [0] = some [0x7D] ∧ lanesAfter (home d) (.vqblk ⟨64, 0, 0, 96, 0, 1, 0, 14, 0, 0⟩) 65 [0] = some [0] ∧
    lanesAfter (home d) (.vqblk ⟨64, 0, 0, 96, 0, 1, 0, 14, 0, 0⟩) 96 [0] = some [0x82] ∧ (after (home d) (.vqblk ⟨64, 0, 0, 96, 0, 1, 0, 14, 0, 0⟩)).map (·.fmode) = some 0x100000 := by decide +kernel
theorem test_block_dequantise : let d := lane0 [(64, 0x7D), (96, 0x82)]
    lanesAfter (home d) (.vdqb ⟨128, 64, 96, 0, 0, 1, 0, 14, 0, 0⟩) 128 [0] = some [0x447A0000] ∧ lanesAfter (home d) (.vdqb ⟨128, 64, 96, 0, 0, 1, 0, 14, 0, 0⟩) 129 [0] = some [0] := by decide +kernel
theorem test_block_requantise : let d := lane0 [(64, 0x7D), (96, 0x82), (97, 131)]
    lanesAfter (home d) (.vreqb ⟨64, 64, 96, 97, 0, 1, 0, 14, 0, 0⟩) 64 [0] = some [0x3E] ∧ lanesAfter (home d) (.vreqb ⟨64, 64, 96, 97, 0, 1, 0, 14, 0, 0⟩) 97 [0] = some [0x83] ∧
      (after (home d) (.vreqb ⟨64, 64, 96, 97, 0, 1, 0, 14, 0, 0⟩)).map (·.fmode) = some 0x100000 := by decide +kernel
/-- The worked block and segment of spec 05: 3.0, −0.7 and 100.5 at step 1, then at step 2; 1.0 + 5 · 2⁻⁴ = 1.3125 without a flag. -/
theorem test_quant : e8Of [unpack (fmtOf 11) 0x40400000, unpack (fmtOf 11) 0xBF333333, unpack (fmtOf 11) 0x42C90000] = (127, 0) ∧ quantOne 1 127 (unpack (fmtOf 11) 0x40400000) = (3, 0) ∧
    (quantOne 1 127 (unpack (fmtOf 11) 0xBF333333)).1 = -1 ∧ quantOne 1 127 (unpack (fmtOf 11) 0x42C90000) = (100, flNX) ∧ (requantOne 1 127 128 3).1 = 2 ∧ (requantOne 1 127 128 (-1)).1 = 0 ∧ requantOne 1 127 128 100 = (50, 0) := by decide +kernel
theorem test_segment : ssaSegs 1 [(5, 130, 120)] 0x3F800000 0 = (0x3FA80000, 0) ∧ ssaSegs 1 [(5, 255, 120)] 0x3F800000 0 = (0x7FC00000, flQP) ∧ ssaSegs 1 [(5, 0, 120)] 0x3F800000 0 = (0x3F800000, 0) := by decide +kernel
/-- The home bucket of the first touch of spec 17. -/
theorem test_home_bucket : homeBucket { nb := 16 } 0x123456780040 0 = 0x444C := by decide +kernel

/-! ## Decoding (spec 02 and 03) -/

/-- Words of Table 2.9 with every field set apart decode to their instructions (R40, Table 2.1). -/
theorem test_decode_stem_arith : ∀ e ∈ ([
  (0x01295940, .add 10 21 37), (0x02295940, .sub 10 21 37), (0x03295940, .mul 10 21 37), (0x04295940, .mulh 10 21 37), (0x05295940, .mulhn 10 21 37),
  (0x06295940, .div 10 21 37), (0x07295940, .divn 10 21 37), (0x08295940, .rem 10 21 37), (0x09295940, .remn 10 21 37), (0x0A295940, .and 10 21 37),
  (0x0B295940, .or 10 21 37), (0x0C295940, .xor 10 21 37), (0x0D295940, .shl 10 21 37), (0x0E295940, .shr 10 21 37), (0x0F295940, .sha 10 21 37),
  (0x10295940, .min 10 21 37), (0x11295940, .max 10 21 37), (0x12295940, .minn 10 21 37), (0x13295940, .maxn 10 21 37), (0x14295940, .slt 10 21 37),
  (0x15295940, .sltn 10 21 37), (0x16295940, .seq 10 21 37), (0x17295000, .clz 10 21), (0x18295000, .ctz 10 21), (0x19295000, .popc 10 21),
  (0x1A295945, .addsh 10 21 37 5), (0x20295A5C, .addi 10 21 0xA5C)] : List (Nat × Instr)), decodeTableWord 32 e.1 = some e.2 := by decide +kernel
/-- Words of Table 2.9 with every field set apart decode to their instructions (R40, Table 2.1). -/
theorem test_decode_stem_imm_branch : ∀ e ∈ ([
  (0x21295A5C, .andi 10 21 0xA5C), (0x22295A5C, .ori 10 21 0xA5C), (0x23295A5C, .xori 10 21 0xA5C), (0x2429500B, .shli 10 21 11),
  (0x2529500B, .shri 10 21 11), (0x2629500B, .shai 10 21 11), (0x27295A5C, .slti 10 21 0xA5C), (0x28295A5C, .sltni 10 21 0xA5C),
  (0x29295A5C, .muli 10 21 0xA5C), (0x2A2AB3C5, .ldhi 10 0x2B3C5), (0x2B2AB3C5, .pcadd 10 0x2B3C5), (0x30565C6A, .beq 21 37 0xC6A),
  (0x31565C6A, .bne 21 37 0xC6A), (0x32565C6A, .blt 21 37 0xC6A), (0x33565C6A, .bge 21 37 0xC6A), (0x34565C6A, .bltn 21 37 0xC6A),
  (0x35565C6A, .bgen 21 37 0xC6A), (0x36C3A59D, .jmp 0xC3A59D), (0x37C3A59D, .call 0xC3A59D)] : List (Nat × Instr)), decodeTableWord 32 e.1 = some e.2 := by decide +kernel
/-- Words of Table 2.9 with every field set apart decode to their instructions (R40, Table 2.1). -/
theorem test_decode_stem_memory : ∀ e ∈ ([
  (0x38015A5C, .jr 21 0xA5C), (0x39295A5C, .callr 10 21 0xA5C), (0x40295993, .ldI8 10 21 9 1 19), (0x41295993, .ldI16 10 21 9 1 19),
  (0x42295993, .ldI32 10 21 9 1 19), (0x43295993, .ldI64 10 21 9 1 19), (0x44295993, .ldnN8 10 21 9 1 19), (0x45295993, .ldnN16 10 21 9 1 19),
  (0x46295993, .ldnN32 10 21 9 1 19), (0x482D5093, .stI8 11 21 1 19), (0x492D5093, .stI16 11 21 1 19), (0x4A2D5093, .stI32 11 21 1 19),
  (0x4B2D5093, .stI64 11 21 1 19), (0x4C295993, .ldaN32 10 21 9 4 19), (0x4D295993, .ldaI64 10 21 9 4 19), (0x4E2D5093, .stlI32 11 21 4 19),
  (0x4F2D5093, .stlI64 11 21 4 19), (0x50295913, .ldcN32 10 21 9 19), (0x51295913, .ldcI64 10 21 9 19), (0x52295913, .ldbN32 10 21 9 19),
  (0x53295913, .ldbI64 10 21 9 19), (0x542D5013, .stbI32 11 21 19), (0x552D5013, .stbI64 11 21 19), (0x58295964, .amoAdd 10 21 37 4 1),
  (0x59295964, .amoAnd 10 21 37 4 1), (0x5A295964, .amoOr 10 21 37 4 1), (0x5B295964, .amoXor 10 21 37 4 1), (0x5C295964, .amoMin 10 21 37 4 1),
  (0x5D295964, .amoMax 10 21 37 4 1)] : List (Nat × Instr)), decodeTableWord 32 e.1 = some e.2 := by decide +kernel
/-- Words of Table 2.9 with every field set apart decode to their instructions (R40, Table 2.1). -/
theorem test_decode_stem_sync_engines : ∀ e ∈ ([
  (0x5E295964, .amoMinn 10 21 37 4 1), (0x5F295964, .amoMaxn 10 21 37 4 1), (0x60295964, .amoSwap 10 21 37 4 1), (0x61295964, .cas 10 21 37 4 1),
  (0x62000022, .fence 4 2), (0x63C3A59D, .chk 0xC3A59D), (0x64015000, .cldrop 21), (0x6876B3C5, .lrun 29 0x2B3C5), (0x69000000, .lwait),
  (0x6A280016, .hcnt 10 22), (0x6B280016, .htry 10 22), (0x70295913, .tdist 10 21 9 19), (0x71295013, .tstake 10 21 19),
  (0x72295013, .tunstake 10 21 19), (0x73015013, .ttouch 21 19), (0x74295000, .bresize 10 21), (0x78295940, .xlin 10 21 37),
  (0x79295940, .xstr 10 21 37), (0x7A295940, .xmc 10 21 37), (0x7B295000, .xzero 10 21), (0x7C0008B7, .xwait 2 183)] : List (Nat × Instr)), decodeTableWord 32 e.1 = some e.2 := by decide +kernel
/-- Words of Table 2.9 with every field set apart decode to their instructions (R40, Table 2.1). -/
theorem test_decode_stem_work_system : ∀ e ∈ ([
  (0x7D0158B7, .xyield 21 2 183), (0x80295940, .bari 10 21 37), (0x81295940, .bara 10 21 37), (0x82295940, .barw 10 21 37),
  (0x83295940, .bart 10 21 37), (0x88295000, .launch 10 21), (0x89015003, .cancel 21 3), (0x8A295003, .cntrd 10 21 3), (0x8B295000, .phopen 10 21),
  (0x8C015000, .phwait 21), (0x8D015940, .trayput 21 37), (0x8E280000, .traytake 10), (0x90280A5C, .sysr 10 0xA5C), (0x91015A5C, .sysw 21 0xA5C),
  (0x9202B3C5, .trap 0x2B3C5), (0x93000000, .eret), (0x94000000, .yield), (0x95000000, .exit), (0x96015960, .shoot 21 37 4),
  (0x97015000, .clsave 21), (0x98015000, .clrest 21)] : List (Nat × Instr)), decodeTableWord 32 e.1 = some e.2 := by decide +kernel
/-- Words of Table 3.9 with every field set apart decode to their instructions (R55, Table 3.1). -/
theorem test_decode_leaf_int : ∀ e ∈ ([
  (0x0044488CC014004000000000, .vadd ⟨17, 34, 51, 0, 5, 0, 0, 1, 0, 0⟩), (0x0084488CC014008000000000, .vsub ⟨17, 34, 51, 0, 5, 0, 0, 2, 0, 0⟩),
  (0x00C4488CC01400C000000000, .vmul ⟨17, 34, 51, 0, 5, 0, 0, 3, 0, 0⟩), (0x0104488CC014010000000000, .vmulh ⟨17, 34, 51, 0, 5, 0, 0, 4, 0, 0⟩),
  (0x0144488CD114014000000000, .vmad ⟨17, 34, 51, 68, 5, 0, 0, 5, 0, 0⟩), (0x0184888D0018018000000000, .vand ⟨18, 34, 52, 0, 6, 0, 0, 6, 0, 0⟩),
  (0x01C4888D001801C000000000, .vor ⟨18, 34, 52, 0, 6, 0, 0, 7, 0, 0⟩), (0x0204888D0018040000000000, .vxor ⟨18, 34, 52, 0, 6, 0, 0, 16, 0, 0⟩),
  (0x024488C0001803C000000000, .vnot ⟨18, 35, 0, 0, 6, 0, 0, 15, 0, 0⟩), (0x0284C8CD401C008000000000, .vshl ⟨19, 35, 53, 0, 7, 0, 0, 2, 0, 0⟩),
  (0x02C4C8CD401C00C000000000, .vshr ⟨19, 35, 53, 0, 7, 0, 0, 3, 0, 0⟩), (0x0304C8CD401C010000000000, .vsha ⟨19, 35, 53, 0, 7, 0, 0, 4, 0, 0⟩),
  (0x0344C8CD401C014000000000, .vmin ⟨19, 35, 53, 0, 7, 0, 0, 5, 0, 0⟩), (0x0384C8CD401C018000000000, .vmax ⟨19, 35, 53, 0, 7, 0, 0, 6, 0, 0⟩),
  (0x03C509000020014000000000, .vabs ⟨20, 36, 0, 0, 8, 0, 0, 5, 0, 0⟩), (0x04050900002001C000000000, .vneg ⟨20, 36, 0, 0, 8, 0, 0, 7, 0, 0⟩),
  (0x044509000020020000000000, .vclz ⟨20, 36, 0, 0, 8, 0, 0, 8, 0, 0⟩), (0x048509000020018000000000, .vpopc ⟨20, 36, 0, 0, 8, 0, 0, 6, 0, 0⟩),
  (0x04C4488CC25402C000000000, .vsel ⟨17, 34, 51, 9, 5, 0, 0, 11, 0, 0⟩), (0x1005494D8024824000000000, .vfadd ⟨21, 37, 54, 0, 9, 1, 0, 9, 0, 0⟩),
  (0x1045494D8025028000000000, .vfsub ⟨21, 37, 54, 0, 9, 2, 0, 10, 0, 0⟩), (0x1085494D802582C000000000, .vfmul ⟨21, 37, 54, 0, 9, 3, 0, 11, 0, 0⟩),
  (0x10C5898E11A5830000000000, .vfma ⟨22, 38, 56, 70, 9, 3, 0, 12, 0, 0⟩), (0x1105898E11A602C000000000, .vfms ⟨22, 38, 56, 70, 9, 4, 0, 11, 0, 0⟩),
  (0x1145898E11A6828000000000, .vfnma ⟨22, 38, 56, 70, 9, 5, 0, 10, 0, 0⟩), (0x1185494D80262AC000000000, .vfdiv ⟨21, 37, 54, 0, 9, 4, 5, 11, 0, 0⟩)] : List (Nat × Instr)), decodeTableWord 96 e.1 = some e.2 := by decide +kernel
/-- Words of Table 3.9 with every field set apart decode to their instructions (R55, Table 3.1). -/
theorem test_decode_leaf_float_scalar : ∀ e ∈ ([
  (0x11C5C9C000289AC000000000, .vfsqrt ⟨23, 39, 0, 0, 10, 1, 3, 11, 0, 0⟩), (0x1205C9C00028A2C000000000, .vfrcp ⟨23, 39, 0, 0, 10, 1, 4, 11, 0, 0⟩),
  (0x1245C9C00028AAC000000000, .vfrsq ⟨23, 39, 0, 0, 10, 1, 5, 11, 0, 0⟩), (0x1285C9C00028B2C000000000, .vfexp2 ⟨23, 39, 0, 0, 10, 1, 6, 11, 0, 0⟩),
  (0x12C5C9C00028BAC000000000, .vflog2 ⟨23, 39, 0, 0, 10, 1, 7, 11, 0, 0⟩), (0x13060A0E402C028000000000, .vfmin ⟨24, 40, 57, 0, 11, 0, 0, 10, 0, 0⟩),
  (0x13460A0E402C028000000000, .vfmax ⟨24, 40, 57, 0, 11, 0, 0, 10, 0, 0⟩), (0x13860A000030024000000000, .vfabs ⟨24, 40, 0, 0, 12, 0, 0, 9, 0, 0⟩),
  (0x13C60A000030024000000000, .vfneg ⟨24, 40, 0, 0, 12, 0, 0, 9, 0, 0⟩), (0x14060A000030024000000000, .vfclass ⟨24, 40, 0, 0, 12, 0, 0, 9, 0, 0⟩),
  (0x20034A4E800802DC00000000, .vcmp ⟨13, 41, 58, 0, 2, 0, 0, 11, 28, 0⟩), (0x22064A80000D02C00000000D, .vcvt ⟨25, 42, 0, 0, 3, 2, 0, 11, 0, 13⟩),
  (0x22581C0ACB11838000000001, .vreqb ⟨96, 112, 43, 44, 4, 3, 0, 14, 0, 1⟩),
  (0x22981C000B11838000000002, .vqblk ⟨96, 112, 0, 44, 4, 3, 0, 14, 0, 2⟩), (0x22D8020AC011838000000000, .vdqb ⟨96, 8, 43, 0, 4, 3, 0, 14, 0, 0⟩),
  (0x300682448000000000000000, .sadd ⟨26, 9, 18, 0, 0, 0, 0, 0, 0, 0⟩),
  (0x3046824000000000FFFFFF00, .saddi ⟨26, 9, 0, 0, 0, 0, 0, 0, 0, 0xFFFFFF00⟩), (0x308142448000000000000000, .ssub ⟨5, 9, 18, 0, 0, 0, 0, 0, 0, 0⟩),
  (0x30C142448000000000000000, .smul ⟨5, 9, 18, 0, 0, 0, 0, 0, 0, 0⟩), (0x310142448000000000000000, .sshl ⟨5, 9, 18, 0, 0, 0, 0, 0, 0, 0⟩),
  (0x314147C00000000000000000, .smov ⟨5, 31, 0, 0, 0, 0, 0, 0, 0, 0⟩), (0x40070B000014040000000000, .vmov ⟨28, 44, 0, 0, 5, 0, 0, 16, 0, 0⟩),
  (0x404740000014014089ABCDEF, .vmovi ⟨29, 0, 0, 0, 5, 0, 0, 5, 0, 0x89ABCDEF⟩),
  (0x408780000014000000000000, .vlane ⟨30, 0, 0, 0, 5, 0, 0, 0, 0, 0⟩), (0x40C7C300001402C000000000, .vbcs ⟨31, 12, 0, 0, 5, 0, 0, 11, 0, 0⟩),
  (0x41030B40000001400000001E, .vexs ⟨12, 45, 0, 0, 0, 0, 0, 5, 0, 30⟩)] : List (Nat × Instr)), decodeTableWord 96 e.1 = some e.2 := by decide +kernel
/-- Words of Table 3.9 with every field set apart decode to their instructions (R55, Table 3.1). -/
theorem test_decode_leaf_lanes_memory : ∀ e ∈ ([
  (0x5002C3034000000000000000, .kand ⟨11, 12, 13, 0, 0, 0, 0, 0, 0, 0⟩), (0x5042C3034000000000000000, .kor ⟨11, 12, 13, 0, 0, 0, 0, 0, 0, 0⟩),
  (0x5082C3034000000000000000, .kxor ⟨11, 12, 13, 0, 0, 0, 0, 0, 0, 0⟩), (0x50C2C3000000000000000000, .knot ⟨11, 12, 0, 0, 0, 0, 0, 0, 0, 0⟩),
  (0x5102C3000000000000000000, .kmov ⟨11, 12, 0, 0, 0, 0, 0, 0, 0, 0⟩), (0x514503000000000000000000, .kpopc ⟨20, 12, 0, 0, 0, 0, 0, 0, 0, 0⟩),
  (0x518003000000000000000000, .lmask ⟨0, 12, 0, 0, 0, 0, 0, 0, 0, 0⟩), (0x51C2C0000000000000000000, .lgetm ⟨11, 0, 0, 0, 0, 0, 0, 0, 0, 0⟩),
  (0x60080B8EC01803C000000000, .vshuf ⟨32, 46, 59, 0, 6, 0, 0, 15, 0, 0⟩), (0x60480B80001803C000000011, .vshfup ⟨32, 46, 0, 0, 6, 0, 0, 15, 0, 17⟩),
  (0x60880B80001803C000000012, .vshfdn ⟨32, 46, 0, 0, 6, 0, 0, 15, 0, 18⟩), (0x60C80B80001803C000000013, .vbcl ⟨32, 46, 0, 0, 6, 0, 0, 15, 0, 19⟩),
  (0x61038BC0001803C800000000, .vvote ⟨14, 47, 0, 0, 6, 0, 0, 15, 8, 0⟩), (0x61438BC00018018000000000, .vballot ⟨14, 47, 0, 0, 6, 0, 0, 6, 0, 0⟩),
  (0x61884C00001EB2C800000000, .vscan ⟨33, 48, 0, 0, 7, 5, 6, 11, 8, 0⟩), (0x61C3CC00001EB19400000000, .vred ⟨15, 48, 0, 0, 7, 5, 6, 6, 20, 0⟩),
  (0x8008834F002038E008ABCDEF, .vld ⟨34, 13, 60, 0, 8, 0, 7, 3, 32, 0x8ABCDEF⟩),
  (0x8048834F0020010008ABCDEF, .vst ⟨34, 13, 60, 0, 8, 0, 0, 4, 0, 0x8ABCDEF⟩),
  (0x8088834F00203BC000001230, .vldb ⟨34, 13, 60, 0, 8, 0, 7, 15, 0, 0x1230⟩),
  (0x80C8834F002003C000001230, .vstb ⟨34, 13, 60, 0, 8, 0, 0, 15, 0, 0x1230⟩),
  (0x811003840000384206345678, .vldf ⟨64, 14, 16, 0, 0, 0, 7, 1, 2, 0x6345678⟩),
  (0x81540384000002C225345678, .vstf ⟨80, 14, 16, 0, 0, 0, 0, 11, 2, 0x25345678⟩),
  (0x8189038F4020395000000040, .vlda ⟨36, 14, 61, 0, 8, 0, 7, 5, 16, 64⟩), (0x81C9038F402001D400000040, .vstl ⟨36, 14, 61, 0, 8, 0, 0, 7, 20, 64⟩),
  (0x8209038F40203C0000000040, .vldc ⟨36, 14, 61, 0, 8, 0, 7, 16, 0, 64⟩),
  (0x8249838F5320398C70000040, .vamo ⟨38, 14, 61, 76, 8, 0, 7, 6, 12, 0x70000040⟩)] : List (Nat × Instr)), decodeTableWord 96 e.1 = some e.2 := by decide +kernel
/-- Words of Table 3.9 with every field set apart decode to their instructions (R55, Table 3.1). -/
theorem test_decode_leaf_control_engines : ∀ e ∈ ([
  (0x8289838F53203A0800000040, .vcas ⟨38, 14, 61, 76, 8, 0, 7, 8, 8, 64⟩),
  (0x82C003CF83A40000800A0000, .xidx ⟨0, 15, 62, 14, 9, 0, 0, 0, 0, 0x800A0000⟩),
  (0xA000000000280000FFFFFFF0, .lbr ⟨0, 0, 0, 0, 10, 0, 0, 0, 0, 0xFFFFFFF0⟩),
  (0xA04003C40000001400000077, .sbr ⟨0, 15, 16, 0, 0, 0, 0, 0, 20, 119⟩), (0xA08000000000000000012345, .ljmp ⟨0, 0, 0, 0, 0, 0, 0, 0, 0, 0x12345⟩),
  (0xA0C000000000000000054321, .lcall ⟨0, 0, 0, 0, 0, 0, 0, 0, 0, 0x54321⟩), (0xA10000000000000000000000, .lret ⟨0, 0, 0, 0, 0, 0, 0, 0, 0, 0⟩),
  (0xA14000000000000000000000, .ljoin ⟨0, 0, 0, 0, 0, 0, 0, 0, 0, 0⟩), (0xA18000000000000000000000, .lyield ⟨0, 0, 0, 0, 0, 0, 0, 0, 0, 0⟩),
  (0xA1C000000000000000000000, .lend ⟨0, 0, 0, 0, 0, 0, 0, 0, 0, 0⟩), (0xA2000000002C000000000000, .lexit ⟨0, 0, 0, 0, 11, 0, 0, 0, 0, 0⟩),
  (0xC003101C0440800080000011, .mssa ⟨12, 64, 112, 17, 0, 1, 0, 0, 0, 0x80000011⟩),
  (0xC04358200441024000000012, .mdot ⟨13, 96, 128, 17, 0, 2, 0, 9, 0, 18⟩), (0xC08380000000000000000000, .mzero ⟨14, 0, 0, 0, 0, 0, 0, 0, 0, 0⟩),
  (0xC0C38480000002C400000013, .mload ⟨14, 18, 0, 0, 0, 0, 0, 11, 4, 19⟩), (0xC10384800001824400000014, .mdrain ⟨14, 18, 0, 0, 0, 3, 0, 9, 4, 20⟩),
  (0xD0000000000002C000004003, .einit ⟨0, 0, 0, 0, 0, 0, 0, 11, 0, 0x4003⟩), (0xD0401084C00202C000000002, .eapp ⟨0, 66, 19, 0, 0, 4, 0, 11, 0, 2⟩),
  (0xD0800500000082C400000003, .eleft ⟨0, 20, 0, 0, 0, 1, 0, 11, 4, 3⟩), (0xD0C005000000830000000002, .eright ⟨0, 20, 0, 0, 0, 1, 0, 12, 0, 2⟩),
  (0xD10000000000000000002001, .ecap ⟨0, 0, 0, 0, 0, 0, 0, 0, 0, 0x2001⟩), (0xD14540000000000000000003, .estat ⟨21, 0, 0, 0, 0, 0, 0, 0, 0, 3⟩),
  (0xD18005800000000000000001, .esave ⟨0, 22, 0, 0, 0, 0, 0, 0, 0, 1⟩), (0xD1C005800000000000000002, .erest ⟨0, 22, 0, 0, 0, 0, 0, 0, 0, 2⟩)] : List (Nat × Instr)), decodeTableWord 96 e.1 = some e.2 := by decide +kernel

end Sys2Proof.Tests
end

section
/-!
PROOF. The decoder and the encoder agree (spec 02 and spec 03): what the fields of a word hold, stem words, leaf words, words as bytes, and the statements
about decoding. -/
namespace Sys2Proof

/-! ## The fields of a word -/

theorem fld_self {n : Nat} (w : BitVec n) : fld w 0 n = w := BitVec.extractLsb'_eq_self

/-- The bits of `w` from bit `lo` up are those of the field `x`. -/
def HoldsAt {k n : Nat} (w : BitVec k) (lo : Nat) (x : BitVec n) : Prop := fld w lo n = x

theorem holdsAt_zero {n : Nat} (w x : BitVec n) : HoldsAt w 0 x ↔ w = x := by rw [HoldsAt, fld_self]

theorem holdsAt_append {k m n : Nat} (w : BitVec k) (lo : Nat) (x : BitVec m) (y : BitVec n) :
    HoldsAt w lo (x ++ y) ↔ HoldsAt w (lo + n) x ∧ HoldsAt w lo y := by
  have hjoin : fld w (lo + n) m ++ fld w lo n = fld w lo (m + n) := BitVec.extractLsb'_append_extractLsb'_eq_extractLsb' rfl
  unfold HoldsAt
  rw [← hjoin]
  constructor
  · intro h
    have hx := congrArg (fld · n m) h
    have hy := congrArg (fld · 0 n) h
    simp only [fld, BitVec.extractLsb'_append_eq_left, BitVec.extractLsb'_append_eq_right] at hx hy
    exact ⟨hx, hy⟩
  · rintro ⟨rfl, rfl⟩
    rfl

theorem keep_eq_ok_iff (i j : Instr) : keep i = .ok j ↔ i = j ∧ j.wf = true := by
  unfold keep
  split
  case isTrue hi =>
    simp only [Except.ok.injEq]
    exact ⟨fun e => ⟨e, e ▸ hi⟩, And.left⟩
  case isFalse hi =>
    simp only [reduceCtorEq, false_iff]
    rintro ⟨rfl, hj⟩
    exact hi hj

/-! ## Stem words (spec 02, Tables 2.1 and 2.9) -/

/-- Every field of an encoded stem word stands where the decoder reads it, and the reserved fields are 0. -/
theorem decodeStem_of_encodeStem {i : Instr} {x : BitVec 32} (h : encodeStem i = some x) : decodeStem x = keep i := by
  obtain ⟨w, hw⟩ : ∃ w, w = x := ⟨x, rfl⟩
  rw [← hw]
  rw [← holdsAt_zero] at hw
  cases i <;> cases h
  all_goals
    simp only [holdsAt_append, and_assoc] at hw
    simp only [HoldsAt, Nat.reduceAdd] at hw
    obtain ⟨hop, hw⟩ := hw
    simp only [decodeStem, hop, ← hw]
  -- the words without a reserved field
  case addi | andi | ori | xori | slti | sltni | muli | ldhi | pcadd | beq | bne | blt | bge | bltn | bgen | jmp | call | callr |
      ldaN32 | ldaI64 | chk | lrun =>
    rfl
  all_goals exact if_pos (by simp only [hw, BitVec.ofNat_eq_ofNat, and_self])

/-- The fields that the decoder reads, with the opcode and the zeros that it checks, are all the bits of the word. -/
theorem encodeStem_of_decodeStemOp {op : Nat} {i : Instr} {w : BitVec 32} (hop : fld w 24 8 = BitVec.ofNat 8 op)
    (h : decodeStemOp op w = .ok i) : encodeStem i = some w := by
  revert h
  fun_cases decodeStemOp op w <;> intro h <;> simp only [keep_eq_ok_iff, reduceCtorEq] at h
  all_goals
    obtain ⟨rfl, -⟩ := h
    refine congrArg some ((holdsAt_zero w _).1 ?_).symm
    simp only [holdsAt_append, and_assoc]
    simp only [HoldsAt, Nat.reduceAdd, BitVec.ofNat_eq_ofNat, and_self, *]

theorem encodeStem_of_decodeStem {i : Instr} {w : BitVec 32} (h : decodeStem w = .ok i) : encodeStem i = some w :=
  encodeStem_of_decodeStemOp (by rw [BitVec.ofNat_toNat, BitVec.setWidth_eq]) h

theorem decodeStem_eq_ok_iff (w : BitVec 32) (i : Instr) : decodeStem w = .ok i ↔ i.wf = true ∧ encodeStem i = some w := by
  constructor
  · intro h
    have he := encodeStem_of_decodeStem h
    rw [decodeStem_of_encodeStem he, keep_eq_ok_iff] at h
    exact ⟨h.2, he⟩
  · rintro ⟨hwf, he⟩
    rw [decodeStem_of_encodeStem he, keep_eq_ok_iff]
    exact ⟨rfl, hwf⟩

/-! ## Leaf words (spec 03, Tables 3.1 and 3.9) -/

theorem mkLeaf_eq_some_iff (op : Nat) (f : LeafWord) (i : Instr) : mkLeaf op f = some i ↔ i.leaf? = some (op, f) := by
  constructor
  · intro h
    revert h
    fun_cases mkLeaf op f <;> intro h <;> cases h <;> rfl
  · intro h
    cases i <;> cases h <;> rfl

theorem leaf?_opcode_lt {op : Nat} {f : LeafWord} {i : Instr} (h : i.leaf? = some (op, f)) : op < 2 ^ 10 := by
  cases i <;> cases h <;> decide

theorem holdsAt_packLeaf (op : Nat) (f : LeafWord) (w : BitVec 96) :
    HoldsAt w 0 (packLeaf op f) ↔ fld w 86 10 = BitVec.ofNat 10 op ∧ leafFields w = f := by
  obtain ⟨vd, va, vb, vc, k, rnd, la, ty, md, imm⟩ := f
  simp only [packLeaf, holdsAt_append, and_assoc]
  simp only [HoldsAt, leafFields, LeafWord.mk.injEq, Nat.reduceAdd]

/-- The word of a leaf instruction is the one whose fields are its opcode and its fields. -/
theorem encodeLeaf_eq_some_iff (i : Instr) (w : BitVec 96) :
    encodeLeaf i = some w ↔ i.leaf? = some ((fld w 86 10).toNat, leafFields w) := by
  unfold encodeLeaf
  cases hl : i.leaf? with
  | none => simp only [reduceCtorEq]
  | some p =>
    obtain ⟨op, f⟩ := p
    have hlt := leaf?_opcode_lt hl
    have hop : fld w 86 10 = BitVec.ofNat 10 op ↔ op = (fld w 86 10).toNat := by
      rw [← BitVec.toNat_inj, BitVec.toNat_ofNat, Nat.mod_eq_of_lt hlt, eq_comm]
    simp only [Option.some.injEq, Prod.mk.injEq]
    rw [eq_comm, ← holdsAt_zero, holdsAt_packLeaf, hop, eq_comm (a := f)]

theorem decodeLeaf_eq_ok_iff (w : BitVec 96) (i : Instr) : decodeLeaf w = .ok i ↔ i.wf = true ∧ encodeLeaf i = some w := by
  rw [encodeLeaf_eq_some_iff, ← mkLeaf_eq_some_iff, decodeLeaf]
  cases mkLeaf (fld w 86 10).toNat (leafFields w) with
  | none => simp only [reduceCtorEq, and_false]
  | some j => simp only [keep_eq_ok_iff, Option.some.injEq, and_comm]

/-! ## Words as bytes (spec 00, R5; spec 02, R40) -/

theorem length_bytesOfNat (n x : Nat) : (bytesOfNat n x).length = n := by
  induction n generalizing x with
  | zero => rfl
  | succ n ih => rw [bytesOfNat, List.length_cons, ih]

theorem bitsOfBytes_bytesOfNat (k : Nat) {n x : Nat} (h : x < 256 ^ n) : bitsOfBytes k (bytesOfNat n x) = BitVec.ofNat k x := by
  induction n generalizing x with
  | zero =>
    obtain rfl : x = 0 := by simpa using h
    rfl
  | succ n ih =>
    have hq : x / 256 < 256 ^ n := Nat.div_lt_of_lt_mul (by rwa [← Nat.pow_succ'])
    rw [bytesOfNat, bitsOfBytes, ih hq]
    apply BitVec.eq_of_toNat_eq
    simp only [BitVec.toNat_ofNat, Nat.reducePow]
    rw [Nat.add_mod, Nat.mul_mod, Nat.mod_mod, ← Nat.mul_mod, ← Nat.add_mod, Nat.mod_add_div]

theorem decodeTableWord_stem (w : BitVec 32) : decodeTableWord 32 w.toNat = (decodeStem w).toOption := by
  have hbits : bitsOfBytes 32 (bytesOfNat 4 w.toNat) = w := by
    rw [bitsOfBytes_bytesOfNat 32 w.isLt, BitVec.ofNat_toNat, BitVec.setWidth_eq]
  have htake : (bytesOfNat 4 w.toNat).take 4 = bytesOfNat 4 w.toNat := List.take_of_length_le (Nat.le_of_eq (length_bytesOfNat 4 _))
  simp only [decodeTableWord, decodeStemBytes, length_bytesOfNat, htake, hbits, Nat.le_refl, Nat.lt_irrefl, if_true, if_false]
  cases decodeStem w <;> rfl

theorem decodeTableWord_leaf (w : BitVec 96) : decodeTableWord 96 w.toNat = (decodeLeaf w).toOption := by
  have hbits : bitsOfBytes 96 (bytesOfNat 12 w.toNat) = w := by
    rw [bitsOfBytes_bytesOfNat 96 w.isLt, BitVec.ofNat_toNat, BitVec.setWidth_eq]
  have htake : (bytesOfNat 12 w.toNat).take 12 = bytesOfNat 12 w.toNat := List.take_of_length_le (Nat.le_of_eq (length_bytesOfNat 12 _))
  simp only [decodeTableWord, decodeLeafBytes, length_bytesOfNat, htake, hbits, Nat.reduceLeDiff, Nat.lt_irrefl, if_false]
  cases decodeLeaf w <;> rfl

theorem encode_eq_some_iff (i : Instr) (n w : Nat) :
    encode i = some (n, w) ↔ (∃ x, encodeStem i = some x ∧ n = 32 ∧ w = x.toNat) ∨
      (encodeStem i = none ∧ ∃ x, encodeLeaf i = some x ∧ n = 96 ∧ w = x.toNat) := by
  unfold encode
  cases encodeStem i <;> cases encodeLeaf i <;> simp [eq_comm]

theorem decodeTableWord_encode {i : Instr} {n w : Nat} (hwf : i.wf = true) (h : encode i = some (n, w)) : decodeTableWord n w = some i := by
  obtain ⟨x, he, rfl, rfl⟩ | ⟨-, x, he, rfl, rfl⟩ := (encode_eq_some_iff i n w).1 h
  · rw [decodeTableWord_stem, (decodeStem_eq_ok_iff x i).2 ⟨hwf, he⟩]
    rfl
  · rw [decodeTableWord_leaf, (decodeLeaf_eq_ok_iff x i).2 ⟨hwf, he⟩]
    rfl

/-! ## The statements about decoding -/

/-- Settles O58: a word decodes to exactly the well-formed instruction whose encoding it is, for stem words and for leaf words; the first clause follows through
the bytes of the word. -/
theorem roundTrip : Obligations.RoundTrip :=
  ⟨fun _ _ _ hwf he => decodeTableWord_encode hwf he, fun w i => (decodeStem_eq_ok_iff w i).1, fun w i => (decodeLeaf_eq_ok_iff w i).1⟩

theorem eq_ok_of_toOption_eq_some {ε α : Type} {x : Except ε α} {a : α} (h : x.toOption = some a) : x = .ok a := by
  cases x <;> cases h
  rfl

/-- Settles O60: the decoder is evaluated on each word; that the word is also the encoding of what it decodes to is the agreement of decoder and encoder. -/
theorem decodeWords : Obligations.DecodeWords := by
  have hstem (w : BitVec 32) (i : Instr) (h : (decodeStem w).toOption = some i) : decodeStem w = .ok i ∧ encodeStem i = some w :=
    ⟨eq_ok_of_toOption_eq_some h, encodeStem_of_decodeStem (eq_ok_of_toOption_eq_some h)⟩
  have hleaf (w : BitVec 96) (i : Instr) (h : (decodeLeaf w).toOption = some i) : decodeLeaf w = .ok i ∧ encodeLeaf i = some w :=
    ⟨eq_ok_of_toOption_eq_some h, ((decodeLeaf_eq_ok_iff w i).1 (eq_ok_of_toOption_eq_some h)).2⟩
  refine ⟨fun e he => hstem e.1 e.2 ?_, fun e he => hleaf e.1 e.2 ?_, rfl, rfl, rfl, rfl⟩
  · revert e
    decide
  · revert e
    decide

end Sys2Proof
end

section
/-! PROOF. The sources of a stem word, field by field (spec 02, R38). -/
namespace Sys2Proof.Machine

theorem stemSrcs_pair (s : State) (d : Drill) (a b : BitVec 6) : stemSrcs s d [] [a, b] = [stemSrc s d [] a, stemSrc s d [a] b] := rfl

theorem stemSrc_reg (s : State) (d : Drill) (earlier : List (BitVec 6)) {f : BitVec 6} (hf : f.toNat < 48) :
    stemSrc s d earlier f = gGet d f.toNat := if_pos hf

/-- A field that names a hose reads the entry behind those that the earlier fields pop from it. -/
theorem stemSrc_hose (s : State) (d : Drill) (earlier : List (BitVec 6)) {f : BitVec 6} (hf : ¬ f.toNat < 48) :
    stemSrc s d earlier f = ((hoseQ s d (f.toNat - 48)).getD (countOf (stemHoses earlier) (f.toNat - 48)) 0).setWidth 64 := by
  rw [stemSrc, if_neg hf, List.headD_eq_head?_getD, List.head?_drop, List.getD_eq_getElem?_getD]

/-- One field pops from a hose once if it names it, and else not. -/
theorem countOf_stemHoses_singleton (a : BitVec 6) {b : BitVec 6} (hb : ¬ b.toNat < 48) :
    countOf (stemHoses [a]) (b.toNat - 48) = if a = b then 1 else 0 := by
  by_cases hab : a = b
  · subst hab
    have ha : 48 ≤ a.toNat := by omega
    simp [countOf, stemHoses, ha]
  · have hne : a.toNat ≠ b.toNat := fun h => hab (BitVec.eq_of_toNat_eq h)
    by_cases ha : 48 ≤ a.toNat
    · have hh : a.toNat - 48 ≠ b.toNat - 48 := by omega
      simp [countOf, stemHoses, ha, hh, hab]
    · simp [countOf, stemHoses, ha, hab]

/-- Settles O3: by the kind of each field, a register or a hose; the second field stands behind the pop of the first when both name one hose. -/
theorem stemOperandOrder : Obligations.StemOperandOrder := by
  intro s d a b
  rw [stemSrcs_pair]
  refine ⟨rfl, ?_, ?_⟩
  · change stemSrc s d [] a = _
    split
    case isTrue ha => exact stemSrc_reg s d [] ha
    case isFalse ha => exact stemSrc_hose s d [] ha
  · change stemSrc s d [a] b = _
    split
    case isTrue hb => exact stemSrc_reg s d [a] hb
    case isFalse hb => rw [stemSrc_hose s d [a] hb, countOf_stemHoses_singleton a hb]

end Sys2Proof.Machine
end

section
/-! PROOF. The address checks of the lane words that reach memory (spec 03, R68; 08, R159; 17, R309). -/
namespace Sys2Proof.Machine

/-! ## Signed fields as words -/

theorem wordOf_eq_ofInt (x : Int) : wordOf x = BitVec.ofInt 64 x := by
  apply BitVec.eq_of_toNat_eq
  have hlt : (x % (2 ^ 64 : Nat)).toNat < 2 ^ 64 := by omega
  rw [wordOf, wrapTo, BitVec.toNat_ofNat, BitVec.toNat_ofInt, Nat.mod_eq_of_lt hlt]

theorem signOf_eq_toInt {n : Nat} (hn : 0 < n) (x : Nat) : signOf n x = (BitVec.ofNat n x).toInt := by
  obtain ⟨k, rfl⟩ : ∃ k, n = k + 1 := ⟨n - 1, by omega⟩
  simp only [signOf, BitVec.toInt, BitVec.toNat_ofNat, Nat.add_sub_cancel, Nat.pow_succ]
  split <;> split <;> omega

/-- A signed field as a word is the field sign-extended. -/
theorem wordOf_signOf {n : Nat} (hn : 0 < n) (x : Nat) : wordOf (signOf n x) = (BitVec.ofNat n x).signExtend 64 := by
  rw [wordOf_eq_ofInt, signOf_eq_toInt hn, BitVec.signExtend]

theorem laneEa_eq_laneAddr (w : LeafWord) (v : List Opd) (l : Nat) : laneEa w v l = (laneAddr w v l).toNat := by
  have himm : wordOf (signOf 28 w.imm.toNat) = (w.imm.setWidth 28).signExtend 64 := wordOf_signOf (by decide) _
  unfold laneEa laneAddr
  rw [himm]
  cases opd v 1 with
  | vec lo hi =>
    have hidx : wordOf (signOf 32 (lane lo l)) = (BitVec.ofNat 32 (lane lo l)).signExtend 64 := wordOf_signOf (by decide) _
    dsimp only
    rw [hidx]
  | sca y => rfl
  | nothing => rfl

/-! ## The lowest cause code -/

theorem foldl_min_le (l : List (Nat × Nat)) (a : Nat) :
    l.foldl (fun a x => min a x.2) a ≤ a ∧ ∀ x ∈ l, l.foldl (fun a x => min a x.2) a ≤ x.2 := by
  induction l generalizing a with
  | nil => exact ⟨Nat.le_refl a, fun x hx => absurd hx List.not_mem_nil⟩
  | cons y r ih =>
    obtain ⟨hstart, hall⟩ := ih (min a y.2)
    rw [List.foldl_cons, List.forall_mem_cons]
    exact ⟨by omega, by omega, hall⟩

theorem foldl_min_attained (l : List (Nat × Nat)) (a : Nat) :
    l.foldl (fun a x => min a x.2) a = a ∨ ∃ x ∈ l, x.2 = l.foldl (fun a x => min a x.2) a := by
  induction l generalizing a with
  | nil => exact .inl rfl
  | cons y r ih =>
    rw [List.foldl_cons]
    obtain hstart | ⟨x, hx, he⟩ := ih (min a y.2)
    · obtain h | h : min a y.2 = a ∨ min a y.2 = y.2 := by omega
      · exact .inl (hstart.trans h)
      · exact .inr ⟨y, List.mem_cons_self .., (hstart.trans h).symm⟩
    · exact .inr ⟨x, List.mem_cons_of_mem _ hx, he⟩

theorem worstLanes_le {bad : List (Nat × Nat)} {x : Nat × Nat} (hx : x ∈ bad) : (worstLanes bad).1 ≤ x.2 := (foldl_min_le bad _).2 x hx

theorem worstLanes_attained {bad : List (Nat × Nat)} (hne : bad ≠ []) : ∃ x ∈ bad, x.2 = (worstLanes bad).1 := by
  obtain ⟨y, r, rfl⟩ := List.exists_cons_of_ne_nil hne
  obtain h | h := foldl_min_attained (y :: r) y.2
  · exact ⟨y, List.mem_cons_self .., h.symm⟩
  · exact h

/-- The lanes whose translation fails, each with its cause code. -/
def faultsOf (tr : Nat → Tr) (lanes : List Nat) : List (Nat × Nat) :=
  lanes.filterMap (fun l => match tr l with | .fault c => some (l, c) | _ => none)

theorem mem_faultsOf (tr : Nat → Tr) (lanes : List Nat) (l c : Nat) : (l, c) ∈ faultsOf tr lanes ↔ l ∈ lanes ∧ tr l = .fault c := by
  rw [faultsOf, List.mem_filterMap]
  constructor
  · rintro ⟨k, hk, he⟩
    cases htr : tr k with
    | fault e =>
      rw [htr] at he
      cases he
      exact ⟨hk, htr⟩
    | hit pa t => rw [htr] at he; cases he
    | miss => rw [htr] at he; cases he
  · rintro ⟨hl, htr⟩
    exact ⟨l, hl, by rw [htr]⟩

theorem faultsOf_with_code (tr : Nat → Tr) (lanes : List Nat) (c : Nat) :
    ((faultsOf tr lanes).filter (fun x => decide (x.2 = c))).map (·.1) = lanes.filter (fun l => decide (tr l = .fault c)) := by
  induction lanes with
  | nil => rfl
  | cons l r ih =>
    rw [faultsOf] at ih ⊢
    cases htr : tr l with
    | fault e => by_cases he : e = c <;> simp [htr, he, ih]
    | hit pa t => simp [htr, ih]
    | miss => simp [htr, ih]

/-! ## What the checks answer -/

section
variable {s : State} {d : Drill} {k : Kind} {ea : Nat → Nat} {lanes : List Nat} {n : Nat}

theorem laneCheck_far (hfar : lanes.filter (fun l => decide (2 ^ 56 ≤ ea l)) ≠ []) :
    laneCheck s d k ea lanes n = .stop (laneFault cTranslation ea (lanes.filter (fun l => decide (2 ^ 56 ≤ ea l)))) :=
  if_pos (by rw [List.isEmpty_eq_false_iff.2 hfar]; rfl)

theorem laneCheck_misaligned (hfar : lanes.filter (fun l => decide (2 ^ 56 ≤ ea l)) = []) (hodd : lanes.filter (fun l => decide (ea l % n ≠ 0)) ≠ []) :
    laneCheck s d k ea lanes n = .stop (laneFault cAlign ea (lanes.filter (fun l => decide (ea l % n ≠ 0)))) := by
  unfold laneCheck
  simp only [hfar, List.isEmpty_nil, Bool.not_true, Bool.false_eq_true, if_false]
  exact if_pos (by rw [List.isEmpty_eq_false_iff.2 hodd]; rfl)

variable (hfar : lanes.filter (fun l => decide (2 ^ 56 ≤ ea l)) = []) (hodd : lanes.filter (fun l => decide (ea l % n ≠ 0)) = [])
include hfar hodd

theorem laneCheck_miss (hmiss : ∃ l, l ∈ lanes ∧ translate s s.cur d k true (ea l) = .miss) :
    ∃ t, laneCheck s d k ea lanes n = .stop (.wait .walk t) := by
  obtain ⟨l, hl, htr⟩ := hmiss
  unfold laneCheck
  simp only [hfar, hodd, List.isEmpty_nil, Bool.not_true, Bool.false_eq_true, if_false]
  refine ⟨_, if_pos ?_⟩
  rw [Bool.not_eq_true', List.isEmpty_eq_false_iff_exists_mem]
  exact ⟨(l, .miss), List.mem_filter.2 ⟨List.mem_map.2 ⟨l, hl, by rw [htr]⟩, rfl⟩⟩

theorem laneCheck_fault (hhere : ∀ l, l ∈ lanes → translate s s.cur d k true (ea l) ≠ .miss)
    (hfault : faultsOf (fun l => translate s s.cur d k true (ea l)) lanes ≠ []) :
    laneCheck s d k ea lanes n =
      .stop (laneFault (worstLanes (faultsOf (fun l => translate s s.cur d k true (ea l)) lanes)).1 ea
        (worstLanes (faultsOf (fun l => translate s s.cur d k true (ea l)) lanes)).2) := by
  unfold laneCheck
  simp only [hfar, hodd, List.isEmpty_nil, Bool.not_true, Bool.false_eq_true, if_false]
  rw [if_neg, List.filterMap_map]
  · exact if_pos (by rw [Bool.not_eq_true', List.isEmpty_eq_false_iff]; exact hfault)
  · rw [Bool.not_eq_true, Bool.not_eq_false', List.isEmpty_iff, List.filter_eq_nil_iff]
    intro x hx
    obtain ⟨l, hl, rfl⟩ := List.mem_map.1 hx
    have := hhere l hl
    cases htr : translate s s.cur d k true (ea l) with
    | miss => exact absurd htr this
    | hit pa t => exact Bool.false_ne_true
    | fault c => exact Bool.false_ne_true
end

/-! ## The lane words -/

theorem leafLoad_stopped {w : LeafWord} {byMod acq stale : Bool} {s : State} {d : Drill} {m : LaneMask} {v : List Opd} {b : LeafBody}
    (hb : laneCheck s d .load (laneEa w v) (lanesOf m) (typeBits w.ty.toNat / 8) = .stop b) : leafLoad w byMod acq stale s d m v = b := by
  simp only [leafLoad, hb]

theorem laneAmo_stopped {w : LeafWord} {op : Nat} {arg cmp : Nat → Nat} {s : State} {d : Drill} {m : LaneMask} {v : List Opd} {b : LeafBody}
    (hb : laneCheck s d .store (laneEa w v) (lanesOf m) (typeBits w.ty.toNat / 8) = .stop b) : laneAmo w op arg cmp s d m v = b := by
  simp only [laneAmo, hb]

/-- Every lane word that reaches memory makes its checks first, and what they answer is what it does. -/
theorem laneWordRow_checks_first {i : Instr} {op : Nat} {w : LeafWord} {k : Kind} {rel : Bool} (hrow : laneWordRow i = some (op, w, k, rel)) (s : State) :
    ∃ body, exec i s = leafWord { op, w, release := rel } s body ∧
      ∀ d m v t b, laneCheck t d k (laneEa w v) (lanesOf m) (typeBits w.ty.toNat / 8) = .stop b → body d m v t = b := by
  revert hrow
  fun_cases laneWordRow i <;> intro hrow <;> cases hrow
  -- VLD, VLDA, VLDC
  case case1 => exact ⟨_, show execVld w s = _ from rfl, fun _ _ _ _ _ hb => leafLoad_stopped hb⟩
  case case2 => exact ⟨_, show execVlda w s = _ from rfl, fun _ _ _ _ _ hb => leafLoad_stopped hb⟩
  case case3 => exact ⟨_, show execVldc w s = _ from rfl, fun _ _ _ _ _ hb => leafLoad_stopped hb⟩
  -- VST, VSTL
  case case4 => exact ⟨_, show execVst w s = _ from rfl, fun _ _ _ _ _ hb => by simp only [hb]⟩
  case case5 => exact ⟨_, show execVstl w s = _ from rfl, fun _ _ _ _ _ hb => by simp only [hb]⟩
  -- VAMO, VCAS
  case case6 => exact ⟨_, show execVamo w s = _ from rfl, fun _ _ _ _ _ hb => laneAmo_stopped hb⟩
  case case7 => exact ⟨_, show execVcas w s = _ from rfl, fun _ _ _ _ _ hb => laneAmo_stopped hb⟩

section
variable {i : Instr} {op : Nat} {w : LeafWord} {k : Kind} {rel : Bool} {h : Shape} {s : State} {d : Drill}
  (hrow : laneWordRow i = some (op, w, k, rel)) (hi : LeafIssues { op, w, release := rel } h s d)
include hrow hi

theorem exec_laneWord_traps {code : Nat} {bad : List Nat}
    (hcheck : laneCheck s d k (fun l => (laneAddr w (leafOps { op, w, release := rel } h s d) l).toNat) (lanesOf (effMask d w.k.toNat)) (typeBits w.ty.toNat / 8) =
      .stop (laneFault code (fun l => (laneAddr w (leafOps { op, w, release := rel } h s d) l).toNat) bad)) :
    exec i s = .next (lanesTrap s code (fun l => (laneAddr w (leafOps { op, w, release := rel } h s d) l).toNat) bad) := by
  obtain ⟨body, hexec, hbody⟩ := laneWordRow_checks_first hrow s
  simp only [← laneEa_eq_laneAddr] at hcheck ⊢
  rw [hexec]
  exact leafWord_traps hi (hbody _ _ _ _ _ hcheck)

theorem exec_laneWord_waits {wt : Wait} {t : State}
    (hcheck : laneCheck s d k (fun l => (laneAddr w (leafOps { op, w, release := rel } h s d) l).toNat) (lanesOf (effMask d w.k.toNat)) (typeBits w.ty.toNat / 8) =
      .stop (.wait wt t)) :
    exec i s = .next (streamPark t s.cur true wt (leafPops { op, w, release := rel } h)) := by
  obtain ⟨body, hexec, hbody⟩ := laneWordRow_checks_first hrow s
  simp only [← laneEa_eq_laneAddr] at hcheck
  rw [hexec, leafWord_issues hi, hbody _ _ _ _ _ hcheck]
end

/-- Settles O39: each lane word acts on what its checks answer, and the checks are tried in the order of the rule; the trap for failed translations names the
least of their codes. -/
theorem leafAddressFaults : Obligations.LeafAddressFaults := by
  intro i op w k rel h s d hrow p n ea lanes far odd tr hi
  refine ⟨fun hfar => ?_, fun hfar hodd => ?_, fun hfar hodd hmiss => ?_, fun hfar hodd hhere hfault => ?_⟩
  · exact exec_laneWord_traps hrow hi (laneCheck_far hfar)
  · exact exec_laneWord_traps hrow hi (laneCheck_misaligned hfar hodd)
  · obtain ⟨t, hcheck⟩ := laneCheck_miss hfar hodd hmiss
    exact ⟨t, exec_laneWord_waits hrow hi hcheck⟩
  · have hne : faultsOf tr lanes ≠ [] := by
      obtain ⟨l, c, hl, htr⟩ := hfault
      exact List.ne_nil_of_mem ((mem_faultsOf tr lanes l c).2 ⟨hl, htr⟩)
    refine ⟨(worstLanes (faultsOf tr lanes)).1, fun l e hl htr => worstLanes_le ((mem_faultsOf tr lanes l e).2 ⟨hl, htr⟩), ?_, ?_⟩
    · obtain ⟨⟨l, c⟩, hmem, hc⟩ := worstLanes_attained hne
      obtain ⟨hl, htr⟩ := (mem_faultsOf tr lanes l c).1 hmem
      exact ⟨l, hl, hc ▸ htr⟩
    · rw [← faultsOf_with_code tr lanes]
      exact exec_laneWord_traps hrow hi (laneCheck_fault hfar hodd hhere hne)

end Sys2Proof.Machine
end

section
/-! PROOF. Leaf words that move the split table: what their completion leaves of the state, and the nine control words (spec 03, R69; 09, R174 to R187). -/
namespace Sys2Proof.Machine

/-! ## Drills that differ in few fields -/

/-- Only the live lanes and the leaf contexts differ. -/
def LanesOnly (d e : Drill) : Prop := e = { d with live := e.live, user := e.user, sup := e.sup }

theorem onLeaf_lanesOnly (d : Drill) (f : LeafCtx → LeafCtx) : LanesOnly d (onLeaf d f) := by unfold LanesOnly onLeaf; split <;> rfl

theorem onLeaf_congr {d : Drill} {f g : LeafCtx → LeafCtx} (h : f (leafCtx d) = g (leafCtx d)) : onLeaf d f = onLeaf d g := by
  unfold leafCtx at h
  unfold onLeaf
  split <;> simp_all

/-- The drill with other queues in the hoses of its own. -/
def withHoses (d : Drill) (q : Tab (List Vec)) : Drill := { d with hoses := q }

theorem onLeaf_withHoses (d : Drill) (q : Tab (List Vec)) (f : LeafCtx → LeafCtx) : onLeaf (withHoses d q) f = withHoses (onLeaf d f) q := by
  have hsuper : (withHoses d q).super = d.super := rfl
  unfold onLeaf
  rw [hsuper]
  split <;> rfl

theorem hoseQ_congr {s t : State} {d e : Drill} (hobjs : t.objs = s.objs) (hbed : e.bed = d.bed) (hhoses : e.hoses = d.hoses) : hoseQ t e = hoseQ s d := by
  funext j
  simp only [hoseQ, objAt_congr hobjs, hbed, hhoses]

theorem heirWins_quiet (c : LeafCtx) {d : Drill} (h : d.wins.all (fun w => decide (w.kind = 0)) = true) : heirWins c d = d := by
  have hmap : d.wins.map (fun p => if p.kind = 0 then p else { p with owner := heirOf c (leafCtx d) p.owner }) = d.wins :=
    map_same (fun w hw => if_pos (kind_of_quiet h hw))
  unfold heirWins
  rw [hmap]

/-- A word without results leaves the registers, flags and windows of a quiet drill as they are. -/
theorem leafRegs_none (p : LeafPlan) {d : Drill} (h : d.wins.all (fun w => decide (w.kind = 0)) = true) : leafRegs p [] 0 d = d := by
  unfold leafRegs
  dsimp only [List.foldl_nil]
  rw [passWord_quiet h]
  simp [orFlags]

/-! ## The end of a routine (spec 09, R177, R178) -/

/-- Only messages are sent. -/
structure Sends (s t : State) : Prop where
  rest : t = { s with agenda := t.agenda }
  keeps : ∀ m, m ∈ s.agenda → m ∈ t.agenda

theorem Sends.trans {s t u : State} (a : Sends s t) (b : Sends t u) : Sends s u :=
  ⟨by have hrest := b.rest; rw [a.rest] at hrest; exact hrest, fun m hm => b.keeps m (a.keeps m hm)⟩

theorem mem_post_self (s : State) (m : Msg) : m ∈ (post s m).agenda := by
  unfold post
  split
  case isTrue h => exact h
  case isFalse => exact List.mem_append_right _ (List.mem_singleton_self m)

theorem sends_post (s : State) (m : Msg) : Sends s (post s m) := by
  unfold post
  split
  · exact ⟨rfl, fun _ h => h⟩
  · exact ⟨rfl, fun _ h => List.mem_append_left _ h⟩

/-- A message sent under a condition. -/
def postIf (b : Bool) (s : State) (m : Msg) : State := if b = true then post s m else s

theorem sends_postIf (b : Bool) (s : State) (m : Msg) : Sends s (postIf b s m) := by
  unfold postIf
  split
  · exact sends_post s m
  · exact ⟨rfl, fun _ h => h⟩

theorem mem_postIf {b : Bool} (hb : b = true) (s : State) (m : Msg) : m ∈ (postIf b s m).agenda := by
  rw [postIf, if_pos hb]
  exact mem_post_self s m

/-- The drill with no entry in its split table where its routine is over. -/
def routineClosed (x : Drill) : Drill := if routineOver (leafCtx x) = true then onLeaf x (fun c => { c with splits := [], run := 0 }) else x

theorem routineClosed_lanesOnly (x : Drill) : LanesOnly x (routineClosed x) := by
  unfold routineClosed
  split
  · exact onLeaf_lanesOnly x _
  · rfl

/-- The routine of drill e is over: its entries are free, and its cloche entries count as those of an ended routine. -/
def routineFreed (s : State) (slot : Nat) (e : Drill) : State :=
  onCore (putDrill s slot (onLeaf e (fun c => { c with splits := [], run := 0 }))) (coreOf slot) (fun k => { k with cloche := k.cloche.map (fun x =>
    if x.2.ctx = ctxOf slot ∧ x.2.leaf = true then (x.1, { x.2 with routineEnded := true }) else x) })

theorem endRoutine_over {s : State} {slot : Nat} {e : Drill} (hd : drillAt s slot = some e) (hover : routineOver (leafCtx e) = true) :
    endRoutine s slot =
      postIf (decide (e.stemWait = .exited)) (postIf (decide (e.stemWait = .lwait)) (postIf (!(leafCtx e).queue.isEmpty) (routineFreed s slot e) (.routineStart slot))
        (.lwaitRelease slot)) (.drillRetire slot) := by
  simp only [endRoutine, hd, hover, postIf, routineFreed, decide_eq_true_eq, Bool.not_true, Bool.false_eq_true, if_false]
  cases (leafCtx e).queue <;> rfl

theorem endRoutine_runs {s : State} {slot : Nat} {e : Drill} (hd : drillAt s slot = some e) (hover : routineOver (leafCtx e) = false) : endRoutine s slot = s := by
  simp only [endRoutine, hd, hover, Bool.not_false, if_true]

/-- What `endRoutine` does to drill e of the slot, and what it leaves. -/
structure RoutineEnds (s t : State) (slot : Nat) (e : Drill) : Prop where
  here : drillAt t slot = some (routineClosed e)
  served : routineOver (leafCtx e) = true → ((leafCtx e).queue ≠ [] → Msg.routineStart slot ∈ t.agenda) ∧ (e.stemWait = .lwait → .lwaitRelease slot ∈ t.agenda) ∧
    (e.stemWait = .exited → .drillRetire slot ∈ t.agenda)
  others : ∀ k, k ≠ slot → drillAt t k = drillAt s k
  objs : t.objs = s.objs
  mem : t.mem = s.mem
  benches : ∀ c a, benchByte t c a = benchByte s c a

theorem endRoutine_ends {s : State} {slot : Nat} {e : Drill} (hd : drillAt s slot = some e) : RoutineEnds s (endRoutine s slot) slot e := by
  cases hover : routineOver (leafCtx e) with
  | false =>
    rw [endRoutine_runs hd hover]
    have hgoes : ¬ routineOver (leafCtx e) = true := by rw [hover]; exact Bool.false_ne_true
    exact ⟨by rw [hd, routineClosed, if_neg hgoes], fun h => absurd h hgoes, fun _ _ => rfl, rfl, rfl, fun _ _ => rfl⟩
  | true =>
    rw [endRoutine_over hd hover]
    have hstart := sends_postIf (!(leafCtx e).queue.isEmpty) (routineFreed s slot e) (.routineStart slot)
    generalize hs1 : postIf (!(leafCtx e).queue.isEmpty) (routineFreed s slot e) (.routineStart slot) = s1 at hstart ⊢
    have hlwait := sends_postIf (decide (e.stemWait = .lwait)) s1 (.lwaitRelease slot)
    generalize hs2 : postIf (decide (e.stemWait = .lwait)) s1 (.lwaitRelease slot) = s2 at hlwait ⊢
    have hretire := sends_postIf (decide (e.stemWait = .exited)) s2 (.drillRetire slot)
    have hrest := ((hstart.trans hlwait).trans hretire).rest
    have hfreed (k : Nat) : drillAt (routineFreed s slot e) k = if k = slot then some (onLeaf e (fun c => { c with splits := [], run := 0 })) else drillAt s k := by
      rw [routineFreed, drillAt_onCore, drillAt_putDrill]
    refine ⟨?_, fun _ => ⟨fun hq => ?_, fun hw => ?_, fun hw => mem_postIf (decide_eq_true hw) s2 _⟩, fun k hk => ?_, ?_, ?_, fun c a => ?_⟩
    · rw [routineClosed, if_pos hover, hrest]
      exact (hfreed slot).trans (if_pos rfl)
    · refine hretire.keeps _ (hlwait.keeps _ (hs1 ▸ mem_postIf ?_ _ _))
      rw [Bool.not_eq_true', List.isEmpty_eq_false_iff]
      exact hq
    · exact hretire.keeps _ (hs2 ▸ mem_postIf (decide_eq_true hw) _ _)
    · rw [hrest]
      exact (hfreed k).trans (if_neg hk)
    · rw [hrest]; rfl
    · rw [hrest]; rfl
    · rw [hrest]
      show benchByte (routineFreed s slot e) c a = benchByte s c a
      unfold benchByte routineFreed
      rw [coreAt_onCore, coreAt_putDrill]
      split
      case isTrue h => rw [h]
      case isFalse => rfl

/-! ## Completion without results -/

/-- Drill x once a leaf word that issued to d has completed: what the word waited for and held is gone. -/
def wordOver (cycle : Nat) (d x : Drill) : Drill :=
  { x with
    leafWait := .none, walked := d.walked.filter (fun w => !w.1), asked := d.asked.filter (fun w => !w.1), granted := d.granted.filter (fun w => !w.1),
    got := d.got.filter (fun g => !g.leaf), claims := d.claims.filter (fun c => !c.1), lastLeaf := some cycle }

theorem leafDone_eq (s : State) (slot : Nat) (p : LeafPlan) (pops : List Nat) (ws : List LeafWrite) (flags : Nat) (mv : Drill → Drill) :
    leafDone s slot p pops ws flags mv = endRoutine (onDrill (hoseMoves s slot pops (ws.filterMap leafPush)) slot
      (fun d => wordOver s.cycle d (heirWins (leafCtx d) (mv (leafRegs p ws flags d))))) slot := rfl

theorem onLeaf_wordOver (cycle : Nat) (d x : Drill) (f : LeafCtx → LeafCtx) : onLeaf (wordOver cycle d x) f = wordOver cycle d (onLeaf x f) := by
  have hsuper : (wordOver cycle d x).super = x.super := rfl
  unfold onLeaf
  rw [hsuper]
  split <;> rfl

theorem routineClosed_wordOver (cycle : Nat) (d x : Drill) (q : Tab (List Vec)) :
    routineClosed (wordOver cycle d (withHoses x q)) = wordOver cycle d (withHoses (routineClosed x) q) := by
  have hctx : leafCtx (wordOver cycle d (withHoses x q)) = leafCtx x := rfl
  unfold routineClosed
  rw [hctx]
  split
  · rw [onLeaf_wordOver, onLeaf_withHoses]
  · rfl

section
variable {s : State} {slot : Nat} {d : Drill} {pops : List Nat} {mv : Drill → Drill}
  (hq : LeafQuiet d) (hkeep : LanesOnly d (mv d)) (hhoses : ∀ q, mv (withHoses d q) = withHoses (mv d) q)
include hq hkeep hhoses

theorem leafDone_quiet (p : LeafPlan) {d' : Drill} (hframe : HoseFrame s (hoseMoves s slot pops []) slot d d') :
    leafDone s slot p pops [] 0 mv = endRoutine (putDrill (hoseMoves s slot pops []) slot (wordOver s.cycle d (withHoses (mv d) d'.hoses))) slot := by
  have hd' : d' = withHoses d d'.hoses := hframe.drill
  have hmv : mv d' = withHoses (mv d) d'.hoses := by rw [← hhoses, ← hd']
  have hregs : leafRegs p [] 0 d' = d' := leafRegs_none p (by rw [hd']; exact hq.closed)
  have hheir : heirWins (leafCtx d') (mv d') = mv d' := heirWins_quiet _ (by rw [hmv, hkeep]; exact hq.closed)
  have hover (x : Drill) : wordOver s.cycle d' x = wordOver s.cycle d x := by rw [hd']; rfl
  rw [leafDone_eq, List.filterMap_nil, onDrill, hframe.here]
  dsimp only
  rw [hregs, hheir, hover, hmv]

/-- A leaf word without results whose move of a quiet drill changes lanes and leaf contexts alone, and does not look at the hoses. -/
theorem leafDone_moves (hd : drillAt s slot = some d) (ho : ∃ o, objAt s d.bed = some o) (p : LeafPlan) :
    LeafMoves pops (mv d) s (leafDone s slot p pops [] 0 mv) slot d := by
  obtain ⟨d', hframe, hqueues⟩ := hoseMoves_frame hd ho pops []
  rw [leafDone_quiet hq hkeep hhoses p hframe]
  generalize hE : wordOver s.cycle d (withHoses (mv d) d'.hoses) = E
  generalize hu : hoseMoves s slot pops [] = u at hframe hqueues
  have hends : RoutineEnds (putDrill u slot E) (endRoutine (putDrill u slot E) slot) slot E := endRoutine_ends (by rw [drillAt_putDrill, if_pos rfl])
  have hhere : drillAt (endRoutine (putDrill u slot E) slot) slot = some (wordOver s.cycle d (withHoses (routineClosed (mv d)) d'.hoses)) := by
    rw [← routineClosed_wordOver, hE]
    exact hends.here
  have hclosed := routineClosed_lanesOnly (mv d)
  refine ⟨⟨_, hhere, ?_, fun j => ?_, rfl⟩, ?_, fun k hk => ?_, fun k => ?_, ?_, fun c a => ?_⟩
  · show (routineClosed (mv d)).wins = d.wins
    rw [hclosed, hkeep]
  · have hbed : (routineClosed (mv d)).bed = d'.bed := by rw [hclosed, hkeep, hframe.drill]
    have hsame : hoseQ (endRoutine (putDrill u slot E) slot) (wordOver s.cycle d (withHoses (routineClosed (mv d)) d'.hoses)) = hoseQ u d' :=
      hoseQ_congr hends.objs hbed rfl
    rw [hsame, hqueues]
    exact List.append_nil _
  · have hctx : leafCtx E = leafCtx (mv d) := by rw [← hE]; rfl
    have hwait : E.stemWait = d.stemWait := by rw [← hE, hkeep]; rfl
    rw [← hctx, ← hwait]
    exact hends.served
  · rw [hends.others k hk, drillAt_putDrill, if_neg hk]
    exact hframe.others k hk
  · rw [objAt_congr hends.objs, objAt_putDrill]
    exact hframe.objs k
  · rw [hends.mem]
    exact hframe.rest.mem
  · rw [hends.benches]
    exact benchByte_same hframe.rest c a
end

section
variable {p : LeafPlan} {h : Shape} {s : State} {d : Drill} (hi : LeafIssues p h s d) (hq : LeafQuiet d) {body : Drill → LaneMask → List Opd → State → LeafBody}
include hi hq

theorem leafWord_moves {mv : Drill → Drill} (hbody : body d (effMask d p.w.k.toNat) (leafOps p h s d) s = .ok s [] 0 mv)
    (hkeep : LanesOnly d (mv d)) (hhoses : ∀ q, mv (withHoses d q) = withHoses (mv d) q) :
    ∃ t, leafWord p s body = .next t ∧ LeafMoves (leafPops p h) (mv d) s t s.cur d :=
  ⟨_, leafWord_ok hi hbody, leafDone_moves hq hkeep hhoses hi.bound hi.bed p⟩

end

/-! ## Targets and conditions -/

/-- The target of a control word, in words (spec 03, R69). -/
theorem leafTarget_eq (d : Drill) (w : LeafWord) : leafTarget d w = (runSplit (leafCtx d)).pc.setWidth 64 + 12 * w.imm.signExtend 64 := by
  have hpc : BitVec.ofInt 64 ((runSplit (leafCtx d)).pc.toNat : Int) = (runSplit (leafCtx d)).pc.setWidth 64 := by
    rw [BitVec.ofInt_natCast, BitVec.ofNat_toNat]
  rw [leafTarget, wordOf_eq_ofInt, BitVec.ofInt_add, BitVec.ofInt_mul, hpc]
  rfl

theorem scalarCond_eq_sbrHolds (c : Nat) (a b : Word) : scalarCond c a b = sbrHolds c a b := by
  unfold scalarCond sbrHolds
  repeat' split
  case isFalse.isTrue => exact decide_not
  all_goals rfl

theorem toNat_lt_of_leafTargetOk {s : State} {d : Drill} {t : Nat} (h : leafTargetOk s d t = true) : t < 2 ^ 56 := by
  unfold leafTargetOk at h
  have hlim := (sections s d).2.2.2.isLt
  simp only [decide_eq_true_eq] at h
  omega

/-- An address in the section is the same as a word and as an address. -/
theorem toNat_setWidth_of_leafTargetOk {s : State} {d : Drill} {dest : Word} (h : leafTargetOk s d dest.toNat = true) : (dest.setWidth 56).toNat = dest.toNat := by
  rw [BitVec.toNat_setWidth, Nat.mod_eq_of_lt (toNat_lt_of_leafTargetOk h)]

theorem below_eq_range (n : Nat) : below n = List.range n := by
  have h (a n : Nat) : upFrom a n = List.range' a n := by
    induction n generalizing a with
    | zero => rfl
    | succ n ih => rw [upFrom, ih, List.range'_succ]
  rw [below, h, List.range_eq_range']

theorem freeEntry_eq_none {c : LeafCtx} (h : ∀ y, y < 16 → (splitAt c y).state ≠ 0) : freeEntry c = none := by
  rw [freeEntry, List.find?_eq_none]
  intro y hy
  exact mt of_decide_eq_true (h y ((mem_below 16 y).1 hy))

theorem freeEntry_eq_some {c : LeafCtx} {y : Nat} (hy : y < 16) (hfree : (splitAt c y).state = 0) (hlow : ∀ z, z < y → (splitAt c z).state ≠ 0) : freeEntry c = some y := by
  rw [freeEntry, below_eq_range, List.find?_range_eq_some]
  refine ⟨decide_eq_true hfree, List.mem_range.2 hy, fun z hz => ?_⟩
  rw [decide_eq_false (hlow z hz)]
  rfl

theorem takeTo_ok {s : State} {d : Drill} {dest : Word} (h : leafTargetOk s d dest.toNat = true) (mv : VAddr → Drill → Drill) :
    takeTo s d dest mv = .ok s [] 0 (mv (dest.setWidth 56)) := if_pos h

theorem takeTo_bad {s : State} {d : Drill} {dest : Word} (h : leafTargetOk s d dest.toNat = false) (mv : VAddr → Drill → Drill) :
    takeTo s d dest mv = .trap cFetch dest 0 [] := if_neg (by rw [h]; exact Bool.false_ne_true)

/-! ## Lanes that leave, and lanes that are awaited (spec 09, R174, R185) -/

theorem dropLanes_zero (d : Drill) : dropLanes d 0 = d := if_pos rfl

theorem dropLanes_some (d : Drill) {m : LaneMask} (hm : m ≠ 0) :
    dropLanes d m = { d with live := d.live &&& ~~~m, user := ctxDrop d.user m, sup := ctxDrop d.sup m } := if_neg hm

theorem dropLanes_withHoses (d : Drill) (q : Tab (List Vec)) (m : LaneMask) : dropLanes (withHoses d q) m = withHoses (dropLanes d m) q := by
  by_cases hm : m = 0
  · rw [hm, dropLanes_zero, dropLanes_zero]
  · rw [dropLanes_some _ hm, dropLanes_some _ hm]
    simp only [withHoses]

theorem dropLanes_lanesOnly (d : Drill) (m : LaneMask) : LanesOnly d (dropLanes d m) := by
  unfold LanesOnly
  by_cases hm : m = 0
  · rw [hm, dropLanes_zero]
  · rw [dropLanes_some _ hm]

theorem dropLanes_live (d : Drill) (m : LaneMask) : (dropLanes d m).live = d.live &&& ~~~m := by
  by_cases hm : m = 0
  · rw [hm, dropLanes_zero]
    exact (mask_full d.live).symm
  · rw [dropLanes_some _ hm]

theorem onLeaf_live (d : Drill) (f : LeafCtx → LeafCtx) : (onLeaf d f).live = d.live := by unfold onLeaf; split <;> rfl

theorem LanesOnly.trans {d e f : Drill} (a : LanesOnly d e) (b : LanesOnly e f) : LanesOnly d f := by unfold LanesOnly at *; rw [b, a]

theorem exitLanes_lanesOnly (m : LaneMask) (d : Drill) : LanesOnly d (exitLanes m d) := by
  unfold exitLanes
  exact (onLeaf_lanesOnly d _).trans ((dropLanes_lanesOnly _ m).trans (onLeaf_lanesOnly _ _))

theorem exitLanes_withHoses (m : LaneMask) (d : Drill) (q : Tab (List Vec)) : exitLanes m (withHoses d q) = withHoses (exitLanes m d) q := by
  simp only [exitLanes, onLeaf_withHoses, dropLanes_withHoses]

theorem exitLanes_live (m : LaneMask) (d : Drill) : (exitLanes m d).live = d.live &&& ~~~m := by
  rw [exitLanes, onLeaf_live, dropLanes_live, onLeaf_live]

theorem inMask_or (a b : LaneMask) (l : Nat) : inMask (a ||| b) l = (inMask a l || inMask b l) := by
  simp only [inMask, bitOf, BitVec.toNat_or, Nat.testBit_or]

/-- The mask of `awaited` once entry x is looked at. -/
def awaitStep (i : Nat) (p : VAddr) (k : BitVec 4) (old m : LaneMask) (x : Nat × SplitEntry) : LaneMask :=
  if x.1 ≠ i ∧ entryLive x.2 = true ∧ (k.toNat < x.2.depth.toNat ∨ (x.2.depth = k ∧ x.2.pc.toNat < p.toNat)) then m ||| x.2.sm
  else if x.1 ≠ i ∧ (x.2.state = 1 ∨ x.2.state = 2) ∧ x.2.depth = k ∧ x.2.pc = p then m ||| (x.2.sm &&& old) else m

theorem awaited_eq (c : LeafCtx) (i : Nat) (p : VAddr) (k : BitVec 4) (old : LaneMask) : awaited c i p k old = c.splits.foldl (awaitStep i p k old) 0 := rfl

/-- Entry e holds lane l and is awaited by entry i at p in depth k. -/
def awaits (i l : Nat) (p : VAddr) (k : BitVec 4) (e : Nat × SplitEntry) : Bool :=
  decide (e.1 ≠ i ∧ (e.2.state = 1 ∨ e.2.state = 2 ∨ e.2.state = 3)) && inMask e.2.sm l && decide (k.toNat < e.2.depth.toNat ∨ (e.2.depth = k ∧ e.2.pc.toNat < p.toNat))

theorem inMask_awaitStep (i l : Nat) (p : VAddr) (k : BitVec 4) (m : LaneMask) (x : Nat × SplitEntry) :
    inMask (awaitStep i p k 0 m x) l = (inMask m l || awaits i l p k x) := by
  have hsame : awaitStep i p k 0 m x = if x.1 ≠ i ∧ entryLive x.2 = true ∧ (k.toNat < x.2.depth.toNat ∨ (x.2.depth = k ∧ x.2.pc.toNat < p.toNat)) then m ||| x.2.sm else m := by
    simp [awaitStep]
  rw [hsame]
  split
  case isTrue h =>
    obtain ⟨hother, hlive, hbefore⟩ := h
    simp only [inMask_or, awaits, decide_eq_true (And.intro hother (of_decide_eq_true hlive)), decide_eq_true hbefore, Bool.true_and, Bool.and_true]
  case isFalse h =>
    have hnot : awaits i l p k x = false := by
      simp only [awaits, Bool.and_eq_false_iff, decide_eq_false_iff_not]
      simp only [entryLive, decide_eq_true_eq] at h
      by_cases hfrom : x.1 ≠ i ∧ (x.2.state = 1 ∨ x.2.state = 2 ∨ x.2.state = 3)
      · exact .inr (fun hbefore => h ⟨hfrom.1, hfrom.2, hbefore⟩)
      · exact .inl (.inl hfrom)
    rw [hnot, Bool.or_false]

/-- Of a waiter that nothing awaited before, lane l is awaited where an entry that is not over holds it in a deeper routine, or in the same one at a lower address. -/
theorem inMask_awaited_fresh (c : LeafCtx) (i l : Nat) (p : VAddr) (k : BitVec 4) : inMask (awaited c i p k 0) l =
    c.splits.any (fun e => decide (e.1 ≠ i ∧ (e.2.state = 1 ∨ e.2.state = 2 ∨ e.2.state = 3)) && inMask e.2.sm l &&
      decide (k.toNat < e.2.depth.toNat ∨ (e.2.depth = k ∧ e.2.pc.toNat < p.toNat))) := by
  suffices hfold : ∀ (t : Tab SplitEntry) (a : LaneMask), inMask (t.foldl (awaitStep i p k 0) a) l = (inMask a l || t.any (awaits i l p k)) by
    have hzero : inMask 0 l = false := Nat.zero_testBit l
    rw [awaited_eq, hfold, hzero, Bool.false_or]
    rfl
  intro t
  induction t with
  | nil => intro a; exact (Bool.or_false _).symm
  | cons x r ih =>
    intro a
    rw [List.foldl_cons, List.any_cons, ih, inMask_awaitStep, Bool.or_assoc]

/-! ## The moves of the control words as functions of the context -/

theorem nextWord_eq (d : Drill) : nextWord d = onLeaf d (fun c => entryGoes { runSplit c with pc := (runSplit c).pc + 12 } false c) := by
  unfold nextWord goTo
  exact onLeaf_congr rfl

theorem jumpTo_eq (dest : VAddr) (d : Drill) :
    jumpTo dest d = onLeaf d (fun c => entryGoes { runSplit c with pc := dest } (decide (dest.toNat ≤ (runSplit c).pc.toNat)) c) := by
  simp only [jumpTo, entryGoes, decide_eq_true_eq]

theorem divide_eq (y : Nat) (taken : LaneMask) (dest : VAddr) (d : Drill) :
    divide y taken dest d = onLeaf d (fun c =>
      entryGoes { runSplit c with pc := (runSplit c).pc + 12, em := (runSplit c).em &&& ~~~taken, sm := (runSplit c).sm &&& ~~~taken }
        (decide (dest.toNat ≤ (runSplit c).pc.toNat)) (putSplit c y { runSplit c with state := 1, pc := dest, em := taken, sm := taken })) := by
  simp only [divide, entryGoes, decide_eq_true_eq]
  rfl

/-! ## What a control word does -/

section
variable {i : Instr} {p : LeafPlan} {h : Shape} {s : State} {d : Drill} {body : Drill → LaneMask → List Opd → State → LeafBody}
  (hi : LeafIssues p h s d) (hexec : exec i s = leafWord p s body)
include hi hexec

theorem splitsBecome_of_ok (hq : LeafQuiet d) {mv : Drill → Drill} {f g : LeafCtx → LeafCtx}
    (hbody : body d (effMask d p.w.k.toNat) (leafOps p h s d) s = .ok s [] 0 mv) (hmv : ∀ e, mv e = onLeaf e g) (hfg : g (leafCtx d) = f (leafCtx d)) :
    SplitsBecome i p h f s d := by
  have hmoves := leafWord_moves hi hq hbody (by rw [hmv]; exact onLeaf_lanesOnly d g) (fun q => by rw [hmv, hmv, onLeaf_withHoses])
  rw [hmv, onLeaf_congr hfg] at hmoves
  unfold SplitsBecome
  rw [hexec]
  exact hmoves

/-- A word whose taken transfer goes to dest does so where dest lies in the section. -/
theorem splitsBecome_of_takeTo (hq : LeafQuiet d) {dest : Word} {mv : VAddr → Drill → Drill} {f g : LeafCtx → LeafCtx}
    (hbody : body d (effMask d p.w.k.toNat) (leafOps p h s d) s = takeTo s d dest mv) (hok : leafTargetOk s d dest.toNat = true)
    (hmv : ∀ e, mv (dest.setWidth 56) e = onLeaf e g) (hfg : g (leafCtx d) = f (leafCtx d)) : SplitsBecome i p h f s d :=
  splitsBecome_of_ok hi hexec hq (hbody.trans (takeTo_ok hok mv)) hmv hfg

theorem exec_traps {code : Nat} {v : Word} (hbody : body d (effMask d p.w.k.toNat) (leafOps p h s d) s = .trap code v 0 []) :
    exec i s = .next (leafTrap s s.cur code v 0 []) := by
  rw [hexec]
  exact leafWord_traps hi hbody

/-- A taken transfer out of the section is precise at the transfer. -/
theorem exec_takeTo_bad {dest : Word} {mv : VAddr → Drill → Drill} (hbody : body d (effMask d p.w.k.toNat) (leafOps p h s d) s = takeTo s d dest mv)
    (hbad : leafTargetOk s d dest.toNat = false) : exec i s = .next (leafTrap s s.cur cFetch dest 0 []) :=
  exec_traps hi hexec (hbody.trans (takeTo_bad hbad mv))

theorem splitsBecome_next (hq : LeafQuiet d) (hbody : body d (effMask d p.w.k.toNat) (leafOps p h s d) s = .ok s [] 0 nextWord) :
    SplitsBecome i p h (entryGoes { runSplit (leafCtx d) with pc := (runSplit (leafCtx d)).pc + 12 } false) s d :=
  splitsBecome_of_ok hi hexec hq hbody nextWord_eq rfl

theorem splitsBecome_jump (hq : LeafQuiet d) {dest : Word} (hbody : body d (effMask d p.w.k.toNat) (leafOps p h s d) s = takeTo s d dest jumpTo)
    (hok : leafTargetOk s d dest.toNat = true) :
    SplitsBecome i p h (entryGoes { runSplit (leafCtx d) with pc := dest.setWidth 56 } (decide (dest.toNat ≤ (runSplit (leafCtx d)).pc.toNat))) s d :=
  splitsBecome_of_takeTo hi hexec hq hbody hok (jumpTo_eq _) (by dsimp only; rw [toNat_setWidth_of_leafTargetOk hok])
end

/-! ## The nine control words (spec 09, R179 to R187) -/

section
variable (w : LeafWord) (s : State)
theorem exec_lbr : exec (.lbr w) s = execLbr w s := rfl
theorem exec_sbr : exec (.sbr w) s = execSbr w s := rfl
theorem exec_ljmp : exec (.ljmp w) s = execLjmp w s := rfl
theorem exec_lcall : exec (.lcall w) s = execLcall w s := rfl
theorem exec_lret : exec (.lret w) s = execLret w s := rfl
theorem exec_ljoin : exec (.ljoin w) s = execLjoin w s := rfl
theorem exec_lyield : exec (.lyield w) s = execLyield w s := rfl
theorem exec_lend : exec (.lend w) s = execLend w s := rfl
theorem exec_lexit : exec (.lexit w) s = execLexit w s := rfl
end

section
variable {w : LeafWord} {h : Shape} {s : State} {d : Drill} {dest : Word}

/-! LBR: with no lane taken, with every lane taken, and divided. -/

section
variable (hi : LeafIssues { op := 0x280, w, ctl := true } h s d)
include hi

theorem lbr_none (hq : LeafQuiet d) (hnone : effMask d w.k.toNat = 0) :
    SplitsBecome (.lbr w) { op := 0x280, w, ctl := true } h (entryGoes { runSplit (leafCtx d) with pc := (runSplit (leafCtx d)).pc + 12 } false) s d :=
  splitsBecome_next hi (exec_lbr w s) hq (if_pos hnone)

theorem lbr_all (hdest : leafTarget d w = dest) (hq : LeafQuiet d) (hsome : effMask d w.k.toNat ≠ 0) (hall : effMask d w.k.toNat = (runSplit (leafCtx d)).em)
    (hok : leafTargetOk s d dest.toNat = true) :
    SplitsBecome (.lbr w) { op := 0x280, w, ctl := true } h (entryGoes { runSplit (leafCtx d) with pc := dest.setWidth 56 }
      (decide (dest.toNat ≤ (runSplit (leafCtx d)).pc.toNat))) s d := by
  subst hdest
  exact splitsBecome_jump hi (exec_lbr w s) hq ((if_neg hsome).trans (if_pos hall)) hok

theorem lbr_bad (hdest : leafTarget d w = dest) (hsome : effMask d w.k.toNat ≠ 0) (hbad : leafTargetOk s d dest.toNat = false) :
    exec (.lbr w) s = .next (leafTrap s s.cur cFetch dest 0 []) := by
  subst hdest
  refine exec_traps hi (exec_lbr w s) ?_
  simp only [if_neg hsome, takeTo_bad hbad, hbad]
  split
  · rfl
  · split <;> rfl

theorem lbr_full (hdest : leafTarget d w = dest) (hsome : effMask d w.k.toNat ≠ 0) (hdiv : effMask d w.k.toNat ≠ (runSplit (leafCtx d)).em)
    (hok : leafTargetOk s d dest.toNat = true) (hfull : ∀ y, y < 16 → (splitAt (leafCtx d) y).state ≠ 0) :
    exec (.lbr w) s = .next (leafTrap s s.cur cSplitFull 0 0 []) := by
  subst hdest
  refine exec_traps hi (exec_lbr w s) ?_
  simp only [if_neg hsome, if_neg hdiv, freeEntry_eq_none hfull, if_pos hok]

theorem lbr_divides (hdest : leafTarget d w = dest) (hq : LeafQuiet d) (hsome : effMask d w.k.toNat ≠ 0) (hdiv : effMask d w.k.toNat ≠ (runSplit (leafCtx d)).em)
    (hok : leafTargetOk s d dest.toNat = true) {y : Nat} (hfree : freeEntry (leafCtx d) = some y) :
    SplitsBecome (.lbr w) { op := 0x280, w, ctl := true } h
      (fun c => entryGoes { runSplit (leafCtx d) with
          pc := (runSplit (leafCtx d)).pc + 12, em := (runSplit (leafCtx d)).em &&& ~~~effMask d w.k.toNat, sm := (runSplit (leafCtx d)).sm &&& ~~~effMask d w.k.toNat }
        (decide (dest.toNat ≤ (runSplit (leafCtx d)).pc.toNat))
        (putSplit c y { runSplit (leafCtx d) with state := 1, pc := dest.setWidth 56, em := effMask d w.k.toNat, sm := effMask d w.k.toNat })) s d := by
  subst hdest
  refine splitsBecome_of_takeTo hi (exec_lbr w s) hq (mv := divide y (effMask d w.k.toNat)) ?_ hok (divide_eq y _ _) ?_
  · simp only [if_neg hsome, if_neg hdiv, hfree]
  · dsimp only
    rw [toNat_setWidth_of_leafTargetOk hok]
end

/-! SBR and LJMP. -/

theorem exec_sbr_eq (w : LeafWord) (s : State) : exec (.sbr w) s = leafWord { op := 0x281, w, ctl := true } s (fun d _ v t =>
    if sbrHolds (w.md.toNat / 4) (scaOf (opd v 0)) (scaOf (opd v 1)) = true then takeTo t d (leafTarget d w) jumpTo else .ok t [] 0 nextWord) := by
  rw [exec_sbr, execSbr]
  simp only [scalarCond_eq_sbrHolds]

/-- The condition of an SBR on its two scalars. -/
def sbrTaken (w : LeafWord) (h : Shape) (s : State) (d : Drill) : Bool :=
  sbrHolds (w.md.toNat / 4) (scaOf (opd (leafOps { op := 0x281, w, ctl := true } h s d) 0)) (scaOf (opd (leafOps { op := 0x281, w, ctl := true } h s d) 1))

section
variable (hi : LeafIssues { op := 0x281, w, ctl := true } h s d)
include hi

theorem sbr_not_taken (hq : LeafQuiet d) (hnot : sbrTaken w h s d = false) :
    SplitsBecome (.sbr w) { op := 0x281, w, ctl := true } h (entryGoes { runSplit (leafCtx d) with pc := (runSplit (leafCtx d)).pc + 12 } false) s d :=
  splitsBecome_next hi (exec_sbr_eq w s) hq (if_neg (Bool.not_eq_true _ ▸ hnot))

theorem sbr_taken (hdest : leafTarget d w = dest) (hq : LeafQuiet d) (htaken : sbrTaken w h s d = true) (hok : leafTargetOk s d dest.toNat = true) :
    SplitsBecome (.sbr w) { op := 0x281, w, ctl := true } h (entryGoes { runSplit (leafCtx d) with pc := dest.setWidth 56 }
      (decide (dest.toNat ≤ (runSplit (leafCtx d)).pc.toNat))) s d := by
  subst hdest
  exact splitsBecome_jump hi (exec_sbr_eq w s) hq (if_pos htaken) hok

theorem sbr_bad (hdest : leafTarget d w = dest) (htaken : sbrTaken w h s d = true) (hbad : leafTargetOk s d dest.toNat = false) :
    exec (.sbr w) s = .next (leafTrap s s.cur cFetch dest 0 []) := by
  subst hdest
  exact exec_takeTo_bad hi (exec_sbr_eq w s) (mv := jumpTo) (if_pos htaken) hbad
end

section
variable (hi : LeafIssues { op := 0x282, w, ctl := true } h s d)
include hi

theorem ljmp_ok (hdest : leafTarget d w = dest) (hq : LeafQuiet d) (hok : leafTargetOk s d dest.toNat = true) :
    SplitsBecome (.ljmp w) { op := 0x282, w, ctl := true } h (entryGoes { runSplit (leafCtx d) with pc := dest.setWidth 56 }
      (decide (dest.toNat ≤ (runSplit (leafCtx d)).pc.toNat))) s d := by
  subst hdest
  exact splitsBecome_jump hi (exec_ljmp w s) hq rfl hok

theorem ljmp_bad (hdest : leafTarget d w = dest) (hbad : leafTargetOk s d dest.toNat = false) : exec (.ljmp w) s = .next (leafTrap s s.cur cFetch dest 0 []) := by
  subst hdest
  exact exec_takeTo_bad hi (exec_ljmp w s) (mv := jumpTo) rfl hbad
end

/-! LCALL and LRET. -/

section
variable (hi : LeafIssues { op := 0x283, w, ctl := true } h s d)
include hi

theorem lcall_full (hfull : (runSplit (leafCtx d)).depth = 8) : exec (.lcall w) s = .next (leafTrap s s.cur cCallDepth 8 0 []) := by
  refine exec_traps hi (exec_lcall w s) ?_
  simp only [hfull, if_true]
  rfl

theorem lcall_bad (hdest : leafTarget d w = dest) (hroom : (runSplit (leafCtx d)).depth ≠ 8) (hbad : leafTargetOk s d dest.toNat = false) :
    exec (.lcall w) s = .next (leafTrap s s.cur cFetch dest 0 []) := by
  subst hdest
  exact exec_takeTo_bad hi (exec_lcall w s) (if_neg hroom) hbad

theorem lcall_ok (hdest : leafTarget d w = dest) (hq : LeafQuiet d) (hroom : (runSplit (leafCtx d)).depth ≠ 8) (hok : leafTargetOk s d dest.toNat = true) :
    SplitsBecome (.lcall w) { op := 0x283, w, ctl := true } h (entryGoes { runSplit (leafCtx d) with
      rs := tabSet 0 (runSplit (leafCtx d)).rs (runSplit (leafCtx d)).depth.toNat ((runSplit (leafCtx d)).pc + 12), depth := (runSplit (leafCtx d)).depth + 1,
      pc := dest.setWidth 56 } false) s d := by
  subst hdest
  exact splitsBecome_of_takeTo hi (exec_lcall w s) hq (if_neg hroom) hok (fun _ => rfl) rfl
end

section
variable (hi : LeafIssues { op := 0x284, w, ctl := true } h s d)
include hi

theorem lret_empty (hempty : (runSplit (leafCtx d)).depth = 0) : exec (.lret w) s = .next (leafTrap s s.cur cCallDepth 0 0 []) :=
  exec_traps hi (exec_lret w s) (if_pos hempty)

variable (hdeep : (runSplit (leafCtx d)).depth ≠ 0)
include hdeep

theorem lret_bad (hbad : leafTargetOk s d (tabGet 0 (runSplit (leafCtx d)).rs ((runSplit (leafCtx d)).depth.toNat - 1)).toNat = false) :
    exec (.lret w) s = .next (leafTrap s s.cur cFetch ((tabGet 0 (runSplit (leafCtx d)).rs ((runSplit (leafCtx d)).depth.toNat - 1)).setWidth 64) 0 []) :=
  exec_takeTo_bad hi (exec_lret w s) (if_neg hdeep) (by rwa [BitVec.toNat_setWidth_of_le (by decide)])

theorem lret_ok (hq : LeafQuiet d) (hok : leafTargetOk s d (tabGet 0 (runSplit (leafCtx d)).rs ((runSplit (leafCtx d)).depth.toNat - 1)).toNat = true) :
    SplitsBecome (.lret w) { op := 0x284, w, ctl := true } h (entryGoes { runSplit (leafCtx d) with
      rs := tabDel (runSplit (leafCtx d)).rs ((runSplit (leafCtx d)).depth.toNat - 1), depth := (runSplit (leafCtx d)).depth - 1,
      pc := tabGet 0 (runSplit (leafCtx d)).rs ((runSplit (leafCtx d)).depth.toNat - 1) } false) s d := by
  refine splitsBecome_of_takeTo hi (exec_lret w s) hq (if_neg hdeep) (by rwa [BitVec.toNat_setWidth_of_le (by decide)]) (fun _ => rfl) ?_
  rw [BitVec.setWidth_setWidth_of_le _ (by decide), BitVec.setWidth_eq]
  rfl
end

theorem lexit_moves (hi : LeafIssues { op := 0x288, w, ctl := true } h s d) (hq : LeafQuiet d) :
    ∃ t e, exec (.lexit w) s = .next t ∧ e = exitLanes (effMask d w.k.toNat) d ∧ e.live = d.live &&& ~~~effMask d w.k.toNat ∧
      LeafMoves (leafPops { op := 0x288, w, ctl := true } h) e s t s.cur d := by
  obtain ⟨t, hexec, hmoves⟩ := leafWord_moves hi hq (body := fun _ m _ t => .ok t [] 0 (exitLanes m)) rfl (exitLanes_lanesOnly _ d) (exitLanes_withHoses _ d)
  exact ⟨t, _, (exec_lexit w s).trans hexec, rfl, exitLanes_live _ d, hmoves⟩
end

/-- Settles O36: a control word without results moves the drill by its own effect on the split table and ends the routine where nothing goes on; each word
gives that effect by the conditions of its rule. -/
theorem leafControl : Obligations.LeafControl := by
  refine ⟨?_, fun c i l p k => inMask_awaited_fresh c i l p k⟩
  intro w h s d c x dest back ok m bad hq
  have hdest : leafTarget d w = dest := leafTarget_eq d w
  refine ⟨fun hi => ⟨lbr_none hi hq, fun hsome hall => ⟨fun hok => ?_, fun hbad => ?_⟩, fun hsome hdiv => ⟨fun hbad => ?_, fun hok hfull => ?_, fun y hok hy hfree hlow => ?_⟩⟩,
    fun hi => ⟨fun hnot => ?_, fun htaken hok => ?_, fun htaken hbad => ?_⟩, fun hi => ⟨fun hok => ?_, fun hbad => ?_⟩,
    fun hi => ⟨lcall_full hi, fun hroom hbad => ?_, fun hroom hok => ?_⟩, fun hi => ⟨lret_empty hi, lret_bad hi, fun hdeep => lret_ok hi hdeep hq⟩,
    fun hi => ?_, fun hi => ?_, fun hi => ?_, fun hi => lexit_moves hi hq⟩
  -- LBR
  · exact lbr_all hi hdest hq hsome hall hok
  · exact lbr_bad hi hdest hsome hbad
  · exact lbr_bad hi hdest hsome hbad
  · exact lbr_full hi hdest hsome hdiv hok hfull
  · exact lbr_divides hi hdest hq hsome hdiv hok (freeEntry_eq_some hy hfree hlow)
  -- SBR
  · exact sbr_not_taken hi hq hnot
  · exact sbr_taken hi hdest hq htaken hok
  · exact sbr_bad hi hdest htaken hbad
  -- LJMP
  · exact ljmp_ok hi hdest hq hok
  · exact ljmp_bad hi hdest hbad
  -- LCALL
  · exact lcall_bad hi hdest hroom hbad
  · exact lcall_ok hi hdest hq hroom hok
  -- LJOIN, LYIELD, LEND
  · exact splitsBecome_of_ok hi (exec_ljoin w s) hq rfl (fun _ => rfl) rfl
  · exact splitsBecome_of_ok hi (exec_lyield w s) hq rfl (fun _ => rfl) (if_pos rfl).symm
  · exact splitsBecome_of_ok hi (exec_lend w s) hq rfl (fun _ => rfl) rfl

end Sys2Proof.Machine
end

section
/-! PROOF. The lane-wise floating-point words, and RoundTo of a value that the format holds (spec 05, R89, R95; 07, R144 to R148). -/
namespace Sys2Proof.Machine

/-! ## Lane-wise words (spec 07, R137 to R140) -/

theorem laneWord_gives {i : Instr} {op : Nat} {w : LeafWord} {f : Nat → Nat → Nat → Nat → Nat × Nat} {h : Shape} {s : State} {d : Drill}
    (hi : LeafIssues { op, w } h s d) (hexec : exec i s = laneWord op w f s) :
    LanesGive i { op, w } h (fun l => f (leafCtx d).fmode.toNat (elem (typeBits w.ty.toNat) (opd (leafOps { op, w } h s d) 0) l)
      (elem (typeBits w.ty.toNat) (opd (leafOps { op, w } h s d) 1) l) (elem (typeBits w.ty.toNat) (opd (leafOps { op, w } h s d) 2) l)) s d := by
  unfold LanesGive LeafGives
  rw [hexec]
  exact leafWord_completes hi rfl

/-- Each row of Tables 7.3 and 7.4 is a lane-wise word under the settings of its type, its rounding code and the routine's FMODE. -/
theorem exec_floatRow {i : Instr} {op : Nat} {w : LeafWord} {f : FloatEnv → Nat → Nat → Nat → Nat × Nat} (hrow : floatRow i = some (op, w, f)) (s : State) :
    exec i s = laneWord op w (fun fm => f (floatEnv w fm)) s := by
  revert hrow
  fun_cases floatRow i <;> intro hrow <;> cases hrow
  -- VFADD, VFSUB, VFMUL, VFMA, VFMS, VFNMA
  case case1 => exact show execVfadd w s = _ from rfl
  case case2 => exact show execVfsub w s = _ from rfl
  case case3 => exact show execVfmul w s = _ from rfl
  case case4 => exact show execVfma w s = _ from rfl
  case case5 => exact show execVfms w s = _ from rfl
  case case6 => exact show execVfnma w s = _ from rfl
  -- VFDIV, VFSQRT, VFRCP, VFRSQ, VFEXP2, VFLOG2
  case case7 => exact show execVfdiv w s = _ from rfl
  case case8 => exact show execVfsqrt w s = _ from rfl
  case case9 => exact show execVfrcp w s = _ from rfl
  case case10 => exact show execVfrsq w s = _ from rfl
  case case11 => exact show execVfexp2 w s = _ from rfl
  case case12 => exact show execVflog2 w s = _ from rfl
  -- VFMIN, VFMAX, VFABS, VFNEG
  case case13 => exact show execVfmin w s = _ from rfl
  case case14 => exact show execVfmax w s = _ from rfl
  case case15 => exact show execVfabs w s = _ from rfl
  case case16 => exact show execVfneg w s = _ from rfl

theorem exec_vfclass (w : LeafWord) (s : State) : exec (.vfclass w) s = execVfclass w s := rfl

/-! ## Formats (spec 05, Table 5.2) -/

/-- What the formats of Table 5.2 share: sign, exponent and fraction fill the width, and the bias is half the exponent range. -/
structure Fmt.Binary (f : Fmt) : Prop where
  width : f.bits = f.p - 1 + f.eb + 1
  hidden : 2 ≤ f.p
  biased : 2 ^ f.eb = 2 * f.bias + 2
  range : 1 ≤ f.bias

theorem fmtOf_binary (ty : Nat) : (fmtOf ty).Binary := by
  unfold fmtOf
  repeat' split
  all_goals exact ⟨by decide, by decide, by decide, by decide⟩

theorem bitsOf_zero (x w : Nat) : bitsOf x 0 w = x % 2 ^ w := rfl

theorem bitsOf_lt (x lo w : Nat) : bitsOf x lo w < 2 ^ w := Nat.mod_lt _ (Nat.two_pow_pos w)

theorem bitsOf_eq_div_mod (x lo w : Nat) : bitsOf x lo w = x / 2 ^ lo % 2 ^ w := by rw [bitsOf, Nat.shiftRight_eq_div_pow]

section
variable {f : Fmt} (hf : f.Binary)
include hf

/-- Sign, exponent and fraction make up the bits of a value. -/
theorem sign_exponent_fraction {x : Nat} (hx : x < 2 ^ f.bits) :
    signBit f (bitOf x (f.bits - 1)) + (bitsOf x (f.p - 1) f.eb * 2 ^ (f.p - 1) + bitsOf x 0 (f.p - 1)) = x := by
  have hwidth : f.bits - 1 = f.p - 1 + f.eb := by rw [hf.width, Nat.add_sub_cancel]
  have hlow : bitsOf x (f.p - 1) f.eb * 2 ^ (f.p - 1) + bitsOf x 0 (f.p - 1) = x % 2 ^ (f.p - 1 + f.eb) := by
    rw [bitsOf_eq_div_mod, bitsOf_zero, Nat.pow_add, Nat.mod_mul, Nat.mul_comm, Nat.add_comm]
  have htop : x / 2 ^ (f.p - 1 + f.eb) < 2 := by
    rw [hf.width, Nat.pow_succ] at hx
    exact Nat.div_lt_of_lt_mul hx
  have hsign : signBit f (bitOf x (f.bits - 1)) = 2 ^ (f.p - 1 + f.eb) * (x / 2 ^ (f.p - 1 + f.eb)) := by
    rw [signBit, bitOf, hwidth, Nat.testBit_eq_decide_div_mod_eq, Nat.mod_eq_of_lt htop]
    generalize x / 2 ^ (f.p - 1 + f.eb) = top at htop
    obtain rfl | rfl : top = 0 ∨ top = 1 := by omega
    · simp
    · simp
  rw [hlow, hsign, Nat.div_add_mod]
end

/-! ## The values of bits (spec 05, R89) -/

section
variable {f : Fmt} {x : Nat}

theorem unpack_inf (htop : bitsOf x (f.p - 1) f.eb = 2 ^ f.eb - 1) (hzero : bitsOf x 0 (f.p - 1) = 0) : unpack f x = .inf (bitOf x (f.bits - 1)) :=
  (if_pos htop).trans (if_pos hzero)

theorem unpack_nan (htop : bitsOf x (f.p - 1) f.eb = 2 ^ f.eb - 1) (hsome : bitsOf x 0 (f.p - 1) ≠ 0) :
    unpack f x = .nan (bitOf x (f.bits - 1)) (bitsOf x 0 (f.p - 1)) (f.p - 1) :=
  (if_pos htop).trans (if_neg hsome)

theorem unpack_subnormal (htop : bitsOf x (f.p - 1) f.eb ≠ 2 ^ f.eb - 1) (hsub : bitsOf x (f.p - 1) f.eb = 0) :
    unpack f x = .fin (bitOf x (f.bits - 1)) (bitsOf x 0 (f.p - 1)) (eminOf f - ((f.p - 1 : Nat) : Int)) :=
  (if_neg htop).trans (if_pos hsub)

theorem unpack_normal (htop : bitsOf x (f.p - 1) f.eb ≠ 2 ^ f.eb - 1) (hnorm : bitsOf x (f.p - 1) f.eb ≠ 0) :
    unpack f x = .fin (bitOf x (f.bits - 1)) (2 ^ (f.p - 1) + bitsOf x 0 (f.p - 1)) ((bitsOf x (f.p - 1) f.eb : Int) - (f.bias : Int) - ((f.p - 1 : Nat) : Int)) :=
  (if_neg htop).trans (if_neg hnorm)
end

/-! ## RoundTo (spec 05, R95) -/

/-- A magnitude in whole units is picked as it is. -/
theorem pickShift_zero (mode : Nat) (neg : Bool) (m : Nat) : pickShift mode neg m 0 false = (m, false) := by
  simp [pickShift]

section
variable {f : Fmt} (hf : f.Binary)
include hf

/-- A value of at most p digits in units of its own exponent is encoded with no flag: in the range of normal values with its leading digit hidden, below it in
units of the least exponent. -/
theorem roundFin_exact (mode : Nat) (neg : Bool) {m : Nat} {e : Int} (hm : m ≠ 0) (hdigits : m < 2 ^ f.p)
    (hexp : e = max ((m.log2 : Int) + e) (eminOf f) - (f.p : Int) + 1) (hmax : (m.log2 : Int) + e ≤ (f.bias : Int)) :
    roundFin f mode false neg m e false =
      (signBit f neg + (if m < 2 ^ (f.p - 1) then m else (max ((m.log2 : Int) + e) (eminOf f) + (f.bias : Int)).toNat * 2 ^ (f.p - 1) + (m - 2 ^ (f.p - 1))), 0) := by
  have hfits : ¬ max ((m.log2 : Int) + e) (eminOf f) > (f.bias : Int) := by
    have hrange := hf.range
    unfold eminOf
    omega
  have hunit : e - (max ((m.log2 : Int) + e) (eminOf f) - (f.p : Int) + 1) = 0 := by omega
  unfold roundFin
  simp only [hm, false_and, if_false, hunit, pickShift_zero, Nat.ne_of_lt hdigits, hfits, Bool.and_false, Bool.false_eq_true]

theorem roundFin_subnormal (mode : Nat) (neg : Bool) {frac : Nat} (hfrac : frac < 2 ^ (f.p - 1)) :
    roundFin f mode false neg frac (eminOf f - ((f.p - 1 : Nat) : Int)) false = (signBit f neg + frac, 0) := by
  by_cases hzero : frac = 0
  · subst hzero
    simp [roundFin, zeroBits]
  · have hp := hf.hidden
    have hlog : frac.log2 < f.p - 1 := (Nat.log2_lt hzero).2 hfrac
    have hwider : 2 ^ (f.p - 1) ≤ 2 ^ f.p := Nat.pow_le_pow_right (by decide) (by omega)
    have hrange := hf.range
    have hemin : eminOf f = 1 - (f.bias : Int) := rfl
    rw [roundFin_exact hf mode neg hzero (by omega) (by omega) (by omega), if_pos hfrac]

theorem roundFin_normal (mode : Nat) (neg : Bool) {ex frac : Nat} (hlow : ex ≠ 0) (hhigh : ex < 2 ^ f.eb - 1) (hfrac : frac < 2 ^ (f.p - 1)) :
    roundFin f mode false neg (2 ^ (f.p - 1) + frac) ((ex : Int) - (f.bias : Int) - ((f.p - 1 : Nat) : Int)) false =
      (signBit f neg + (ex * 2 ^ (f.p - 1) + frac), 0) := by
  have hp := hf.hidden
  have hdouble : 2 ^ f.p = 2 ^ (f.p - 1) * 2 := by rw [← Nat.pow_succ, Nat.succ_eq_add_one, Nat.sub_add_cancel (by omega)]
  have hpos : 0 < 2 ^ (f.p - 1) := Nat.two_pow_pos _
  have hlog : (2 ^ (f.p - 1) + frac).log2 = f.p - 1 := (Nat.log2_eq_iff (by omega)).2 ⟨by omega, by rw [Nat.pow_succ]; omega⟩
  have hbiased := hf.biased
  have hemin : eminOf f = 1 - (f.bias : Int) := rfl
  rw [roundFin_exact hf mode neg (by omega) (by omega) (by omega) (by omega), if_neg (by omega), Nat.add_sub_cancel_left]
  have hex : (max (((2 ^ (f.p - 1) + frac).log2 : Int) + ((ex : Int) - (f.bias : Int) - ((f.p - 1 : Nat) : Int))) (eminOf f) + (f.bias : Int)).toNat = ex := by
    omega
  rw [hex]

/-- RoundTo gives back the bits of a value that the format holds, with no flag. -/
theorem roundVal_unpack (mode : Nat) (canon : Bool) {x : Nat} (hx : x < 2 ^ f.bits) (hnum : isNaN (unpack f x) = false) :
    roundVal f mode false canon (unpack f x) = (x, 0) := by
  have hparts := sign_exponent_fraction hf hx
  have hfrac := bitsOf_lt x 0 (f.p - 1)
  have hexp := bitsOf_lt x (f.p - 1) f.eb
  by_cases htop : bitsOf x (f.p - 1) f.eb = 2 ^ f.eb - 1
  · by_cases hzero : bitsOf x 0 (f.p - 1) = 0
    · rw [unpack_inf htop hzero]
      rw [htop, hzero, Nat.add_zero] at hparts
      exact Prod.ext hparts rfl
    · rw [unpack_nan htop hzero] at hnum
      cases hnum
  · by_cases hsub : bitsOf x (f.p - 1) f.eb = 0
    · rw [unpack_subnormal htop hsub]
      rw [hsub, Nat.zero_mul, Nat.zero_add] at hparts
      exact (roundFin_subnormal hf mode _ hfrac).trans (Prod.ext hparts rfl)
    · rw [unpack_normal htop hsub]
      exact (roundFin_normal hf mode _ hsub (by omega) hfrac).trans (Prod.ext hparts rfl)
end

/-- Settles O34: every row is a lane-wise word, which gives each active lane its result; VFCLASS gives the lanes of its body; and RoundTo keeps what unpacking
splits into sign, exponent and fraction. -/
theorem leafFloats : Obligations.LeafFloats := by
  refine ⟨fun i op w f h s d hrow hi => ?_, fun w h s d hi => ?_, fun ty x mode canon _ hx hnum => ?_⟩
  · have hgives := laneWord_gives hi (exec_floatRow hrow s)
    exact hgives
  · dsimp only
    unfold LeafGives
    rw [exec_vfclass]
    exact leafWord_completes hi rfl
  · exact roundVal_unpack (fmtOf_binary ty) mode canon hx hnum

end Sys2Proof.Machine
end

section
/-! PROOF. The integer words of the leaf, exact, saturating and on bits, and the words that move elements (spec 05, R87, R88; 07, R137 to R143, R156;
08, R170, R171). -/
namespace Sys2Proof.Machine

/-! ## Elements and lanes (spec 07, R137, R139) -/

theorem elem_lt (n : Nat) (x : Opd) (l : Nat) : elem n x l < 2 ^ n := by
  cases x with
  | nothing => exact Nat.two_pow_pos n
  | sca y => exact Nat.mod_lt _ (Nat.two_pow_pos n)
  | vec lo hi =>
    have hlo := lane_lt lo l
    have hhi := lane_lt hi l
    rw [elem]
    by_cases h64 : n = 64
    · subst n
      rw [if_pos rfl]
      omega
    · rw [if_neg h64]
      exact Nat.mod_lt _ (Nat.two_pow_pos n)

@[simp] theorem toNat_element (n : Nat) (v : List Opd) (k l : Nat) : (element n v k l).toNat = elem n (opd v k) l := by
  rw [element, BitVec.toNat_ofNat, Nat.mod_eq_of_lt (elem_lt n _ l)]

theorem packFields_congr (w : Nat) {f g : Nat → Nat} {n : Nat} (h : ∀ i, i < n → f i = g i) : packFields w f n = packFields w g n := by
  induction n with
  | zero => rfl
  | succ n ih => rw [packFields, packFields, ih (fun i hi => h i (Nat.lt_succ_of_lt hi)), h n (Nat.lt_succ_self n)]

theorem vecOfLanes_congr {f g : Nat → Nat} (h : ∀ l, l < 32 → f l = g l) : vecOfLanes f = vecOfLanes g := by
  rw [vecOfLanes, vecOfLanes, packFields_congr 32 h]

theorem getD_below {α : Type} (f : Nat → α) (x : α) {l : Nat} (hl : l < 32) : ((below 32).map f).getD l x = f l := by
  rw [below_eq_range, List.getD_eq_getElem?_getD, List.getElem?_map, List.getElem?_range hl, Option.map_some, Option.getD_some]

/-! ## Exact integers (spec 05, R87, R88) -/

theorem wrapTo_eq_toNat_ofInt (n : Nat) (x : Int) : wrapTo n x = (BitVec.ofInt n x).toNat := (BitVec.toNat_ofInt x).symm

@[simp] theorem signOf_toNat {n : Nat} (a : BitVec n) : signOf n a.toNat = a.toInt := by
  obtain rfl | hn := n.eq_zero_or_pos
  · rw [BitVec.eq_nil a]
    rfl
  · rw [signOf_eq_toInt hn, BitVec.ofNat_toNat, BitVec.setWidth_eq]

@[simp] theorem intVal_toNat (ty : Nat) (a : BitVec (typeBits ty)) : intVal ty a.toNat = exactOf (isSignedTy ty) a := by
  rw [intVal, exactOf, signOf_toNat]

/-- A lane holds the element sign-extended for a signed type, zero-extended for an unsigned one. -/
theorem laneBits_toNat (ty : Nat) (x : BitVec (typeBits ty)) :
    laneBits ty x.toNat = if isSignedTy ty = true then (x.signExtend 32).toNat else x.toNat := by
  rw [laneBits, signOf_toNat, BitVec.signExtend, wrapTo_eq_toNat_ofInt]

theorem leastOf_le_greatestOf (signed : Bool) (n : Nat) : leastOf signed n ≤ greatestOf signed n := by
  have hhalf : 0 < 2 ^ (n - 1) := Nat.two_pow_pos _
  have hfull : 0 < 2 ^ n := Nat.two_pow_pos _
  unfold leastOf greatestOf
  split <;> omega

/-- Saturation answers the nearest value of the range, with SATF where that is another value. -/
theorem satTo_eq {lo hi : Int} (h : lo ≤ hi) (x : Int) :
    satTo lo hi x = (max lo (min hi x), if max lo (min hi x) ≠ x then flSATF else 0) := by
  unfold satTo
  split
  · rw [if_pos (by omega)]; congr 1; omega
  · split
    · rw [if_pos (by omega)]; congr 1; omega
    · rw [if_neg (by omega)]; congr 1; omega

/-- An exact result as its type takes it: the nearest value of the type where the routine saturates. -/
def nearest (sat signed : Bool) (n : Nat) (x : Int) : Int := if sat = true then max (leastOf signed n) (min (greatestOf signed n) x) else x

theorem nearest_wraps (signed : Bool) (n : Nat) (x : Int) : nearest false signed n x = x := if_neg Bool.false_ne_true

theorem intFit_eq (fm ty : Nat) (x : Int) :
    intFit fm ty x = (wrapTo (typeBits ty) (nearest (bitOf fm 5) (isSignedTy ty) (typeBits ty) x),
      if nearest (bitOf fm 5) (isSignedTy ty) (typeBits ty) x ≠ x then flSATF else 0) := by
  unfold intFit
  cases hsat : bitOf fm 5 with
  | false => simp only [Bool.false_eq_true, if_false, nearest_wraps, ne_eq, not_true_eq_false]
  | true =>
    have hclamp : satTo (intMin (isSignedTy ty) (typeBits ty)) (intMax (isSignedTy ty) (typeBits ty)) x = _ :=
      satTo_eq (leastOf_le_greatestOf (isSignedTy ty) (typeBits ty)) x
    simp only [if_true, hclamp, nearest]

/-! ## What a word gives lane by lane (spec 07, R137 to R140) -/

theorem foldl_or_ite {α : Type} (hit : α → Bool) (c : Nat) (xs : List α) (a : Nat) :
    (xs.map (fun x => if hit x = true then c else 0)).foldl (fun a x => a ||| x) a = if xs.any hit = true then a ||| c else a := by
  induction xs generalizing a with
  | nil => rfl
  | cons x xs ih =>
    rw [List.map_cons, List.foldl_cons, ih, List.any_cons]
    cases hit x with
    | false => simp only [Bool.false_eq_true, if_false, Nat.or_zero, Bool.false_or]
    | true => simp only [if_true, Bool.true_or, Nat.or_assoc, Nat.or_self, ite_self]

/-- The flags of a word whose lanes set flag c, or none. -/
theorem orAll_onLanes (m : LaneMask) (g : Nat → Nat × Nat) (hit : Nat → Bool) (c : Nat) (hg : ∀ l, (g l).2 = if hit l = true then c else 0) :
    orAll ((onLanes m g).map (·.2)) = if (below 32).any (fun l => inMask m l && hit l) = true then c else 0 := by
  have hlane (l : Nat) : (if inMask m l = true then g l else (0, 0)).2 = if (inMask m l && hit l) = true then c else 0 := by
    cases inMask m l
    · rfl
    · exact hg l
  rw [orAll, onLanes, List.map_map, Function.comp_def]
  simp only [hlane]
  exact (foldl_or_ite _ c _ 0).trans (by rw [Nat.zero_or])

/-- The results of the active lanes, written to a field, are the elements that they are the bits of. -/
theorem vecWrites_onLanes (ty f : Nat) (m : LaneMask) (g : Nat → Nat × Nat) (r : Nat → BitVec (typeBits ty)) (hg : ∀ l, (g l).1 = (r l).toNat) :
    vecWrites ty f m ((onLanes m g).map (·.1)) = elementsTo (typeBits ty) (isSignedTy ty) f m r := by
  have hlane {l : Nat} (hl : l < 32) : ((onLanes m g).map (·.1)).getD l 0 = (if inMask m l = true then r l else 0).toNat := by
    rw [onLanes, List.map_map, getD_below _ _ hl, Function.comp_apply]
    cases inMask m l
    · exact BitVec.toNat_zero.symm
    · exact hg l
  unfold vecWrites elementsTo
  split
  · rw [vecOfLanes_congr (fun l hl => congrArg (· % 2 ^ 32) (hlane hl)), vecOfLanes_congr (fun l hl => congrArg (· / 2 ^ 32) (hlane hl))]
  · rw [vecOfLanes_congr (fun l hl => (congrArg (laneBits ty) (hlane hl)).trans (laneBits_toNat ty _))]

section
variable {i : Instr} {op : Nat} {w : LeafWord} {h : Shape} {s : State} {d : Drill} {g : Nat → Nat × Nat}

/-- Active lanes that give the bits of elements, each with flag c or none, write those elements. -/
theorem LanesGive.elements (hlanes : LanesGive i { op, w } h g s d) (r : Nat → BitVec (typeBits w.ty.toNat)) (hit : Nat → Bool) (c : Nat)
    (hg : ∀ l, g l = ((r l).toNat, if hit l = true then c else 0)) :
    LeafGives i { op, w } h (elementsTo (typeBits w.ty.toNat) (isSignedTy w.ty.toNat) w.vd.toNat (effMask d w.k.toNat) r)
      (if (below 32).any (fun l => inMask (effMask d w.k.toNat) l && hit l) = true then c else 0) s d := by
  rw [← vecWrites_onLanes w.ty.toNat w.vd.toNat _ g r (fun l => congrArg Prod.fst (hg l)), ← orAll_onLanes _ g hit c (fun l => congrArg Prod.snd (hg l))]
  exact hlanes

theorem LanesGive.elements_flagless (hlanes : LanesGive i { op, w } h g s d) (r : Nat → BitVec (typeBits w.ty.toNat)) (hg : ∀ l, g l = ((r l).toNat, 0)) :
    LeafGives i { op, w } h (elementsTo (typeBits w.ty.toNat) (isSignedTy w.ty.toNat) w.vd.toNat (effMask d w.k.toNat) r) 0 s d := by
  have hgives := hlanes.elements r (fun _ => false) 0 hg
  rw [ite_self] at hgives
  exact hgives

/-- A word whose body gives its active lanes by g. -/
theorem laneOut_gives {body : Drill → LaneMask → List Opd → State → LeafBody} (hi : LeafIssues { op, w } h s d) (hexec : exec i s = leafWord { op, w } s body)
    (hbody : body d (effMask d w.k.toNat) (leafOps { op, w } h s d) s = laneOut s w w.ty.toNat (effMask d w.k.toNat) g) : LanesGive i { op, w } h g s d := by
  unfold LanesGive LeafGives
  rw [hexec]
  exact leafWord_completes hi hbody
end

/-! ## VADD, VSUB, VMUL, VMAD, VABS, VNEG (spec 07, Table 7.2) -/

theorem exec_vabs (w : LeafWord) (s : State) : exec (.vabs w) s = execVabs w s := rfl
theorem exec_vneg (w : LeafWord) (s : State) : exec (.vneg w) s = execVneg w s := rfl

theorem exec_exactRow {i : Instr} {op : Nat} {w : LeafWord} {f : Int → Int → Int → Int} (hrow : exactRow i = some (op, w, f)) (s : State) :
    exec i s = intWord op w f s := by
  revert hrow
  fun_cases exactRow i <;> intro hrow <;> cases hrow
  case case1 => exact show execVadd w s = _ from rfl
  case case2 => exact show execVsub w s = _ from rfl
  case case3 => exact show execVmul w s = _ from rfl
  case case4 => exact show execVmad w s = _ from rfl
  case case5 =>
    have habs : (fun a _ _ : Int => (a.natAbs : Int)) = fun a _ _ => if a < 0 then -a else a := by
      funext a _ _
      split <;> omega
    rw [exec_vabs, execVabs, habs]
  case case6 =>
    rw [exec_vneg, execVneg]
    simp only [Int.zero_sub]

/-- Settles O30: each row is a word on exact integers, whose result wraps to its type or, where the routine saturates, is the nearest value, with the flag of
the lanes where that is another value. -/
theorem leafExactIntegers : Obligations.LeafExactIntegers := by
  intro i op w f h s d hrow hi n sg v m x sat y
  have hexec := exec_exactRow hrow s
  dsimp only [intWord] at hexec
  have hgives := (laneWord_gives hi hexec).elements (fun l => BitVec.ofInt n (y l)) (fun l => decide (y l ≠ x l)) flSATF (fun l => by
    simp only [← toNat_element, intVal_toNat, intFit_eq, wrapTo_eq_toNat_ofInt, decide_eq_true_eq]
    rfl)
  have hflags : (if (below 32).any (fun l => inMask m l && decide (y l ≠ x l)) = true then flSATF else 0) =
      if sat = true ∧ (below 32).any (fun l => inMask m l && decide (y l ≠ x l)) = true then 32 else 0 := by
    cases hsat : sat with
    | true => simp only [flSATF, true_and]
    | false =>
      have hsame (l : Nat) : y l = x l := if_neg (by rw [hsat]; exact Bool.false_ne_true)
      have hnone : (below 32).any (fun l => inMask m l && decide (y l ≠ x l)) = false :=
        List.any_eq_false.2 (fun l _ => by simp only [hsame, ne_eq, not_true_eq_false, decide_false, Bool.and_false, Bool.false_eq_true, not_false_eq_true])
      simp only [hnone, Bool.false_eq_true, and_false, if_false]
  rw [← hflags]
  exact hgives

/-! ## The words on bits (spec 07, Table 7.2) -/

/-- The high half of an exact integer as twice its width holds it. -/
theorem emod_square_ediv {k : Int} (hk : 0 < k) (p : Int) : p % (k * k) / k = p / k % k := by
  rw [Int.emod_def, Int.emod_def, Int.mul_assoc, Int.sub_mul_ediv_left _ _ (Int.ne_of_gt hk), Int.ediv_ediv_of_nonneg (Int.le_of_lt hk)]

theorem extractLsb'_high_ofInt (n : Nat) (p : Int) : (BitVec.ofInt (2 * n) p).extractLsb' n n = BitVec.ofInt n (p / (2 ^ n : Nat)) := by
  have hpos : (0 : Int) < (2 ^ n : Nat) := Int.natCast_pos.2 (Nat.two_pow_pos n)
  have hsquare : ((2 ^ (2 * n) : Nat) : Int) = (2 ^ n : Nat) * (2 ^ n : Nat) := by rw [Nat.two_mul, Nat.pow_add, Int.natCast_mul]
  have hlow : 0 ≤ p % (2 ^ (2 * n) : Nat) := Int.emod_nonneg _ (by rw [hsquare]; exact Int.ne_of_gt (Int.mul_pos hpos hpos))
  obtain ⟨q, hq⟩ := Int.eq_ofNat_of_zero_le hlow
  have hhigh : p / (2 ^ n : Nat) % (2 ^ n : Nat) = (q / 2 ^ n % 2 ^ n : Nat) := by
    rw [Int.natCast_emod, Int.natCast_ediv, ← hq, hsquare, emod_square_ediv hpos, Int.emod_emod]
  apply BitVec.eq_of_toNat_eq
  rw [BitVec.extractLsb'_toNat, BitVec.toNat_ofInt, BitVec.toNat_ofInt, Nat.shiftRight_eq_div_pow, hq, hhigh, Int.toNat_natCast, Int.toNat_natCast]

/-- An element extended to twice its width is its exact integer. -/
theorem ofInt_exactOf (signed : Bool) {n : Nat} (a : BitVec n) :
    BitVec.ofInt (2 * n) (exactOf signed a) = if signed = true then a.signExtend (2 * n) else a.setWidth (2 * n) := by
  cases signed with
  | true => rfl
  | false => exact (BitVec.ofInt_natCast _ _).trans (BitVec.ofNat_toNat _ a)

theorem length_filter_ge (c n : Nat) : ((List.range n).filter (fun k => decide (c ≤ k))).length = n - c := by
  induction n with
  | zero => exact (Nat.zero_sub c).symm
  | succ n ih =>
    rw [List.range_succ, List.filter_append, List.length_append, ih]
    by_cases hc : c ≤ n
    · simp only [hc, List.filter_cons, decide_true, if_true, List.filter_nil, List.length_singleton]
      omega
    · simp only [hc, List.filter_cons, decide_false, Bool.false_eq_true, if_false, List.filter_nil, List.length_nil]
      omega

/-- The leading zeros of a are the places above its highest one. -/
theorem leadZeros_eq (n a : Nat) : leadZeros n a = ((List.range n).filter (fun k => decide (a < 2 ^ k))).length := by
  unfold leadZeros
  split
  · subst a
    have hall : (List.range n).filter (fun k => decide (0 < 2 ^ k)) = List.range n := List.filter_eq_self.2 (fun k _ => decide_eq_true (Nat.two_pow_pos k))
    rw [hall, List.length_range]
  · have hplace (k : Nat) : decide (a < 2 ^ k) = decide (a.log2 + 1 ≤ k) := decide_eq_decide.2 (Nat.log2_lt ‹_›).symm
    simp only [hplace, length_filter_ge]
    omega

theorem popCount_eq (n a : Nat) : popCount n a = ((List.range n).filter a.testBit).length := by
  induction n generalizing a with
  | zero => rfl
  | succ n ih =>
    have hhigh : a.testBit ∘ Nat.succ = (a / 2).testBit := funext (Nat.testBit_succ a)
    rw [popCount, ih, List.range_succ_eq_map, List.filter_cons, List.filter_map, hhigh, Nat.testBit_zero]
    rcases Nat.mod_two_eq_zero_or_one a with hlow | hlow
    · simp only [hlow, Nat.zero_ne_one, decide_false, Bool.false_eq_true, if_false, List.length_map, Nat.zero_add]
    · simp only [hlow, decide_true, if_true, List.length_cons, List.length_map, Nat.add_comm]

section
variable {n : Nat} (a b : BitVec n)

theorem toNat_mulHigh (signed : Bool) :
    (if signed = true then (a.signExtend (2 * n) * b.signExtend (2 * n)).extractLsb' n n else (a.setWidth (2 * n) * b.setWidth (2 * n)).extractLsb' n n).toNat =
      wrapTo n (exactOf signed a * exactOf signed b / (2 ^ n : Nat)) := by
  rw [wrapTo_eq_toNat_ofInt, ← extractLsb'_high_ofInt, BitVec.ofInt_mul, ofInt_exactOf, ofInt_exactOf]
  cases signed with
  | true => rfl
  | false => rfl

theorem toNat_sshiftRight_eq_wrapTo (k : Nat) : (a.sshiftRight k).toNat = wrapTo n (a.toInt / (2 ^ k : Nat)) := by
  rw [wrapTo_eq_toNat_ofInt, BitVec.sshiftRight_eq, Int.shiftRight_eq_div_pow]
end

/-- Each of the other rows of Table 7.2 is a word on bits, whose bits are those of the row's result. -/
theorem exec_bitsRow {i : Instr} {op : Nat} {w : LeafWord} {f : ∀ n, Bool → BitVec n → BitVec n → BitVec n} (hrow : bitsRow i = some (op, w, f)) (s : State) :
    ∃ g : Nat → Nat → Nat → Nat, exec i s = bitWord op w g s ∧ ∀ a b : BitVec (typeBits w.ty.toNat),
      g (typeBits w.ty.toNat) a.toNat b.toNat % 2 ^ typeBits w.ty.toNat = (f _ (isSignedTy w.ty.toNat) a b).toNat := by
  revert hrow
  fun_cases bitsRow i <;> intro hrow <;> cases hrow
  -- VMULH
  case case1 =>
    have hexec : exec (.vmulh w) s = execVmulh w s := rfl
    dsimp only [execVmulh] at hexec
    exact ⟨_, hexec, fun a b => by rw [intVal_toNat, intVal_toNat, ← toNat_mulHigh, BitVec.toNat_mod_cancel]⟩
  -- VAND, VOR, VXOR, VNOT
  case case2 => exact ⟨_, show execVand w s = _ from rfl, fun a b => by rw [← BitVec.toNat_and, BitVec.toNat_mod_cancel]⟩
  case case3 => exact ⟨_, show execVor w s = _ from rfl, fun a b => by rw [← BitVec.toNat_or, BitVec.toNat_mod_cancel]⟩
  case case4 => exact ⟨_, show execVxor w s = _ from rfl, fun a b => by rw [← BitVec.toNat_xor, BitVec.toNat_mod_cancel]⟩
  case case5 => exact ⟨_, show execVnot w s = _ from rfl, fun a _ => by rw [← BitVec.toNat_not, BitVec.toNat_mod_cancel]⟩
  -- VSHL, VSHR, VSHA
  case case6 => exact ⟨_, show execVshl w s = _ from rfl, fun a b => by rw [← Nat.shiftLeft_eq, ← BitVec.toNat_shiftLeft]⟩
  case case7 => exact ⟨_, show execVshr w s = _ from rfl, fun a b => by rw [← Nat.shiftRight_eq_div_pow, ← BitVec.toNat_ushiftRight, BitVec.toNat_mod_cancel]⟩
  case case8 => exact ⟨_, show execVsha w s = _ from rfl, fun a b => by rw [signOf_toNat, ← toNat_sshiftRight_eq_wrapTo, BitVec.toNat_mod_cancel]⟩
  -- VMIN, VMAX
  case case9 =>
    have hexec : exec (.vmin w) s = execVmin w s := rfl
    dsimp only [execVmin] at hexec
    exact ⟨_, hexec, fun a b => by rw [intVal_toNat, intVal_toNat, ← apply_ite BitVec.toNat, BitVec.toNat_mod_cancel]⟩
  case case10 =>
    have hexec : exec (.vmax w) s = execVmax w s := rfl
    dsimp only [execVmax] at hexec
    exact ⟨_, hexec, fun a b => by rw [intVal_toNat, intVal_toNat, ← apply_ite BitVec.toNat, BitVec.toNat_mod_cancel]⟩
  -- VCLZ, VPOPC
  case case11 => exact ⟨_, show execVclz w s = _ from rfl, fun a _ => by rw [leadZeros_eq, BitVec.toNat_ofNat]⟩
  case case12 => exact ⟨_, show execVpopc w s = _ from rfl, fun a _ => by rw [popCount_eq, BitVec.toNat_ofNat]; rfl⟩

/-- Settles O31: each row is a word on bits, which sets no flag, and its bits are those of the row's result. -/
theorem leafBitIntegers : Obligations.LeafBitIntegers := by
  intro i op w f h s d hrow hi n sg v
  obtain ⟨g, hexec, hbits⟩ := exec_bitsRow hrow s
  dsimp only [bitWord] at hexec
  exact (laneWord_gives hi hexec).elements_flagless _ (fun l => by rw [← hbits, toNat_element, toNat_element])

/-! ## VSEL, VMOV, VBCS and the shuffles (spec 07, R143, R156; 08, R170, R171) -/

/-- A shuffle moves the element of the source lane where that is live, 0 where it is not, and keeps the lane's own element where there is no source lane. -/
theorem shuffleWord_eq {op : Nat} {w : LeafWord} {j : List Opd → Nat → Option Nat} {r : Drill → List Opd → Nat → BitVec (typeBits w.ty.toNat)}
    (hsource : ∀ d v l k, j v l = some k → r d v l = if inMask d.live k = true then element _ v 0 k else 0) (hown : ∀ d v l, j v l = none → r d v l = element _ v 0 l) (s : State) :
    shuffleWord op w j s = leafWord { op, w } s (fun d m v t => laneOut t w w.ty.toNat m (fun l => ((r d v l).toNat, 0))) := by
  refine congrArg (leafWord _ s) (funext fun d => funext fun m => funext fun v => funext fun t => congrArg (laneOut t w _ m) (funext fun l => ?_))
  cases hj : j v l with
  | none => rw [hown d v l hj, toNat_element]
  | some k => rw [hsource d v l k hj, apply_ite BitVec.toNat, toNat_element]; rfl

/-- A shuffle in which each lane has a source lane. -/
theorem shuffleWord_from_eq {op : Nat} {w : LeafWord} {src : List Opd → Nat → Nat} (s : State) :
    shuffleWord op w (fun v l => some (src v l)) s = leafWord { op, w } s (fun d m v t => laneOut t w w.ty.toNat m (fun l =>
      ((if inMask d.live (src v l) = true then element (typeBits w.ty.toNat) v 0 (src v l) else 0).toNat, 0))) := by
  refine shuffleWord_eq (r := fun d v l => if inMask d.live (src v l) = true then element _ v 0 (src v l) else 0) ?_ ?_ s
  · intro d v l k hj
    cases hj
    rfl
  · intro d v l hj
    cases hj

/-- A shuffle by a distance: the lanes without a source lane keep their element. -/
theorem shuffleWord_shift_eq {op : Nat} {w : LeafWord} {c : Nat → Prop} [DecidablePred c] {src : Nat → Nat} (s : State) :
    shuffleWord op w (fun _ l => if c l then none else some (src l)) s = leafWord { op, w } s (fun d m v t => laneOut t w w.ty.toNat m (fun l =>
      ((if c l then element (typeBits w.ty.toNat) v 0 l else if inMask d.live (src l) = true then element _ v 0 (src l) else 0).toNat, 0))) := by
  refine shuffleWord_eq (r := fun d v l => if c l then element _ v 0 l else if inMask d.live (src l) = true then element _ v 0 (src l) else 0) ?_ ?_ s
  · intro d v l k hj
    obtain ⟨hc, rfl⟩ : ¬ c l ∧ src l = k := by simpa only [Option.ite_none_left_eq_some, Option.some.injEq] using hj
    exact if_neg hc
  · intro d v l hj
    by_cases hc : c l
    · exact if_pos hc
    · cases (if_neg hc).symm.trans hj

/-- Each move gives its active lanes the bits of the row's elements and no flag. -/
theorem exec_moveRow {i : Instr} {op : Nat} {w : LeafWord} {f : Drill → List Opd → ∀ n, Nat → BitVec n} (hrow : moveRow i = some (op, w, f)) (s : State) :
    exec i s = leafWord { op, w } s (fun d m v t => laneOut t w w.ty.toNat m (fun l => ((f d v (typeBits w.ty.toNat) l).toNat, 0))) := by
  revert hrow
  fun_cases moveRow i <;> intro hrow <;> cases hrow
  -- VSEL, VMOV, VBCS
  case case1 => exact show execVsel w s = _ by simp only [execVsel, apply_ite BitVec.toNat, toNat_element]
  case case2 => exact show execVmov w s = _ by simp only [execVmov, toNat_element]
  case case3 => exact show execVbcs w s = _ by simp only [execVbcs, toNat_element]
  -- VSHUF, VSHFUP, VSHFDN, VBCL
  case case4 =>
    have hexec : exec (.vshuf w) s = execVshuf w s := rfl
    simp only [execVshuf, ← toNat_element] at hexec
    exact hexec.trans (shuffleWord_from_eq s)
  case case5 => exact show execVshfup w s = _ from shuffleWord_shift_eq s
  case case6 => exact show execVshfdn w s = _ from shuffleWord_shift_eq s
  case case7 => exact show execVbcl w s = _ from shuffleWord_from_eq s

/-- Settles O32: each move writes the bits of the row's elements to the active lanes, and sets no flag. -/
theorem leafElementMoves : Obligations.LeafElementMoves := by
  intro i op w f h s d hrow hi n v
  exact (laneOut_gives hi (exec_moveRow hrow s) rfl).elements_flagless _ (fun _ => rfl)

end Sys2Proof.Machine
end
